-- ==== Sys2Proof/Word.lean ====
section
/-!
DEFINITION. The word types of the PY740 and the two sparse containers its state is made of.

A `Store w` is a sparse array of `w`-bit values keyed by a natural number, in one canonical form: keys strictly
rising, no entry equal to the value an unlisted key reads as (zero).  A `Tab α` is a table of records by key, keys
strictly rising.  What reads and writes them stands in `Machine/Maps.lean`.
-/
namespace Sys2Proof

/-- A byte of memory (R3). -/
abbrev Byte := BitVec 8

/-- A 32-bit register or instruction word (R13, R43). -/
abbrev Word := BitVec 32

/-- A 64-bit register pair, address or program counter (R16, R43). -/
abbrev Pair := BitVec 64

/-- A 64-byte line, byte `i` in bits `[8i+7 : 8i]` (R3). -/
abbrev Line := BitVec 512

/-- A sparse array of `w`-bit values: keys strictly rising, no zero value listed. -/
abbrev Store (w : Nat) := List (Nat × BitVec w)

/-- A table of records by key, keys strictly rising. -/
abbrev Tab (α : Type) := List (Nat × α)

end Sys2Proof
end

