-- ==== Sys2Proof/Config.lean ====
section
/-!
DEFINITION. What an implementation fixes and what the manual leaves without a computable definition in its own text:
the free values and the external algorithms that the manual names but does not give (the signature schemes, SHA-384,
and the format of a schedule's payload).  Every constant here is opaque: no proof can see a value of it.
-/
namespace Sys2Proof

/-- The kinds of a schedule's chunk operations (R336). -/
inductive SchedKind where
  | send (peer : Nat)
  | recv (peer slot : Nat)
  | reduce (slot : Nat)
  | copy
  | gate (value : BitVec 64)
  | signal
  deriving DecidableEq, Repr

/-- One chunk operation of a collective schedule (R336): what it moves and how the graph runs on. -/
structure SchedOp where
  /-- the operation's kind -/
  kind : SchedKind
  /-- dependency counter set from the schedule -/
  deps : Nat
  /-- successors whose counters its completion lowers -/
  succ : List Nat
  /-- source: base table index and byte offset -/
  src : Nat × Nat
  /-- destination: base table index and byte offset -/
  dst : Nat × Nat
  /-- length in bytes -/
  len : Nat
  /-- reduction element type (Table 18-6) -/
  ety : Nat
  /-- the schedule requests switch reduction for it (R341) -/
  switch : Bool
  deriving DecidableEq, Repr

/-- A collective schedule (R336): its graph, this module's rank and the ranks' module numbers. -/
structure Schedule where
  /-- the operations, by number -/
  ops : List SchedOp
  /-- this module's rank -/
  rank : Nat
  /-- module number of each rank -/
  modules : List Nat
  deriving DecidableEq, Repr

/-- SHA-384 (R393, R396 to R398), an algorithm named and not given by the manual. -/
opaque Config.sha384 : List Byte → BitVec 384

/-- The RSA-3072 RSASSA-PSS verification of R396: key, message, signature. -/
opaque Config.rsaVerify : List Byte → List Byte → List Byte → Bool

/-- The SLH-DSA-SHA2-192s verification of R396: key, message, signature. -/
opaque Config.slhVerify : List Byte → List Byte → List Byte → Bool

/-- The RSA signature that the device's attestation key makes over a message (R398). -/
opaque Config.rsaSign : List Byte → List Byte

/-- The SLH-DSA signature that the device's attestation key makes over a message (R398). -/
opaque Config.slhSign : List Byte → List Byte

/-- The device's attestation public keys: RSA modulus, SLH-DSA key (R398). -/
opaque Config.attestKeys : List Byte × List Byte

/-- The n-th key of the on-die generator (R394): a random bit source conditioned through a DRBG.  A pair of AES-256 keys. -/
opaque Config.newKey : Nat → BitVec 512

/-- AES-256-XTS over one 64-byte data unit (R394): key, tweak, data. -/
opaque Config.xtsEncrypt : BitVec 512 → BitVec 128 → BitVec 512 → BitVec 512

/-- The digests fused in the module for each envelope kind: of the RSA key and of the SLH-DSA key (R397). -/
opaque Config.fusedDigest : Nat → BitVec 384 × BitVec 384

/-- The digest of the result area that a test kernel's signed image stores (R393), from its payload: the manual gives no layout of it. -/
opaque Config.testDigest : List Byte → BitVec 384

/-- The result area of a test kernel (R393): offset in its image's pages and length, from its payload: the manual gives no layout of it. -/
opaque Config.testArea : List Byte → Nat × Nat

/-- The schedule that a signed payload describes; its format is schedule firmware's (R336). -/
opaque Config.scheduleOf : List Byte → Option Schedule

/-- The measurements, fused versions and key generations as a report's payload lays them out after the nonce (R398):
the manual names the contents and gives no layout. -/
opaque Config.reportTail : List (BitVec 384) → List (BitVec 32) → List (BitVec 32) → List Byte

/-- The 32-byte header that begins a transaction's first flit (R325), from the sort and the numbers of its message: the manual gives no
layout of it. -/
opaque Config.txHeader : List Nat → BitVec 256

/-- The payload of a retry request for a sequence number, of a credit flit for the next sequence number expected and a virtual channel, and
of a notice (R325, R326): the manual gives no layout of them. -/
opaque Config.retryPayload : BitVec 16 → BitVec 1920
opaque Config.creditPayload : BitVec 16 → BitVec 2 → BitVec 1920

/-- What a received retry request or credit flit names: the sequence number, and the receive buffers given back on a virtual channel. -/
opaque Config.retrySeq : BitVec 1920 → BitVec 16
opaque Config.creditSeq : BitVec 1920 → BitVec 16
opaque Config.creditRoom : BitVec 1920 → BitVec 2 → BitVec 16

/-- Free values: the n-th value that the manual leaves open where the machine goes on. -/
opaque Config.free : Nat → BitVec 64

end Sys2Proof
end

