-- ==== Sys2Proof/Syntax.lean ====
section
/-!
DEFINITION. The instruction set Warus and the module's events: one constructor of `Instr` for each row of the opcode
table.  The first 144 constructors are instruction words; the others are the operations and events that the module's
own units, firmware, the host and the peers bring about (they have no encoding).
-/
namespace Sys2Proof

/-! ## Operand codes (Table 3-2) -/

/-- A destination code, or the code of the c field: `v` 0 to 111, `k` 112 to 123, `z` 124, `bad` 125 to 127. -/
inductive Dst where
  | v (n : Fin 112)
  | k (n : Fin 12)
  | z
  | bad (n : Fin 3)
  deriving DecidableEq, Repr

/-- A source code with the literal that it selects (R49, R50). -/
inductive Src where
  | v (n : Fin 112)
  | k (n : Fin 12)
  | z
  | rsvd
  | lit64 (w : BitVec 64)
  | lit32 (w : BitVec 32)
  deriving DecidableEq, Repr

/-! ## Function fields -/

/-- `imul` (R92). -/
inductive ImulF where | lo | hi | hin deriving DecidableEq, Repr
/-- `imad` (R92). -/
inductive ImadF where | w32 | w64 | w64n deriving DecidableEq, Repr
/-- `imnx` (Table 5-1). -/
inductive ImnxF where | smin | smax | nmin | nmax deriving DecidableEq, Repr
/-- `bits` (R95). -/
inductive BitsF where | popc | clz | ctz | brev deriving DecidableEq, Repr
/-- `add64` (R96). -/
inductive Add64F where | add | sub | x4 | x8 | x16 deriving DecidableEq, Repr
/-- The rounding modes (R13). -/
inductive Rnd where | rn | rz | ru | rd deriving DecidableEq, Repr
/-- `fmnx` (R103). -/
inductive FmnxF where | min | max | minnum | maxnum deriving DecidableEq, Repr
/-- `frcp` (R104). -/
inductive FrcpF where | rcp | sqrt | rsqrt deriving DecidableEq, Repr
/-- `fex` (R105). -/
inductive FexF where | exp2 | log2 | exp | log deriving DecidableEq, Repr
/-- `fsgn` (R110). -/
inductive FsgnF where | neg | abs | copysign | negabs deriving DecidableEq, Repr
/-- `frnd` (R111). -/
inductive FrndF where | rne | trunc | ceil | floor deriving DecidableEq, Repr
/-- The conversion codes of `cvt` (Table 5-3). -/
inductive CvtC where
  | f32s32 | f32n32 | f32s64 | f32n64 | s32f32 | n32f32 | s64f32 | n64f32
  | f32bf16 | bf16f32 | f32e4m3 | e4m3f32 | f32e5m2 | e5m2f32
  deriving DecidableEq, Repr
/-- `icmp` (Table 5-5). -/
inductive IcmpF where | eq | ne | lt | le | gt | ge | ltn | len deriving DecidableEq, Repr
/-- `fcmp` (Table 5-5). -/
inductive FcmpF where | eq | ne | lt | le | gt | ge | un | ord deriving DecidableEq, Repr
/-- `mov` (R118). -/
inductive MovF where | w32 | w64 | w128 deriving DecidableEq, Repr
/-- `shfl` (R125). -/
inductive ShflF where | idx | up | down | xor deriving DecidableEq, Repr
/-- `vote` (R126). -/
inductive VoteF where | any | all | ballot | elect deriving DecidableEq, Repr
/-- `wred` (R127). -/
inductive WredF where | add | smin | smax | nmin | nmax | and | or | xor deriving DecidableEq, Repr
/-- `fwred` (R127). -/
inductive FwredF where | sum | min | max | minnum | maxnum deriving DecidableEq, Repr
/-- `wscn` (R128). -/
inductive WscnF where | incadd | excadd | incor | excor deriving DecidableEq, Repr
/-- The special register codes of `rdsr` (Table 5-6). -/
inductive SpReg where
  | workId | f0 | f1 | f2 | f3 | f4 | f5 | threadInBlock | waveInBlock | lane | waves | gangIndex | coreNo | asid
  | scratch | status | wb | alloc | args | cycles | trapCause | trapPc | trapAddr | trapDetail
  deriving DecidableEq, Repr
/-- `idiv` (R98). -/
inductive IdivF where | sq | sr | nq | nr deriving DecidableEq, Repr
/-- `iabs` (R99). -/
inductive IabsF where | abs | neg | sgn deriving DecidableEq, Repr
/-- `ld` sizes (R246). -/
inductive LdF where | b8z | b8s | b16z | b16s | b32 | b64 | b128 deriving DecidableEq, Repr
/-- `st` sizes (R247). -/
inductive StF where | b8 | b16 | b32 | b64 | b128 deriving DecidableEq, Repr
/-- The scopes and the two promotions (R241, Table 13-3). -/
inductive Scope where | wave | block | gang | die | device | system | diepro | devpro deriving DecidableEq, Repr
/-- `atom` and `atom64` (R252). -/
inductive AtomF where | add | smin | smax | nmin | nmax | and | or | xchg deriving DecidableEq, Repr
/-- `bnk` (R257). -/
inductive BnkF where | iadd | cadd | fmax | fmin deriving DecidableEq, Repr
/-- The engine codes (Table 6-1). -/
inductive Engine where | copy | matrix | sillage | ports | bank deriving DecidableEq, Repr
/-- The `mma` modes (R141). -/
inductive MmaF where | acc | set | cacc | cset | ck deriving DecidableEq, Repr
/-- `parv` modes (R291). -/
inductive ParvF where | always | ess | never deriving DecidableEq, Repr
/-- The codes of `pst` (Table 17-6). -/
inductive PstC where
  | status | n | z | stateVa | index | seed | binding | flags | s | lmax
  deriving DecidableEq, Repr
/-- The codes of `sysr` (Table 15-3). -/
inductive SysR where | status | cause | pc | addr | detail | mask | image | faultPc deriving DecidableEq, Repr
/-- The codes of `sysw` (Table 15-3). -/
inductive SysW where | status | pc deriving DecidableEq, Repr

/-! ## Data that events bring in from outside the module -/

/-- How far a sample's step has come, as it stands at its arrival at a barrier (R362). -/
structure StepState where
  t : BitVec 32
  h : BitVec 32
  clip : Option (BitVec 32)
  accepted : Nat
  rejected : Nat
  deriving DecidableEq, Repr

/-- What one other member module contributes to a resample (R316). -/
structure PeerShare where
  /-- the member's place in the member list -/
  member : Nat
  /-- largest log-weight among its live particles, or none -/
  lmax : Option Int
  /-- sum of its q values -/
  s : Nat
  /-- sum of the squares of its q values -/
  q2 : Nat
  /-- its free slots, in ascending global order -/
  free : List Nat
  /-- its extra copies: the parents' global slots, ascending, each as often as it has extra copies -/
  extras : List Nat
  /-- mode of its arrivals: the smallest f, or none -/
  mode : Option Nat
  /-- all of its particles hold their arrivals -/
  complete : Bool
  /-- the test draw that the home module sends, none where the resample draws from Philox -/
  draw : Option (BitVec 32)
  /-- state pages of the parents that this module's slots receive: (parent slot, page, bytes) -/
  pages : List (Nat × Nat × List (BitVec 8))
  /-- the outcome of the ESS test as the home module decides it (R316), none from another member or without a test -/
  fail : Option Bool
  /-- a particle of the member was cut in the episode (R317) -/
  cut : Bool
  /-- `pctl` codes that the member's threads forward to the home, in order: code and value (R306) -/
  controls : List (Nat × BitVec 32)
  /-- samples that arrived at the member for parents whose clones this module's slots receive (R362) -/
  donors : List (Nat × StepState)
  deriving DecidableEq, Repr

/-- A transaction that reaches this module from a peer (R329, R331). -/
structure PeerTx where
  /-- origin module number -/
  origin : Nat
  /-- the window handle -/
  handle : Nat
  /-- byte offset in the target segment -/
  offset : Nat
  /-- length in bytes -/
  len : Nat
  /-- the bytes of a put -/
  bytes : List (BitVec 8)
  deriving DecidableEq, Repr

/-- The outcome that a peer's answer reports (Table 18-3). -/
inductive PeerReply where
  | ok
  | reason (r : BitVec 8)
  deriving DecidableEq, Repr

/-- The module's readings at a power sample (R403, R404). -/
structure Sensors where
  /-- mean power of the last millisecond, W -/
  power : Nat
  /-- the core islands in the order of their load, busiest first -/
  busiest : List Nat
  /-- inlet temperature, 0.01 °C -/
  inlet : Nat
  /-- flow, 0.01 L/min -/
  flow : Nat
  deriving DecidableEq, Repr

/-- The envelope of a signed image (Table 22-2). -/
structure Envelope where
  /-- bytes 0x000 to 0x017: magic, version, kind, security version, reserved, payload length -/
  head : List (BitVec 8)
  /-- SHA-384 of the payload, 48 bytes -/
  digest : List (BitVec 8)
  /-- RSA-3072 modulus, 384 bytes -/
  rsaKey : List (BitVec 8)
  /-- SLH-DSA-SHA2-192s public key, 48 bytes -/
  slhKey : List (BitVec 8)
  /-- RSA signature, 384 bytes -/
  rsaSig : List (BitVec 8)
  /-- SLH-DSA signature, 16,224 bytes -/
  slhSig : List (BitVec 8)
  /-- the payload -/
  payload : List (BitVec 8)
  deriving DecidableEq, Repr

/-- What the boot meets (R402). -/
structure BootIn where
  /-- the firmware image's envelope -/
  firmware : Envelope
  /-- dies that fail step 3: HBM training -/
  badDies : List Nat
  /-- dies that fail step 4: die-to-die link training -/
  badLinks : List Nat
  /-- dies that fail the self-test of step 6 -/
  badTests : List Nat
  /-- dies that fail step 7 as a whole: fabric -/
  badFabric : List Nat
  /-- cores with failing partitions, as 4-bit maps -/
  quarantine : List (Nat × BitVec 4)
  /-- ports whose training fails -/
  badPorts : List Nat
  /-- receive buffers in flits that a link's training reserves at the other end, by virtual channel (R324) -/
  buffers : List Nat
  /-- base of the Accord region on every stack, which firmware reserves (R368) -/
  accordBase : Nat
  /-- length G of the Accord region -/
  accordLen : Nat
  /-- log2 of the record count of each die's fault record queue (R239) -/
  faultK : Nat
  /-- test kernels' images (R393) -/
  tests : List Envelope
  deriving DecidableEq, Repr

/-! ## The instructions and events -/

/-- One constructor for each row of the opcode table.  `s` is the switch marker of a word; a word of class X always
carries it and has no `s`. -/
inductive Instr where
  -- opcodes 0x00 to 0x0F
  | nop (s : Bool)
  | iadd (d : Dst) (a b : Src) (s : Bool)
  | isub (d : Dst) (a b : Src) (s : Bool)
  | imul (d : Dst) (a b : Src) (f : ImulF) (s : Bool)
  | imad (d : Dst) (a b : Src) (f : ImadF) (s : Bool)
  | imnx (d : Dst) (a b : Src) (f : ImnxF) (s : Bool)
  | and (d : Dst) (a b : Src) (notb : Bool) (s : Bool)
  | or (d : Dst) (a b : Src) (notb : Bool) (s : Bool)
  | xor (d : Dst) (a b : Src) (notb : Bool) (s : Bool)
  | shl (d : Dst) (a b : Src) (s : Bool)
  | shr (d : Dst) (a b : Src) (ari : Bool) (s : Bool)
  | bfx (d : Dst) (a b : Src) (sx : Bool) (s : Bool)
  | bfi (d : Dst) (a b : Src) (s : Bool)
  | bits (d : Dst) (a : Src) (f : BitsF) (s : Bool)
  | add64 (d : Dst) (a b : Src) (f : Add64F) (s : Bool)
  | movi (c : Dst) (i : BitVec 17) (s : Bool)
  -- opcodes 0x10 to 0x1F
  | fadd (d : Dst) (a b : Src) (f : Rnd) (s : Bool)
  | fsub (d : Dst) (a b : Src) (f : Rnd) (s : Bool)
  | fmul (d : Dst) (a b : Src) (f : Rnd) (s : Bool)
  | ffma (d : Dst) (a b : Src) (f : Rnd) (s : Bool)
  | fmnx (d : Dst) (a b : Src) (f : FmnxF) (s : Bool)
  | frcp (d : Dst) (a : Src) (f : FrcpF) (s : Bool)
  | fex (d : Dst) (a : Src) (f : FexF) (s : Bool)
  | fscl (d : Dst) (a b : Src) (f : Rnd) (s : Bool)
  | fcls (d : Dst) (a : Src) (s : Bool)
  | bfadd (d : Dst) (a b : Src) (f : Rnd) (s : Bool)
  | bfmul (d : Dst) (a b : Src) (f : Rnd) (s : Bool)
  | bffma (d : Dst) (a b : Src) (f : Rnd) (s : Bool)
  | fdot2 (d : Dst) (a b : Src) (f : Rnd) (s : Bool)
  | fdiv (d : Dst) (a b : Src) (f : Rnd) (s : Bool)
  | fsgn (d : Dst) (a b : Src) (f : FsgnF) (s : Bool)
  | frnd (d : Dst) (a : Src) (f : FrndF) (s : Bool)
  -- opcodes 0x20 to 0x2E
  | cvt (d : Dst) (a : Src) (code : CvtC) (f : Rnd) (s : Bool)
  | icmp (d : Dst) (a b : Src) (f : IcmpF) (s : Bool)
  | fcmp (d : Dst) (a b : Src) (f : FcmpF) (s : Bool)
  | sel (d : Dst) (a b : Src) (w64 : Bool) (s : Bool)
  | shfl (d : Dst) (a b : Src) (f : ShflF) (s : Bool)
  | vote (d : Dst) (a : Src) (f : VoteF) (s : Bool)
  | wred (d : Dst) (a : Src) (f : WredF) (s : Bool)
  | fwred (d : Dst) (a : Src) (f : FwredF) (s : Bool)
  | wscn (d : Dst) (a : Src) (f : WscnF) (s : Bool)
  | rdsr (d : Dst) (code : SpReg) (clr : Bool) (s : Bool)
  | kset (d : Dst) (a : Src) (w64 : Bool) (s : Bool)
  | prm (d : Dst) (a b : Src) (s : Bool)
  | mov (d : Dst) (a : Src) (f : MovF) (s : Bool)
  | idiv (d : Dst) (a b : Src) (f : IdivF) (s : Bool)
  | iabs (d : Dst) (a : Src) (f : IabsF) (s : Bool)
  -- opcodes 0x30 to 0x3D
  | ld (d : Dst) (a b : Src) (f : LdF) (s : Bool)
  | st (d : Dst) (a b : Src) (f : StF) (s : Bool)
  | lda (d : Dst) (a b : Src) (f : Scope) (s : Bool)
  | stl (d : Dst) (a b : Src) (f : Scope) (s : Bool)
  | atom (d : Dst) (a b : Src) (f : AtomF) (s : Bool)
  | cas (d : Dst) (a b : Src) (w64 : Bool) (s : Bool)
  | fxadd (a b : Src) (s : Bool)
  | fxrd (d : Dst) (a : Src) (raw : Bool) (s : Bool)
  | bnk (d : Dst) (a b : Src) (f : BnkF) (s : Bool)
  | fenceAcqrel (f : Scope) (s : Bool)
  | fenceAcq (f : Scope) (s : Bool)
  | fenceRel (f : Scope) (s : Bool)
  | ldb (d : Dst) (a b : Src) (s : Bool)
  | cctlWb (a : Src) (s : Bool)
  | cctlWbinv (a : Src) (s : Bool)
  | cctlWball (a : Src) (s : Bool)
  | cctlWbinvall (a : Src) (s : Bool)
  | cctlPf1 (a : Src) (s : Bool)
  | cctlPf2 (a : Src) (s : Bool)
  | cctlCreset (d : Dst) (a : Src) (s : Bool)
  | ldk (d : Dst) (a b : Src) (w64 : Bool) (s : Bool)
  | atom64 (d : Dst) (a b : Src) (f : AtomF) (s : Bool)
  -- opcodes 0x40 to 0x4F
  | bnz (c : Dst) (i : BitVec 17)
  | bz (c : Dst) (i : BitVec 17)
  | jmp (i : BitVec 24)
  | call (c : Dst) (i : BitVec 17)
  | jind (a : Src)
  | calli (d : Dst) (a : Src)
  | ret (a : Src)
  | land (s : Bool)
  | join (a : Src) (id : BitVec 7)
  | barSync (i : Fin 16)
  | barArr (i : Fin 16)
  | barWt (i : Fin 16)
  | gbarSync (i : Fin 16)
  | gbarArr (i : Fin 16)
  | gbarWt (i : Fin 16)
  | exit
  | trap (code : BitVec 7)
  | brk
  | yld
  | waitAll (e : Engine)
  | waitGe (a : Src) (e : Engine)
  -- opcodes 0x50 to 0x5B
  | mma (d : Dst) (a b : Src) (f : MmaF) (s : Bool)
  | cpy (d : Dst) (a b : Src) (s : Bool)
  | cpym (d : Dst) (a b : Src) (s : Bool)
  | ringInit (d : Dst) (a b : Src) (s : Bool)
  | ringArrive (d : Dst) (a b : Src) (s : Bool)
  | ringWait (d : Dst) (a b : Src) (s : Bool)
  | ringRelease (d : Dst) (a b : Src) (s : Bool)
  | mck (d : Dst) (a : Src) (clr : Bool) (s : Bool)
  | tlrd (d : Dst) (e : Engine) (s : Bool)
  | spawn (d : Dst) (a b : Src) (core : Bool) (s : Bool)
  | phend
  | putWin (d : Dst) (a b : Src) (s : Bool)
  | putLaunch (d : Dst) (a : Src) (s : Bool)
  | get (d : Dst) (a b : Src) (s : Bool)
  | wcntRdo (d : Dst) (a : Src) (s : Bool)
  | wcntRdt (d : Dst) (a : Src) (s : Bool)
  | wcntWto (d : Dst) (a b : Src) (s : Bool)
  | wcntWtt (d : Dst) (a b : Src) (s : Bool)
  | mfillZero (d : Dst) (s : Bool)
  | mfillSet (d : Dst) (a : Src) (s : Bool)
  -- opcodes 0x60 to 0x6E
  | pbind (a b : Src) (s : Bool)
  | wadd (a : Src) (s : Bool)
  | wrd (d : Dst) (fp : Bool) (s : Bool)
  | parv (d : Dst) (f : ParvF)
  | pst (d : Dst) (code : PstC) (s : Bool)
  | pctlItend (d : Dst) (s : Bool)
  | pctlKill (d : Dst) (s : Bool)
  | pctlTheta (d : Dst) (a : Src) (s : Bool)
  | pctlDraw (d : Dst) (a : Src) (s : Bool)
  | pctlUndraw (d : Dst) (s : Bool)
  | rng (d : Dst) (a : Src) (part : Bool) (s : Bool)
  | ppar (d : Dst) (gen : Bool) (s : Bool)
  | scfgMeth (d : Dst) (a b : Src) (s : Bool)
  | scfgStart (d : Dst) (a b : Src) (s : Bool)
  | scfgClose (d : Dst) (s : Bool)
  | scfgStop (d : Dst) (b : Src) (s : Bool)
  | seval (d : Dst) (a : Src) (s : Bool)
  | sst (d : Dst) (a : Src) (wait : Bool) (s : Bool)
  | mld (d : Dst) (a : Src) (w64 : Bool) (s : Bool)
  | mst (a b : Src) (w64 : Bool) (s : Bool)
  | mcas (d : Dst) (a b : Src) (w64 : Bool) (s : Bool)
  | mtag (d : Dst) (a : Src) (s : Bool)
  -- opcodes 0x70 to 0x77
  | winb (a : Src) (add : Bool) (s : Bool)
  | racq (d : Dst) (a : Src) (try_ : Bool)
  | rrel (d : Dst) (a : Src) (s : Bool)
  | sysr (d : Dst) (code : SysR) (s : Bool)
  | sysw (a : Src) (code : SysW) (s : Bool)
  | eret
  | syscVersion (d : Dst)
  | syscPost (d : Dst) (a : Src)
  | syscPrefault (d : Dst) (a : Src)
  | dbgxQuery (d : Dst) (a : Src) (s : Bool)
  | dbgxNotify (d : Dst) (a : Src) (s : Bool)
  | dbgxStop (d : Dst) (a : Src) (s : Bool)
  -- faults, homes, translation
  | faultRecordDeferred (th : Nat)
  | faultOutcomeWrite (die seq : Nat) (outcome : BitVec 8)
  | l1Eviction (core line : Nat)
  | homeOperationExecute (i : Nat)
  | bankOperationExecute (i : Nat)
  | sharedPageCopy (i : Nat)
  | translationInvalidation (asid : Nat) (va len : Nat)
  | classVResultWrite (th ticket : Nat)
  -- issue and the scheduler
  | runImplicitEnd (g : Nat)
  | schedulerYield (g : Nat)
  | issueGroupForm (core part th : Nat)
  | convergentTimeout (wave : Nat)
  | joinTimeout (th : Nat)
  | barrierTimeout (th : Nat)
  | phaseEnd (ctx : Nat)
  | registerAcquireTimeout (th : Nat)
  | rrelStallEnd (th : Nat)
  | trapEntry (th : Nat)
  -- engines
  | matrixCommandRun (blk : Nat)
  | copyCommandRun (blk n : Nat)
  | copyPieceCredit (blk n target : Nat)
  | ringOpApply (i : Nat)
  -- launches, placement and tasks
  | launchQueueWrite (q off : Nat) (bytes : List (BitVec 8))
  | gangPlacement (task : Nat) (cores : List Nat)
  | taskPlacement (core : Nat)
  | neighbourBalance (cluster : Nat)
  | taskSteal (core : Nat)
  | launchComplete (launch : Nat)
  -- pre-emption
  | preemptRequest (ctx : Nat)
  | contextEvictable (ctx : Nat)
  | contextResume (ctx : Nat) (cores : List Nat)
  | syscAnswer (th : Nat)
  -- populations
  | barrierEpisodeEnd (pop : Nat) (peers : List PeerShare)
  | cutDeadline (pop : Nat)
  | memoryPressureDrop (asid : Nat)
  | iterationOverrun (pop used : Nat)
  -- collectives
  | collectiveStartAccept (w off : Nat) (bytes : List (BitVec 8)) (owner : Option Nat)
  | scheduleSend (inst op : Nat)
  | scheduleRecv (inst op rank : Nat) (bytes : List (BitVec 8))
  | scheduleReduce (inst op slot : Nat)
  | scheduleCopy (inst op : Nat)
  | scheduleGate (inst op : Nat)
  | scheduleSignal (inst op : Nat)
  | stepTimerExpiry (inst op : Nat)
  | absentNotice (inst rank : Nat) (present : Bool)
  | reservationRelease (inst : Nat)
  -- Sillage
  | sillageStage (cluster sample : Nat)
  | sillageStepEnd (cluster sample : Nat)
  -- Accord memory
  | accordCoordinatorServe (set line : Nat)
  | accordMemberLoss (set member : Nat)
  | coordinatorTakeover (set line : Nat) (held : List Nat)
  | accordScrubVisit (set line : Nat)
  -- reliability
  | phaseRelaunch (ctx : Nat)
  | dieFence (die : Nat)
  | testKernelEnd (core image : Nat) (choice : Bool) (other : Nat)
  -- module
  | moduleReset (boot : BootIn)
  -- mailbox commands: a write of MBXGO with GO = 1 while the request buffer names the command
  | mbxInfo (seq : BitVec 16)
  | mbxAcknowledgeEvents (seq : BitVec 16)
  | mbxCreateAsid (seq : BitVec 16)
  | mbxTearDownAsid (seq : BitVec 16)
  | mbxBankSegment (seq : BitVec 16)
  | mbxMapPages (seq : BitVec 16)
  | mbxUnmapPages (seq : BitVec 16)
  | mbxAperture (seq : BitVec 16)
  | mbxAccordSetEntry (seq : BitVec 16)
  | mbxMapAccordPages (seq : BitVec 16)
  | mbxReplaceAccordMember (seq : BitVec 16)
  | mbxCreateLaunchQueue (seq : BitVec 16)
  | mbxDestroyLaunchQueue (seq : BitVec 16)
  | mbxReadOverrunCount (seq : BitVec 16)
  | mbxCollectiveQueueWindow (seq : BitVec 16)
  | mbxSetModuleNumber (seq : BitVec 16)
  | mbxRegisterWindow (seq : BitVec 16)
  | mbxUnregisterWindow (seq : BitVec 16)
  | mbxAccessControlEntry (seq : BitVec 16)
  | mbxLoadSchedule (seq : BitVec 16)
  | mbxCreatePopulation (seq : BitVec 16)
  | mbxPopulationStart (seq : BitVec 16)
  | mbxPopulationPause (seq : BitVec 16)
  | mbxPopulationResume (seq : BitVec 16)
  | mbxPopulationCancel (seq : BitVec 16)
  | mbxPopulationLaunches (seq : BitVec 16)
  | mbxPopulationRead (seq : BitVec 16)
  | mbxPreEmpt (seq : BitVec 16)
  | mbxDebugAttach (seq : BitVec 16)
  | mbxDebugDetach (seq : BitVec 16)
  | mbxDebugStopAll (seq : BitVec 16)
  | mbxDebugReleaseAll (seq : BitVec 16)
  | mbxImageRead (seq : BitVec 16)
  | mbxImageWrite (seq : BitVec 16)
  | mbxPowerCap (seq : BitVec 16)
  | mbxTelemetry (seq : BitVec 16)
  | mbxAttestation (seq : BitVec 16)
  | mbxHostMessageQueue (seq : BitVec 16)
  | mbxUnknownCommand (seq : BitVec 16)
  -- time-out of a wait on a window counter
  | counterWaitTimeout (th : Nat)
  -- events that come from outside the module or from its physical surroundings
  | flitReceive (port : Nat) (flit : BitVec 2048)
  | linkRetrain (port : Nat)
  | linkRetrainingEnd (port : Nat) (ok : Bool)
  | putTargetReceive (tx : PeerTx)
  | putAckReceive (tx : Nat) (reply : PeerReply)
  | getTargetRead (tx : PeerTx)
  | getDataLand (tx : Nat) (reply : PeerReply) (bytes : List (BitVec 8))
  | peerLaunchReceive (origin queue : Nat) (bytes : List (BitVec 8))
  | powerSample (r : Sensors)
  | thermalEvent (die island temp : Nat)
  | coolantFlowLow (flow : Nat)
  | requestBufferWrite (off : Nat) (bytes : List (BitVec 8))
  | registerWrite (off : Nat) (value : BitVec 64) (wide : Bool)
  | bar2UnmappedAccess (off : Nat) (write : Option (List (BitVec 8)))
  | patrolScrub (unit : Nat) (uncorrectable : Bool)
  | calibration (port lane : Nat)
  | switchReservationLoss (inst : Nat)
  deriving DecidableEq, Repr

end Sys2Proof
end

