-- ==== Sys2Proof/WellFormed.lean ====
section
/-!
DEFINITION. The well-formed instructions: the terms of `Instr` that an instruction word can carry.  The fields' types
already bound registers, codes and immediates; what is left are the combinations of fields that the manual reserves.
-/
namespace Sys2Proof

/-- The scopes a release may name: 6 and 7 promote and are not allowed for `stl` and `fence` kind 2 (R249, R250). -/
def Scope.releasable : Scope → Bool
  | .diepro => false
  | .devpro => false
  | _ => true

/-- The rounding field of a conversion: codes 0x09, 0x0B and 0x0D of Table 5-3 take f = 0 only. -/
def CvtC.allows (c : CvtC) (f : Rnd) : Bool :=
  match c with
  | .bf16f32 => decide (f = .rn)
  | .e4m3f32 => decide (f = .rn)
  | .e5m2f32 => decide (f = .rn)
  | _ => true

/-- `i` is a term that the encodings of the manual carry: a word for the instructions, any term for the events. -/
def Instr.wf : Instr → Bool
  | .cvt _ _ c f _ => c.allows f
  | .fsgn _ _ b f _ => f == .copysign || b == .z
  | .vote _ a f _ => f != .elect || a == .z
  | .rdsr _ c clr _ => !clr || c == .status
  | .stl _ _ _ f _ => f.releasable
  | .fenceRel f _ => f.releasable
  | _ => true

end Sys2Proof
end

