-- ==== Sys2Proof/Decode.lean ====
section
/-!
DEFINITION. Instruction words: decoding (total, rejecting by name) and encoding, both written from the formats of
Table 3-1, the operand codes of Table 3-2 and the encoding tables of the chapters.

A word decodes together with the literal words that follow it (R50).  An operand code that raises the illegal-operand
trap still decodes (that trap is check 3 of R67, made per thread); what does not decode is what raises the
illegal-instruction trap whatever the thread: a reserved opcode, function field or code, an unused field that does not
hold 124 or 0, a class X word without its marker, and the stray bits of `nop`.
-/
namespace Sys2Proof

/-- Why a word is no instruction (R54, R55, R57, R61); `short` says that bytes are missing. -/
inductive Reject where
  | short
  | reservedOpcode
  | reservedField
  | reservedCode
  | unusedField
  | unmarked
  deriving DecidableEq, Repr

/-! ## Operand codes -/

/-- The destination (or c field) that a code names (Table 3-2). -/
def Dst.ofCode (c : BitVec 7) : Dst :=
  if h : c.toNat < 112 then .v ⟨c.toNat, h⟩
  else if h2 : c.toNat < 124 then .k ⟨c.toNat - 112, by omega⟩
  else if c.toNat = 124 then .z
  else .bad ⟨(c.toNat - 125) % 3, Nat.mod_lt _ (by decide)⟩

/-- The code of a destination. -/
def Dst.code : Dst → BitVec 7
  | .v n => BitVec.ofNat 7 n.val
  | .k n => BitVec.ofNat 7 (112 + n.val)
  | .z => 124
  | .bad n => BitVec.ofNat 7 (125 + n.val)

/-- The source that a code names, and the literal words left after it (R49, R50).  A literal word that is not there
reads as 0; `Decode` never asks for one that is missing. -/
def Src.take (c : BitVec 7) (l : List Word) : Src × List Word :=
  if h : c.toNat < 112 then (.v ⟨c.toNat, h⟩, l)
  else if h2 : c.toNat < 124 then (.k ⟨c.toNat - 112, by omega⟩, l)
  else if c.toNat = 124 then (.z, l)
  else if c.toNat = 125 then (.rsvd, l)
  else if c.toNat = 126 then (.lit64 ((l.getD 1 0) ++ (l.getD 0 0)), l.drop 2)
  else (.lit32 (l.getD 0 0), l.drop 1)

/-- The code of a source. -/
def Src.code : Src → BitVec 7
  | .v n => BitVec.ofNat 7 n.val
  | .k n => BitVec.ofNat 7 (112 + n.val)
  | .z => 124
  | .rsvd => 125
  | .lit64 _ => 126
  | .lit32 _ => 127

/-- The literal words of a source, low word first (R49). -/
def Src.words : Src → List Word
  | .lit64 w => [w.extractLsb' 0 32, w.extractLsb' 32 32]
  | .lit32 w => [w]
  | _ => []

/-! ## Words -/

/-- A format R word (Table 3-1). -/
def mkR (op d a b : BitVec 7) (f : BitVec 3) (s : Bool) : Word :=
  ((((op ++ d) ++ a) ++ b) ++ f) ++ BitVec.ofBool s

/-- A format C word (Table 3-1). -/
def mkC (op c : BitVec 7) (i : BitVec 17) (s : Bool) : Word :=
  ((op ++ c) ++ i) ++ BitVec.ofBool s

/-- A format J word (Table 3-1). -/
def mkJ (op : BitVec 7) (i : BitVec 24) (s : Bool) : Word :=
  (op ++ i) ++ BitVec.ofBool s

/-- The opcode field. -/
def Word.op (w : Word) : BitVec 7 := w.extractLsb' 25 7
/-- The d or c field. -/
def Word.fd (w : Word) : BitVec 7 := w.extractLsb' 18 7
/-- The a field. -/
def Word.fa (w : Word) : BitVec 7 := w.extractLsb' 11 7
/-- The b field. -/
def Word.fb (w : Word) : BitVec 7 := w.extractLsb' 4 7
/-- The f field. -/
def Word.ff (w : Word) : BitVec 3 := w.extractLsb' 1 3
/-- The switch marker. -/
def Word.sw (w : Word) : Bool := w.getLsbD 0
/-- The immediate of format C. -/
def Word.imm17 (w : Word) : BitVec 17 := w.extractLsb' 1 17
/-- The immediate of format J. -/
def Word.imm24 (w : Word) : BitVec 24 := w.extractLsb' 1 24

/-! ## Function fields, in the order of their values -/

/-- The f value of a `ImulF`. -/
def ImulF.val : ImulF → BitVec 3
  | .lo => 0
  | .hi => 1
  | .hin => 2

/-- The `ImulF` of an f value, none where the value is reserved. -/
def ImulF.ofVal (f : BitVec 3) : Option ImulF :=
  match f.toNat with
  | 0 => some .lo
  | 1 => some .hi
  | 2 => some .hin
  | _ => none

/-- The f value of a `ImadF`. -/
def ImadF.val : ImadF → BitVec 3
  | .w32 => 0
  | .w64 => 1
  | .w64n => 2

/-- The `ImadF` of an f value, none where the value is reserved. -/
def ImadF.ofVal (f : BitVec 3) : Option ImadF :=
  match f.toNat with
  | 0 => some .w32
  | 1 => some .w64
  | 2 => some .w64n
  | _ => none

/-- The f value of a `ImnxF`. -/
def ImnxF.val : ImnxF → BitVec 3
  | .smin => 0
  | .smax => 1
  | .nmin => 2
  | .nmax => 3

/-- The `ImnxF` of an f value, none where the value is reserved. -/
def ImnxF.ofVal (f : BitVec 3) : Option ImnxF :=
  match f.toNat with
  | 0 => some .smin
  | 1 => some .smax
  | 2 => some .nmin
  | 3 => some .nmax
  | _ => none

/-- The f value of a `BitsF`. -/
def BitsF.val : BitsF → BitVec 3
  | .popc => 0
  | .clz => 1
  | .ctz => 2
  | .brev => 3

/-- The `BitsF` of an f value, none where the value is reserved. -/
def BitsF.ofVal (f : BitVec 3) : Option BitsF :=
  match f.toNat with
  | 0 => some .popc
  | 1 => some .clz
  | 2 => some .ctz
  | 3 => some .brev
  | _ => none

/-- The f value of a `Add64F`. -/
def Add64F.val : Add64F → BitVec 3
  | .add => 0
  | .sub => 1
  | .x4 => 2
  | .x8 => 3
  | .x16 => 4

/-- The `Add64F` of an f value, none where the value is reserved. -/
def Add64F.ofVal (f : BitVec 3) : Option Add64F :=
  match f.toNat with
  | 0 => some .add
  | 1 => some .sub
  | 2 => some .x4
  | 3 => some .x8
  | 4 => some .x16
  | _ => none

/-- The f value of a `Rnd`. -/
def Rnd.val : Rnd → BitVec 3
  | .rn => 0
  | .rz => 1
  | .ru => 2
  | .rd => 3

/-- The `Rnd` of an f value, none where the value is reserved. -/
def Rnd.ofVal (f : BitVec 3) : Option Rnd :=
  match f.toNat with
  | 0 => some .rn
  | 1 => some .rz
  | 2 => some .ru
  | 3 => some .rd
  | _ => none

/-- The f value of a `FmnxF`. -/
def FmnxF.val : FmnxF → BitVec 3
  | .min => 0
  | .max => 1
  | .minnum => 2
  | .maxnum => 3

/-- The `FmnxF` of an f value, none where the value is reserved. -/
def FmnxF.ofVal (f : BitVec 3) : Option FmnxF :=
  match f.toNat with
  | 0 => some .min
  | 1 => some .max
  | 2 => some .minnum
  | 3 => some .maxnum
  | _ => none

/-- The f value of a `FrcpF`. -/
def FrcpF.val : FrcpF → BitVec 3
  | .rcp => 0
  | .sqrt => 1
  | .rsqrt => 2

/-- The `FrcpF` of an f value, none where the value is reserved. -/
def FrcpF.ofVal (f : BitVec 3) : Option FrcpF :=
  match f.toNat with
  | 0 => some .rcp
  | 1 => some .sqrt
  | 2 => some .rsqrt
  | _ => none

/-- The f value of a `FexF`. -/
def FexF.val : FexF → BitVec 3
  | .exp2 => 0
  | .log2 => 1
  | .exp => 2
  | .log => 3

/-- The `FexF` of an f value, none where the value is reserved. -/
def FexF.ofVal (f : BitVec 3) : Option FexF :=
  match f.toNat with
  | 0 => some .exp2
  | 1 => some .log2
  | 2 => some .exp
  | 3 => some .log
  | _ => none

/-- The f value of a `FsgnF`. -/
def FsgnF.val : FsgnF → BitVec 3
  | .neg => 0
  | .abs => 1
  | .copysign => 2
  | .negabs => 3

/-- The `FsgnF` of an f value, none where the value is reserved. -/
def FsgnF.ofVal (f : BitVec 3) : Option FsgnF :=
  match f.toNat with
  | 0 => some .neg
  | 1 => some .abs
  | 2 => some .copysign
  | 3 => some .negabs
  | _ => none

/-- The f value of a `FrndF`. -/
def FrndF.val : FrndF → BitVec 3
  | .rne => 0
  | .trunc => 1
  | .ceil => 2
  | .floor => 3

/-- The `FrndF` of an f value, none where the value is reserved. -/
def FrndF.ofVal (f : BitVec 3) : Option FrndF :=
  match f.toNat with
  | 0 => some .rne
  | 1 => some .trunc
  | 2 => some .ceil
  | 3 => some .floor
  | _ => none

/-- The f value of a `IcmpF`. -/
def IcmpF.val : IcmpF → BitVec 3
  | .eq => 0
  | .ne => 1
  | .lt => 2
  | .le => 3
  | .gt => 4
  | .ge => 5
  | .ltn => 6
  | .len => 7

/-- The `IcmpF` of an f value, none where the value is reserved. -/
def IcmpF.ofVal (f : BitVec 3) : Option IcmpF :=
  match f.toNat with
  | 0 => some .eq
  | 1 => some .ne
  | 2 => some .lt
  | 3 => some .le
  | 4 => some .gt
  | 5 => some .ge
  | 6 => some .ltn
  | 7 => some .len
  | _ => none

/-- The f value of a `FcmpF`. -/
def FcmpF.val : FcmpF → BitVec 3
  | .eq => 0
  | .ne => 1
  | .lt => 2
  | .le => 3
  | .gt => 4
  | .ge => 5
  | .un => 6
  | .ord => 7

/-- The `FcmpF` of an f value, none where the value is reserved. -/
def FcmpF.ofVal (f : BitVec 3) : Option FcmpF :=
  match f.toNat with
  | 0 => some .eq
  | 1 => some .ne
  | 2 => some .lt
  | 3 => some .le
  | 4 => some .gt
  | 5 => some .ge
  | 6 => some .un
  | 7 => some .ord
  | _ => none

/-- The f value of a `MovF`. -/
def MovF.val : MovF → BitVec 3
  | .w32 => 0
  | .w64 => 1
  | .w128 => 2

/-- The `MovF` of an f value, none where the value is reserved. -/
def MovF.ofVal (f : BitVec 3) : Option MovF :=
  match f.toNat with
  | 0 => some .w32
  | 1 => some .w64
  | 2 => some .w128
  | _ => none

/-- The f value of a `ShflF`. -/
def ShflF.val : ShflF → BitVec 3
  | .idx => 0
  | .up => 1
  | .down => 2
  | .xor => 3

/-- The `ShflF` of an f value, none where the value is reserved. -/
def ShflF.ofVal (f : BitVec 3) : Option ShflF :=
  match f.toNat with
  | 0 => some .idx
  | 1 => some .up
  | 2 => some .down
  | 3 => some .xor
  | _ => none

/-- The f value of a `VoteF`. -/
def VoteF.val : VoteF → BitVec 3
  | .any => 0
  | .all => 1
  | .ballot => 2
  | .elect => 3

/-- The `VoteF` of an f value, none where the value is reserved. -/
def VoteF.ofVal (f : BitVec 3) : Option VoteF :=
  match f.toNat with
  | 0 => some .any
  | 1 => some .all
  | 2 => some .ballot
  | 3 => some .elect
  | _ => none

/-- The f value of a `WredF`. -/
def WredF.val : WredF → BitVec 3
  | .add => 0
  | .smin => 1
  | .smax => 2
  | .nmin => 3
  | .nmax => 4
  | .and => 5
  | .or => 6
  | .xor => 7

/-- The `WredF` of an f value, none where the value is reserved. -/
def WredF.ofVal (f : BitVec 3) : Option WredF :=
  match f.toNat with
  | 0 => some .add
  | 1 => some .smin
  | 2 => some .smax
  | 3 => some .nmin
  | 4 => some .nmax
  | 5 => some .and
  | 6 => some .or
  | 7 => some .xor
  | _ => none

/-- The f value of a `FwredF`. -/
def FwredF.val : FwredF → BitVec 3
  | .sum => 0
  | .min => 1
  | .max => 2
  | .minnum => 3
  | .maxnum => 4

/-- The `FwredF` of an f value, none where the value is reserved. -/
def FwredF.ofVal (f : BitVec 3) : Option FwredF :=
  match f.toNat with
  | 0 => some .sum
  | 1 => some .min
  | 2 => some .max
  | 3 => some .minnum
  | 4 => some .maxnum
  | _ => none

/-- The f value of a `WscnF`. -/
def WscnF.val : WscnF → BitVec 3
  | .incadd => 0
  | .excadd => 1
  | .incor => 2
  | .excor => 3

/-- The `WscnF` of an f value, none where the value is reserved. -/
def WscnF.ofVal (f : BitVec 3) : Option WscnF :=
  match f.toNat with
  | 0 => some .incadd
  | 1 => some .excadd
  | 2 => some .incor
  | 3 => some .excor
  | _ => none

/-- The f value of a `IdivF`. -/
def IdivF.val : IdivF → BitVec 3
  | .sq => 0
  | .sr => 1
  | .nq => 2
  | .nr => 3

/-- The `IdivF` of an f value, none where the value is reserved. -/
def IdivF.ofVal (f : BitVec 3) : Option IdivF :=
  match f.toNat with
  | 0 => some .sq
  | 1 => some .sr
  | 2 => some .nq
  | 3 => some .nr
  | _ => none

/-- The f value of a `IabsF`. -/
def IabsF.val : IabsF → BitVec 3
  | .abs => 0
  | .neg => 1
  | .sgn => 2

/-- The `IabsF` of an f value, none where the value is reserved. -/
def IabsF.ofVal (f : BitVec 3) : Option IabsF :=
  match f.toNat with
  | 0 => some .abs
  | 1 => some .neg
  | 2 => some .sgn
  | _ => none

/-- The f value of a `LdF`. -/
def LdF.val : LdF → BitVec 3
  | .b8z => 0
  | .b8s => 1
  | .b16z => 2
  | .b16s => 3
  | .b32 => 4
  | .b64 => 5
  | .b128 => 6

/-- The `LdF` of an f value, none where the value is reserved. -/
def LdF.ofVal (f : BitVec 3) : Option LdF :=
  match f.toNat with
  | 0 => some .b8z
  | 1 => some .b8s
  | 2 => some .b16z
  | 3 => some .b16s
  | 4 => some .b32
  | 5 => some .b64
  | 6 => some .b128
  | _ => none

/-- The f value of a `Scope`. -/
def Scope.val : Scope → BitVec 3
  | .wave => 0
  | .block => 1
  | .gang => 2
  | .die => 3
  | .device => 4
  | .system => 5
  | .diepro => 6
  | .devpro => 7

/-- The `Scope` of an f value, none where the value is reserved. -/
def Scope.ofVal (f : BitVec 3) : Option Scope :=
  match f.toNat with
  | 0 => some .wave
  | 1 => some .block
  | 2 => some .gang
  | 3 => some .die
  | 4 => some .device
  | 5 => some .system
  | 6 => some .diepro
  | 7 => some .devpro
  | _ => none

/-- The f value of a `AtomF`. -/
def AtomF.val : AtomF → BitVec 3
  | .add => 0
  | .smin => 1
  | .smax => 2
  | .nmin => 3
  | .nmax => 4
  | .and => 5
  | .or => 6
  | .xchg => 7

/-- The `AtomF` of an f value, none where the value is reserved. -/
def AtomF.ofVal (f : BitVec 3) : Option AtomF :=
  match f.toNat with
  | 0 => some .add
  | 1 => some .smin
  | 2 => some .smax
  | 3 => some .nmin
  | 4 => some .nmax
  | 5 => some .and
  | 6 => some .or
  | 7 => some .xchg
  | _ => none

/-- The f value of a `BnkF`. -/
def BnkF.val : BnkF → BitVec 3
  | .iadd => 0
  | .cadd => 1
  | .fmax => 2
  | .fmin => 3

/-- The `BnkF` of an f value, none where the value is reserved. -/
def BnkF.ofVal (f : BitVec 3) : Option BnkF :=
  match f.toNat with
  | 0 => some .iadd
  | 1 => some .cadd
  | 2 => some .fmax
  | 3 => some .fmin
  | _ => none

/-- The f value of a `MmaF`. -/
def MmaF.val : MmaF → BitVec 3
  | .acc => 0
  | .set => 1
  | .cacc => 2
  | .cset => 3
  | .ck => 4

/-- The `MmaF` of an f value, none where the value is reserved. -/
def MmaF.ofVal (f : BitVec 3) : Option MmaF :=
  match f.toNat with
  | 0 => some .acc
  | 1 => some .set
  | 2 => some .cacc
  | 3 => some .cset
  | 4 => some .ck
  | _ => none

/-- The f value of a `ParvF`. -/
def ParvF.val : ParvF → BitVec 3
  | .always => 0
  | .ess => 1
  | .never => 2

/-- The `ParvF` of an f value, none where the value is reserved. -/
def ParvF.ofVal (f : BitVec 3) : Option ParvF :=
  match f.toNat with
  | 0 => some .always
  | 1 => some .ess
  | 2 => some .never
  | _ => none

/-- The f value of a `StF`. -/
def StF.val : StF → BitVec 3
  | .b8 => 0
  | .b16 => 2
  | .b32 => 4
  | .b64 => 5
  | .b128 => 6

/-- The `StF` of an f value, none where the value is reserved. -/
def StF.ofVal (f : BitVec 3) : Option StF :=
  match f.toNat with
  | 0 => some .b8
  | 2 => some .b16
  | 4 => some .b32
  | 5 => some .b64
  | 6 => some .b128
  | _ => none

/-- The b-code of a `CvtC`. -/
def CvtC.val : CvtC → BitVec 7
  | .f32s32 => 0
  | .f32n32 => 1
  | .f32s64 => 2
  | .f32n64 => 3
  | .s32f32 => 4
  | .n32f32 => 5
  | .s64f32 => 6
  | .n64f32 => 7
  | .f32bf16 => 8
  | .bf16f32 => 9
  | .f32e4m3 => 10
  | .e4m3f32 => 11
  | .f32e5m2 => 12
  | .e5m2f32 => 13

/-- The `CvtC` of a b-code, none where the code is reserved. -/
def CvtC.ofVal (c : BitVec 7) : Option CvtC :=
  match c.toNat with
  | 0 => some .f32s32
  | 1 => some .f32n32
  | 2 => some .f32s64
  | 3 => some .f32n64
  | 4 => some .s32f32
  | 5 => some .n32f32
  | 6 => some .s64f32
  | 7 => some .n64f32
  | 8 => some .f32bf16
  | 9 => some .bf16f32
  | 10 => some .f32e4m3
  | 11 => some .e4m3f32
  | 12 => some .f32e5m2
  | 13 => some .e5m2f32
  | _ => none

/-- The b-code of a `SpReg`. -/
def SpReg.val : SpReg → BitVec 7
  | .workId => 0
  | .f0 => 1
  | .f1 => 2
  | .f2 => 3
  | .f3 => 4
  | .f4 => 5
  | .f5 => 6
  | .threadInBlock => 8
  | .waveInBlock => 9
  | .lane => 10
  | .waves => 11
  | .gangIndex => 12
  | .coreNo => 13
  | .asid => 14
  | .scratch => 15
  | .status => 16
  | .wb => 17
  | .alloc => 18
  | .args => 19
  | .cycles => 24
  | .trapCause => 32
  | .trapPc => 33
  | .trapAddr => 34
  | .trapDetail => 35

/-- The `SpReg` of a b-code, none where the code is reserved. -/
def SpReg.ofVal (c : BitVec 7) : Option SpReg :=
  match c.toNat with
  | 0 => some .workId
  | 1 => some .f0
  | 2 => some .f1
  | 3 => some .f2
  | 4 => some .f3
  | 5 => some .f4
  | 6 => some .f5
  | 8 => some .threadInBlock
  | 9 => some .waveInBlock
  | 10 => some .lane
  | 11 => some .waves
  | 12 => some .gangIndex
  | 13 => some .coreNo
  | 14 => some .asid
  | 15 => some .scratch
  | 16 => some .status
  | 17 => some .wb
  | 18 => some .alloc
  | 19 => some .args
  | 24 => some .cycles
  | 32 => some .trapCause
  | 33 => some .trapPc
  | 34 => some .trapAddr
  | 35 => some .trapDetail
  | _ => none

/-- The b-code of a `Engine`. -/
def Engine.val : Engine → BitVec 7
  | .copy => 0
  | .matrix => 1
  | .sillage => 2
  | .ports => 3
  | .bank => 4

/-- The `Engine` of a b-code, none where the code is reserved. -/
def Engine.ofVal (c : BitVec 7) : Option Engine :=
  match c.toNat with
  | 0 => some .copy
  | 1 => some .matrix
  | 2 => some .sillage
  | 3 => some .ports
  | 4 => some .bank
  | _ => none

/-- The b-code of a `PstC`. -/
def PstC.val : PstC → BitVec 7
  | .status => 0
  | .n => 1
  | .z => 2
  | .stateVa => 3
  | .index => 4
  | .seed => 5
  | .binding => 6
  | .flags => 7
  | .s => 8
  | .lmax => 9

/-- The `PstC` of a b-code, none where the code is reserved. -/
def PstC.ofVal (c : BitVec 7) : Option PstC :=
  match c.toNat with
  | 0 => some .status
  | 1 => some .n
  | 2 => some .z
  | 3 => some .stateVa
  | 4 => some .index
  | 5 => some .seed
  | 6 => some .binding
  | 7 => some .flags
  | 8 => some .s
  | 9 => some .lmax
  | _ => none

/-- The b-code of a `SysR`. -/
def SysR.val : SysR → BitVec 7
  | .status => 16
  | .cause => 32
  | .pc => 33
  | .addr => 34
  | .detail => 35
  | .mask => 36
  | .image => 37
  | .faultPc => 38

/-- The `SysR` of a b-code, none where the code is reserved. -/
def SysR.ofVal (c : BitVec 7) : Option SysR :=
  match c.toNat with
  | 16 => some .status
  | 32 => some .cause
  | 33 => some .pc
  | 34 => some .addr
  | 35 => some .detail
  | 36 => some .mask
  | 37 => some .image
  | 38 => some .faultPc
  | _ => none

/-- The b-code of a `SysW`. -/
def SysW.val : SysW → BitVec 7
  | .status => 16
  | .pc => 33

/-- The `SysW` of a b-code, none where the code is reserved. -/
def SysW.ofVal (c : BitVec 7) : Option SysW :=
  match c.toNat with
  | 16 => some .status
  | 33 => some .pc
  | _ => none

/-- One-bit function fields: value 0 or 1 (others are reserved). -/
def boolVal (f : BitVec 3) : Option Bool :=
  match f.toNat with
  | 0 => some false
  | 1 => some true
  | _ => none

/-- The f value of a one-bit function field. -/
def boolF (b : Bool) : BitVec 3 := if b then 1 else 0

/-- The barrier index of `bar` and `gbar`: 0 to 15 (R162). -/
def barVal (c : BitVec 7) : Option (Fin 16) :=
  if h : c.toNat < 16 then some ⟨c.toNat, h⟩ else none

/-! ## The shapes in which the entries use the fields -/

/-- Requires an unused operand field to hold 124 (R54). -/
def need124 (c : BitVec 7) (r : Except Reject Instr) : Except Reject Instr :=
  if c = 124 then r else .error .unusedField

/-- Requires an unused f field to hold 0 (R54). -/
def need0 (f : BitVec 3) (r : Except Reject Instr) : Except Reject Instr :=
  if f = 0 then r else .error .unusedField

/-- Requires the marker of a class X word (R61). -/
def needSw (s : Bool) (r : Except Reject Instr) : Except Reject Instr :=
  if s then r else .error .unmarked

/-- Reads an f field; a reserved value rejects (R55). -/
def withF {α : Type} (x : Option α) (k : α → Except Reject Instr) : Except Reject Instr :=
  match x with
  | some v => k v
  | none => .error .reservedField

/-- Reads a b-code; a reserved code rejects (R55). -/
def withC {α : Type} (x : Option α) (k : α → Except Reject Instr) : Except Reject Instr :=
  match x with
  | some v => k v
  | none => .error .reservedCode

/-- Reads a and b as operands, a's literal words first (R50). -/
def withAB (w : Word) (l : List Word) (k : Src → Src → Except Reject Instr) : Except Reject Instr :=
  k (Src.take w.fa l).1 (Src.take w.fb (Src.take w.fa l).2).1

/-- Reads a as an operand. -/
def withA (w : Word) (l : List Word) (k : Src → Except Reject Instr) : Except Reject Instr :=
  k (Src.take w.fa l).1

/-- Reads b as an operand, a being unused. -/
def withB (w : Word) (l : List Word) (k : Src → Except Reject Instr) : Except Reject Instr :=
  need124 w.fa (k (Src.take w.fb l).1)

/-- Rejects unless a condition on the fields holds (the combinations of `Instr.wf`). -/
def needWf (i : Instr) (why : Reject) : Except Reject Instr :=
  if i.wf then .ok i else .error why

/-- Opcodes 0x00 to 0x0f (Table 3-3). -/
def decodeInteger (w : Word) (l : List Word) : Except Reject Instr :=
  match w.op.toNat with
  | 0x00 => if w.extractLsb' 1 24 = 0 then .ok (.nop w.sw) else .error .unusedField
  | 0x01 => need0 w.ff (withAB w l fun a b => .ok (.iadd (Dst.ofCode w.fd) a b w.sw))
  | 0x02 => need0 w.ff (withAB w l fun a b => .ok (.isub (Dst.ofCode w.fd) a b w.sw))
  | 0x03 => withF (ImulF.ofVal w.ff) fun f => withAB w l fun a b => .ok (.imul (Dst.ofCode w.fd) a b f w.sw)
  | 0x04 => withF (ImadF.ofVal w.ff) fun f => withAB w l fun a b => .ok (.imad (Dst.ofCode w.fd) a b f w.sw)
  | 0x05 => withF (ImnxF.ofVal w.ff) fun f => withAB w l fun a b => .ok (.imnx (Dst.ofCode w.fd) a b f w.sw)
  | 0x06 => withF (boolVal w.ff) fun f => withAB w l fun a b => .ok (.and (Dst.ofCode w.fd) a b f w.sw)
  | 0x07 => withF (boolVal w.ff) fun f => withAB w l fun a b => .ok (.or (Dst.ofCode w.fd) a b f w.sw)
  | 0x08 => withF (boolVal w.ff) fun f => withAB w l fun a b => .ok (.xor (Dst.ofCode w.fd) a b f w.sw)
  | 0x09 => need0 w.ff (withAB w l fun a b => .ok (.shl (Dst.ofCode w.fd) a b w.sw))
  | 0x0a => withF (boolVal w.ff) fun f => withAB w l fun a b => .ok (.shr (Dst.ofCode w.fd) a b f w.sw)
  | 0x0b => withF (boolVal w.ff) fun f => withAB w l fun a b => .ok (.bfx (Dst.ofCode w.fd) a b f w.sw)
  | 0x0c => need0 w.ff (withAB w l fun a b => .ok (.bfi (Dst.ofCode w.fd) a b w.sw))
  | 0x0d => need124 w.fb (withF (BitsF.ofVal w.ff) fun f => withA w l fun a => .ok (.bits (Dst.ofCode w.fd) a f w.sw))
  | 0x0e => withF (Add64F.ofVal w.ff) fun f => withAB w l fun a b => .ok (.add64 (Dst.ofCode w.fd) a b f w.sw)
  | 0x0f => .ok (.movi (Dst.ofCode w.fd) w.imm17 w.sw)
  | _ => .error .reservedOpcode

/-- Opcodes 0x10 to 0x1f (Table 3-3). -/
def decodeFloat (w : Word) (l : List Word) : Except Reject Instr :=
  match w.op.toNat with
  | 0x10 => withF (Rnd.ofVal w.ff) fun f => withAB w l fun a b => .ok (.fadd (Dst.ofCode w.fd) a b f w.sw)
  | 0x11 => withF (Rnd.ofVal w.ff) fun f => withAB w l fun a b => .ok (.fsub (Dst.ofCode w.fd) a b f w.sw)
  | 0x12 => withF (Rnd.ofVal w.ff) fun f => withAB w l fun a b => .ok (.fmul (Dst.ofCode w.fd) a b f w.sw)
  | 0x13 => withF (Rnd.ofVal w.ff) fun f => withAB w l fun a b => .ok (.ffma (Dst.ofCode w.fd) a b f w.sw)
  | 0x14 => withF (FmnxF.ofVal w.ff) fun f => withAB w l fun a b => .ok (.fmnx (Dst.ofCode w.fd) a b f w.sw)
  | 0x15 => need124 w.fb (withF (FrcpF.ofVal w.ff) fun f => withA w l fun a => .ok (.frcp (Dst.ofCode w.fd) a f w.sw))
  | 0x16 => need124 w.fb (withF (FexF.ofVal w.ff) fun f => withA w l fun a => .ok (.fex (Dst.ofCode w.fd) a f w.sw))
  | 0x17 => withF (Rnd.ofVal w.ff) fun f => withAB w l fun a b => .ok (.fscl (Dst.ofCode w.fd) a b f w.sw)
  | 0x18 => need124 w.fb (need0 w.ff (withA w l fun a => .ok (.fcls (Dst.ofCode w.fd) a w.sw)))
  | 0x19 => withF (Rnd.ofVal w.ff) fun f => withAB w l fun a b => .ok (.bfadd (Dst.ofCode w.fd) a b f w.sw)
  | 0x1a => withF (Rnd.ofVal w.ff) fun f => withAB w l fun a b => .ok (.bfmul (Dst.ofCode w.fd) a b f w.sw)
  | 0x1b => withF (Rnd.ofVal w.ff) fun f => withAB w l fun a b => .ok (.bffma (Dst.ofCode w.fd) a b f w.sw)
  | 0x1c => withF (Rnd.ofVal w.ff) fun f => withAB w l fun a b => .ok (.fdot2 (Dst.ofCode w.fd) a b f w.sw)
  | 0x1d => withF (Rnd.ofVal w.ff) fun f => withAB w l fun a b => .ok (.fdiv (Dst.ofCode w.fd) a b f w.sw)
  | 0x1e => withF (FsgnF.ofVal w.ff) fun f => withAB w l fun a b => needWf (.fsgn (Dst.ofCode w.fd) a b f w.sw) .unusedField
  | 0x1f => need124 w.fb (withF (FrndF.ofVal w.ff) fun f => withA w l fun a => .ok (.frnd (Dst.ofCode w.fd) a f w.sw))
  | _ => .error .reservedOpcode

/-- Opcodes 0x20 to 0x2f (Table 3-3). -/
def decodeLane (w : Word) (l : List Word) : Except Reject Instr :=
  match w.op.toNat with
  | 0x20 => withC (CvtC.ofVal w.fb) fun c => withF (Rnd.ofVal w.ff) fun f => withA w l fun a => needWf (.cvt (Dst.ofCode w.fd) a c f w.sw) .reservedField
  | 0x21 => withF (IcmpF.ofVal w.ff) fun f => withAB w l fun a b => .ok (.icmp (Dst.ofCode w.fd) a b f w.sw)
  | 0x22 => withF (FcmpF.ofVal w.ff) fun f => withAB w l fun a b => .ok (.fcmp (Dst.ofCode w.fd) a b f w.sw)
  | 0x23 => withF (boolVal w.ff) fun f => withAB w l fun a b => .ok (.sel (Dst.ofCode w.fd) a b f w.sw)
  | 0x24 => withF (ShflF.ofVal w.ff) fun f => withAB w l fun a b => .ok (.shfl (Dst.ofCode w.fd) a b f w.sw)
  | 0x25 => need124 w.fb (withF (VoteF.ofVal w.ff) fun f => withA w l fun a => needWf (.vote (Dst.ofCode w.fd) a f w.sw) .unusedField)
  | 0x26 => need124 w.fb (withF (WredF.ofVal w.ff) fun f => withA w l fun a => .ok (.wred (Dst.ofCode w.fd) a f w.sw))
  | 0x27 => need124 w.fb (withF (FwredF.ofVal w.ff) fun f => withA w l fun a => .ok (.fwred (Dst.ofCode w.fd) a f w.sw))
  | 0x28 => need124 w.fb (withF (WscnF.ofVal w.ff) fun f => withA w l fun a => .ok (.wscn (Dst.ofCode w.fd) a f w.sw))
  | 0x29 => need124 w.fa (withC (SpReg.ofVal w.fb) fun c => withF (boolVal w.ff) fun f => needWf (.rdsr (Dst.ofCode w.fd) c f w.sw) .reservedField)
  | 0x2a => need124 w.fb (withF (boolVal w.ff) fun f => withA w l fun a => .ok (.kset (Dst.ofCode w.fd) a f w.sw))
  | 0x2b => need0 w.ff (withAB w l fun a b => .ok (.prm (Dst.ofCode w.fd) a b w.sw))
  | 0x2c => need124 w.fb (withF (MovF.ofVal w.ff) fun f => withA w l fun a => .ok (.mov (Dst.ofCode w.fd) a f w.sw))
  | 0x2d => withF (IdivF.ofVal w.ff) fun f => withAB w l fun a b => .ok (.idiv (Dst.ofCode w.fd) a b f w.sw)
  | 0x2e => need124 w.fb (withF (IabsF.ofVal w.ff) fun f => withA w l fun a => .ok (.iabs (Dst.ofCode w.fd) a f w.sw))
  | _ => .error .reservedOpcode

/-- Opcodes 0x30 to 0x3f (Table 3-3). -/
def decodeMem (w : Word) (l : List Word) : Except Reject Instr :=
  match w.op.toNat with
  | 0x30 => withF (LdF.ofVal w.ff) fun f => withAB w l fun a b => .ok (.ld (Dst.ofCode w.fd) a b f w.sw)
  | 0x31 => withF (StF.ofVal w.ff) fun f => withAB w l fun a b => .ok (.st (Dst.ofCode w.fd) a b f w.sw)
  | 0x32 => withF (Scope.ofVal w.ff) fun f => withAB w l fun a b => .ok (.lda (Dst.ofCode w.fd) a b f w.sw)
  | 0x33 => withF (Scope.ofVal w.ff) fun f => withAB w l fun a b => needWf (.stl (Dst.ofCode w.fd) a b f w.sw) .reservedField
  | 0x34 => withF (AtomF.ofVal w.ff) fun f => withAB w l fun a b => .ok (.atom (Dst.ofCode w.fd) a b f w.sw)
  | 0x35 => withF (boolVal w.ff) fun f => withAB w l fun a b => .ok (.cas (Dst.ofCode w.fd) a b f w.sw)
  | 0x36 => need124 w.fd (need0 w.ff (withAB w l fun a b => .ok (.fxadd a b w.sw)))
  | 0x37 => need124 w.fb (withF (boolVal w.ff) fun f => withA w l fun a => .ok (.fxrd (Dst.ofCode w.fd) a f w.sw))
  | 0x38 => withF (BnkF.ofVal w.ff) fun f => withAB w l fun a b => .ok (.bnk (Dst.ofCode w.fd) a b f w.sw)
  | 0x39 => need124 w.fd (need124 w.fa (withF (Scope.ofVal w.ff) fun f =>
      match w.fb.toNat with
      | 0 => .ok (.fenceAcqrel f w.sw)
      | 1 => .ok (.fenceAcq f w.sw)
      | 2 => needWf (.fenceRel f w.sw) .reservedField
      | _ => .error .reservedCode))
  | 0x3a => need0 w.ff (withAB w l fun a b => .ok (.ldb (Dst.ofCode w.fd) a b w.sw))
  | 0x3b => need0 w.ff (withA w l fun a =>
      match w.fb.toNat with
      | 0 => need124 w.fd (.ok (.cctlWb a w.sw))
      | 1 => need124 w.fd (.ok (.cctlWbinv a w.sw))
      | 2 => need124 w.fd (.ok (.cctlWball a w.sw))
      | 3 => need124 w.fd (.ok (.cctlWbinvall a w.sw))
      | 8 => need124 w.fd (.ok (.cctlPf1 a w.sw))
      | 9 => need124 w.fd (.ok (.cctlPf2 a w.sw))
      | 16 => .ok (.cctlCreset (Dst.ofCode w.fd) a w.sw)
      | _ => .error .reservedCode)
  | 0x3c => withF (boolVal w.ff) fun f => withAB w l fun a b => .ok (.ldk (Dst.ofCode w.fd) a b f w.sw)
  | 0x3d => withF (AtomF.ofVal w.ff) fun f => withAB w l fun a b => .ok (.atom64 (Dst.ofCode w.fd) a b f w.sw)
  | _ => .error .reservedOpcode

/-- Opcodes 0x40 to 0x4f (Table 3-3). -/
def decodeControl (w : Word) (l : List Word) : Except Reject Instr :=
  match w.op.toNat with
  | 0x40 => needSw w.sw (.ok (.bnz (Dst.ofCode w.fd) w.imm17))
  | 0x41 => needSw w.sw (.ok (.bz (Dst.ofCode w.fd) w.imm17))
  | 0x43 => needSw w.sw (.ok (.call (Dst.ofCode w.fd) w.imm17))
  | 0x42 => needSw w.sw (.ok (.jmp w.imm24))
  | 0x44 => needSw w.sw (need124 w.fd (need124 w.fb (need0 w.ff (withA w l fun a => .ok (.jind a)))))
  | 0x46 => needSw w.sw (need124 w.fd (need124 w.fb (need0 w.ff (withA w l fun a => .ok (.ret a)))))
  | 0x45 => needSw w.sw (need124 w.fb (need0 w.ff (withA w l fun a => .ok (.calli (Dst.ofCode w.fd) a))))
  | 0x47 => need124 w.fd (need124 w.fa (need124 w.fb (need0 w.ff (.ok (.land w.sw)))))
  | 0x48 => needSw w.sw (need124 w.fd (need0 w.ff (withA w l fun a => .ok (.join a w.fb))))
  | 0x49 => needSw w.sw (need124 w.fd (need124 w.fa (withC (barVal w.fb) fun i =>
      match w.ff.toNat with
      | 0 => .ok (.barSync i)
      | 1 => .ok (.barArr i)
      | 2 => .ok (.barWt i)
      | _ => .error .reservedField)))
  | 0x4a => needSw w.sw (need124 w.fd (need124 w.fa (withC (barVal w.fb) fun i =>
      match w.ff.toNat with
      | 0 => .ok (.gbarSync i)
      | 1 => .ok (.gbarArr i)
      | 2 => .ok (.gbarWt i)
      | _ => .error .reservedField)))
  | 0x4b => needSw w.sw (need124 w.fd (need124 w.fa (need124 w.fb (need0 w.ff (.ok .exit)))))
  | 0x4c => needSw w.sw (need124 w.fd (need124 w.fa (need0 w.ff (.ok (.trap w.fb)))))
  | 0x4d => needSw w.sw (need124 w.fd (need124 w.fa (need124 w.fb (need0 w.ff (.ok .brk)))))
  | 0x4e => needSw w.sw (need124 w.fd (need124 w.fa (need124 w.fb (need0 w.ff (.ok .yld)))))
  | 0x4f => needSw w.sw (need124 w.fd (withC (Engine.ofVal w.fb) fun c =>
      match w.ff.toNat with
      | 0 => need124 w.fa (.ok (.waitAll c))
      | 1 => withA w l fun a => .ok (.waitGe a c)
      | _ => .error .reservedField))
  | _ => .error .reservedOpcode

/-- Opcodes 0x50 to 0x5f (Table 3-3). -/
def decodeEngine (w : Word) (l : List Word) : Except Reject Instr :=
  match w.op.toNat with
  | 0x50 => withF (MmaF.ofVal w.ff) fun f => withAB w l fun a b => .ok (.mma (Dst.ofCode w.fd) a b f w.sw)
  | 0x51 => need0 w.ff (withAB w l fun a b => .ok (.cpy (Dst.ofCode w.fd) a b w.sw))
  | 0x52 => need0 w.ff (withAB w l fun a b => .ok (.cpym (Dst.ofCode w.fd) a b w.sw))
  | 0x53 => withAB w l fun a b =>
      match w.ff.toNat with
      | 0 => .ok (.ringInit (Dst.ofCode w.fd) a b w.sw)
      | 1 => .ok (.ringArrive (Dst.ofCode w.fd) a b w.sw)
      | 2 => .ok (.ringWait (Dst.ofCode w.fd) a b w.sw)
      | 3 => .ok (.ringRelease (Dst.ofCode w.fd) a b w.sw)
      | _ => .error .reservedField
  | 0x54 => need124 w.fb (withF (boolVal w.ff) fun f => withA w l fun a => .ok (.mck (Dst.ofCode w.fd) a f w.sw))
  | 0x55 => need124 w.fa (need0 w.ff (withC (Engine.ofVal w.fb) fun c => .ok (.tlrd (Dst.ofCode w.fd) c w.sw)))
  | 0x56 => withF (boolVal w.ff) fun f => withAB w l fun a b => .ok (.spawn (Dst.ofCode w.fd) a b f w.sw)
  | 0x57 => needSw w.sw (need124 w.fd (need124 w.fa (need124 w.fb (need0 w.ff (.ok .phend)))))
  | 0x58 => match w.ff.toNat with
      | 0 => withAB w l fun a b => .ok (.putWin (Dst.ofCode w.fd) a b w.sw)
      | 1 => need124 w.fb (withA w l fun a => .ok (.putLaunch (Dst.ofCode w.fd) a w.sw))
      | _ => .error .reservedField
  | 0x59 => need0 w.ff (withAB w l fun a b => .ok (.get (Dst.ofCode w.fd) a b w.sw))
  | 0x5a => match w.ff.toNat with
      | 0 => need124 w.fb (withA w l fun a => .ok (.wcntRdo (Dst.ofCode w.fd) a w.sw))
      | 1 => need124 w.fb (withA w l fun a => .ok (.wcntRdt (Dst.ofCode w.fd) a w.sw))
      | 2 => withAB w l fun a b => .ok (.wcntWto (Dst.ofCode w.fd) a b w.sw)
      | 3 => withAB w l fun a b => .ok (.wcntWtt (Dst.ofCode w.fd) a b w.sw)
      | _ => .error .reservedField
  | 0x5b => need124 w.fb (match w.ff.toNat with
      | 0 => need124 w.fa (.ok (.mfillZero (Dst.ofCode w.fd) w.sw))
      | 1 => withA w l fun a => .ok (.mfillSet (Dst.ofCode w.fd) a w.sw)
      | _ => .error .reservedField)
  | _ => .error .reservedOpcode

/-- Opcodes 0x60 to 0x6f (Table 3-3). -/
def decodePop (w : Word) (l : List Word) : Except Reject Instr :=
  match w.op.toNat with
  | 0x60 => need124 w.fd (need0 w.ff (withAB w l fun a b => .ok (.pbind a b w.sw)))
  | 0x61 => need124 w.fd (need124 w.fb (need0 w.ff (withA w l fun a => .ok (.wadd a w.sw))))
  | 0x62 => need124 w.fa (need124 w.fb (withF (boolVal w.ff) fun f => .ok (.wrd (Dst.ofCode w.fd) f w.sw)))
  | 0x63 => needSw w.sw (need124 w.fa (need124 w.fb (withF (ParvF.ofVal w.ff) fun f => .ok (.parv (Dst.ofCode w.fd) f))))
  | 0x64 => need124 w.fa (need0 w.ff (withC (PstC.ofVal w.fb) fun c => .ok (.pst (Dst.ofCode w.fd) c w.sw)))
  | 0x65 => need0 w.ff (match w.fb.toNat with
      | 0 => need124 w.fa (.ok (.pctlItend (Dst.ofCode w.fd) w.sw))
      | 1 => need124 w.fa (.ok (.pctlKill (Dst.ofCode w.fd) w.sw))
      | 2 => withA w l fun a => .ok (.pctlTheta (Dst.ofCode w.fd) a w.sw)
      | 4 => withA w l fun a => .ok (.pctlDraw (Dst.ofCode w.fd) a w.sw)
      | 5 => need124 w.fa (.ok (.pctlUndraw (Dst.ofCode w.fd) w.sw))
      | _ => .error .reservedCode)
  | 0x66 => need124 w.fb (withF (boolVal w.ff) fun f => withA w l fun a => .ok (.rng (Dst.ofCode w.fd) a f w.sw))
  | 0x67 => need124 w.fa (need124 w.fb (withF (boolVal w.ff) fun f => .ok (.ppar (Dst.ofCode w.fd) f w.sw)))
  | 0x68 => match w.ff.toNat with
      | 0 => withAB w l fun a b => .ok (.scfgMeth (Dst.ofCode w.fd) a b w.sw)
      | 1 => withAB w l fun a b => .ok (.scfgStart (Dst.ofCode w.fd) a b w.sw)
      | 2 => need124 w.fa (need124 w.fb (.ok (.scfgClose (Dst.ofCode w.fd) w.sw)))
      | 3 => withB w l fun b => .ok (.scfgStop (Dst.ofCode w.fd) b w.sw)
      | _ => .error .reservedField
  | 0x69 => need124 w.fb (need0 w.ff (withA w l fun a => .ok (.seval (Dst.ofCode w.fd) a w.sw)))
  | 0x6a => need124 w.fb (withF (boolVal w.ff) fun f => withA w l fun a => .ok (.sst (Dst.ofCode w.fd) a f w.sw))
  | 0x6b => need124 w.fb (withF (boolVal w.ff) fun f => withA w l fun a => .ok (.mld (Dst.ofCode w.fd) a f w.sw))
  | 0x6c => need124 w.fd (withF (boolVal w.ff) fun f => withAB w l fun a b => .ok (.mst a b f w.sw))
  | 0x6d => withF (boolVal w.ff) fun f => withAB w l fun a b => .ok (.mcas (Dst.ofCode w.fd) a b f w.sw)
  | 0x6e => need124 w.fb (need0 w.ff (withA w l fun a => .ok (.mtag (Dst.ofCode w.fd) a w.sw)))
  | _ => .error .reservedOpcode

/-- Opcodes 0x70 to 0x7f (Table 3-3). -/
def decodeSys (w : Word) (l : List Word) : Except Reject Instr :=
  match w.op.toNat with
  | 0x70 => need124 w.fd (need124 w.fb (withF (boolVal w.ff) fun f => withA w l fun a => .ok (.winb a f w.sw)))
  | 0x71 => needSw w.sw (need124 w.fb (withF (boolVal w.ff) fun f => withA w l fun a => .ok (.racq (Dst.ofCode w.fd) a f)))
  | 0x72 => need124 w.fb (need0 w.ff (withA w l fun a => .ok (.rrel (Dst.ofCode w.fd) a w.sw)))
  | 0x73 => need124 w.fa (need0 w.ff (withC (SysR.ofVal w.fb) fun c => .ok (.sysr (Dst.ofCode w.fd) c w.sw)))
  | 0x74 => need124 w.fd (need0 w.ff (withC (SysW.ofVal w.fb) fun c => withA w l fun a => .ok (.sysw a c w.sw)))
  | 0x75 => needSw w.sw (need124 w.fd (need124 w.fa (need124 w.fb (need0 w.ff (.ok .eret)))))
  | 0x76 => needSw w.sw (need0 w.ff (match w.fb.toNat with
      | 0 => need124 w.fa (.ok (.syscVersion (Dst.ofCode w.fd)))
      | 1 => withA w l fun a => .ok (.syscPost (Dst.ofCode w.fd) a)
      | 2 => withA w l fun a => .ok (.syscPrefault (Dst.ofCode w.fd) a)
      | _ => .error .reservedCode))
  | 0x77 => need0 w.ff (withA w l fun a => match w.fb.toNat with
      | 0 => .ok (.dbgxQuery (Dst.ofCode w.fd) a w.sw)
      | 1 => .ok (.dbgxNotify (Dst.ofCode w.fd) a w.sw)
      | 2 => .ok (.dbgxStop (Dst.ofCode w.fd) a w.sw)
      | _ => .error .reservedCode)
  | _ => .error .reservedOpcode

/-- Decodes an instruction word with the literal words that follow it. -/
def decodeWord (w : Word) (l : List Word) : Except Reject Instr :=
  match (w.op.extractLsb' 4 3).toNat with
  | 0 => decodeInteger w l
  | 1 => decodeFloat w l
  | 2 => decodeLane w l
  | 3 => decodeMem w l
  | 4 => decodeControl w l
  | 5 => decodeEngine w l
  | 6 => decodePop w l
  | _ => decodeSys w l

/-! ## Encoding -/

/-- The words of an instruction: its word and its literal words; an event has none. -/
def encode : Instr → List Word
  | .nop s => [mkR 0 0 0 0 0 s]
  | .iadd d a b s => mkR 0x01 d.code a.code b.code 0 s :: (a.words ++ b.words)
  | .isub d a b s => mkR 0x02 d.code a.code b.code 0 s :: (a.words ++ b.words)
  | .imul d a b f s => mkR 0x03 d.code a.code b.code f.val s :: (a.words ++ b.words)
  | .imad d a b f s => mkR 0x04 d.code a.code b.code f.val s :: (a.words ++ b.words)
  | .imnx d a b f s => mkR 0x05 d.code a.code b.code f.val s :: (a.words ++ b.words)
  | .and d a b f s => mkR 0x06 d.code a.code b.code (boolF f) s :: (a.words ++ b.words)
  | .or d a b f s => mkR 0x07 d.code a.code b.code (boolF f) s :: (a.words ++ b.words)
  | .xor d a b f s => mkR 0x08 d.code a.code b.code (boolF f) s :: (a.words ++ b.words)
  | .shl d a b s => mkR 0x09 d.code a.code b.code 0 s :: (a.words ++ b.words)
  | .shr d a b f s => mkR 0x0a d.code a.code b.code (boolF f) s :: (a.words ++ b.words)
  | .bfx d a b f s => mkR 0x0b d.code a.code b.code (boolF f) s :: (a.words ++ b.words)
  | .bfi d a b s => mkR 0x0c d.code a.code b.code 0 s :: (a.words ++ b.words)
  | .bits d a f s => mkR 0x0d d.code a.code 124 f.val s :: a.words
  | .add64 d a b f s => mkR 0x0e d.code a.code b.code f.val s :: (a.words ++ b.words)
  | .movi c i s => [mkC 0x0f c.code i s]
  | .fadd d a b f s => mkR 0x10 d.code a.code b.code f.val s :: (a.words ++ b.words)
  | .fsub d a b f s => mkR 0x11 d.code a.code b.code f.val s :: (a.words ++ b.words)
  | .fmul d a b f s => mkR 0x12 d.code a.code b.code f.val s :: (a.words ++ b.words)
  | .ffma d a b f s => mkR 0x13 d.code a.code b.code f.val s :: (a.words ++ b.words)
  | .fmnx d a b f s => mkR 0x14 d.code a.code b.code f.val s :: (a.words ++ b.words)
  | .frcp d a f s => mkR 0x15 d.code a.code 124 f.val s :: a.words
  | .fex d a f s => mkR 0x16 d.code a.code 124 f.val s :: a.words
  | .fscl d a b f s => mkR 0x17 d.code a.code b.code f.val s :: (a.words ++ b.words)
  | .fcls d a s => mkR 0x18 d.code a.code 124 0 s :: a.words
  | .bfadd d a b f s => mkR 0x19 d.code a.code b.code f.val s :: (a.words ++ b.words)
  | .bfmul d a b f s => mkR 0x1a d.code a.code b.code f.val s :: (a.words ++ b.words)
  | .bffma d a b f s => mkR 0x1b d.code a.code b.code f.val s :: (a.words ++ b.words)
  | .fdot2 d a b f s => mkR 0x1c d.code a.code b.code f.val s :: (a.words ++ b.words)
  | .fdiv d a b f s => mkR 0x1d d.code a.code b.code f.val s :: (a.words ++ b.words)
  | .fsgn d a b f s => mkR 0x1e d.code a.code b.code f.val s :: (a.words ++ b.words)
  | .frnd d a f s => mkR 0x1f d.code a.code 124 f.val s :: a.words
  | .cvt d a c f s => mkR 0x20 d.code a.code c.val f.val s :: a.words
  | .icmp d a b f s => mkR 0x21 d.code a.code b.code f.val s :: (a.words ++ b.words)
  | .fcmp d a b f s => mkR 0x22 d.code a.code b.code f.val s :: (a.words ++ b.words)
  | .sel d a b f s => mkR 0x23 d.code a.code b.code (boolF f) s :: (a.words ++ b.words)
  | .shfl d a b f s => mkR 0x24 d.code a.code b.code f.val s :: (a.words ++ b.words)
  | .vote d a f s => mkR 0x25 d.code a.code 124 f.val s :: a.words
  | .wred d a f s => mkR 0x26 d.code a.code 124 f.val s :: a.words
  | .fwred d a f s => mkR 0x27 d.code a.code 124 f.val s :: a.words
  | .wscn d a f s => mkR 0x28 d.code a.code 124 f.val s :: a.words
  | .rdsr d c f s => [mkR 0x29 d.code 124 c.val (boolF f) s]
  | .kset d a f s => mkR 0x2a d.code a.code 124 (boolF f) s :: a.words
  | .prm d a b s => mkR 0x2b d.code a.code b.code 0 s :: (a.words ++ b.words)
  | .mov d a f s => mkR 0x2c d.code a.code 124 f.val s :: a.words
  | .idiv d a b f s => mkR 0x2d d.code a.code b.code f.val s :: (a.words ++ b.words)
  | .iabs d a f s => mkR 0x2e d.code a.code 124 f.val s :: a.words
  | .ld d a b f s => mkR 0x30 d.code a.code b.code f.val s :: (a.words ++ b.words)
  | .st d a b f s => mkR 0x31 d.code a.code b.code f.val s :: (a.words ++ b.words)
  | .lda d a b f s => mkR 0x32 d.code a.code b.code f.val s :: (a.words ++ b.words)
  | .stl d a b f s => mkR 0x33 d.code a.code b.code f.val s :: (a.words ++ b.words)
  | .atom d a b f s => mkR 0x34 d.code a.code b.code f.val s :: (a.words ++ b.words)
  | .cas d a b f s => mkR 0x35 d.code a.code b.code (boolF f) s :: (a.words ++ b.words)
  | .fxadd a b s => mkR 0x36 124 a.code b.code 0 s :: (a.words ++ b.words)
  | .fxrd d a f s => mkR 0x37 d.code a.code 124 (boolF f) s :: a.words
  | .bnk d a b f s => mkR 0x38 d.code a.code b.code f.val s :: (a.words ++ b.words)
  | .fenceAcqrel f s => [mkR 0x39 124 124 0 f.val s]
  | .fenceAcq f s => [mkR 0x39 124 124 1 f.val s]
  | .fenceRel f s => [mkR 0x39 124 124 2 f.val s]
  | .ldb d a b s => mkR 0x3a d.code a.code b.code 0 s :: (a.words ++ b.words)
  | .cctlWb a s => mkR 0x3b 124 a.code 0 0 s :: a.words
  | .cctlWbinv a s => mkR 0x3b 124 a.code 1 0 s :: a.words
  | .cctlWball a s => mkR 0x3b 124 a.code 2 0 s :: a.words
  | .cctlWbinvall a s => mkR 0x3b 124 a.code 3 0 s :: a.words
  | .cctlPf1 a s => mkR 0x3b 124 a.code 8 0 s :: a.words
  | .cctlPf2 a s => mkR 0x3b 124 a.code 9 0 s :: a.words
  | .cctlCreset d a s => mkR 0x3b d.code a.code 16 0 s :: a.words
  | .ldk d a b f s => mkR 0x3c d.code a.code b.code (boolF f) s :: (a.words ++ b.words)
  | .atom64 d a b f s => mkR 0x3d d.code a.code b.code f.val s :: (a.words ++ b.words)
  | .bnz c i => [mkC 0x40 c.code i true]
  | .bz c i => [mkC 0x41 c.code i true]
  | .call c i => [mkC 0x43 c.code i true]
  | .jmp i => [mkJ 0x42 i true]
  | .jind a => mkR 0x44 124 a.code 124 0 true :: a.words
  | .ret a => mkR 0x46 124 a.code 124 0 true :: a.words
  | .calli d a => mkR 0x45 d.code a.code 124 0 true :: a.words
  | .land s => [mkR 0x47 124 124 124 0 s]
  | .join a id => mkR 0x48 124 a.code id 0 true :: a.words
  | .barSync i => [mkR 0x49 124 124 (BitVec.ofNat 7 i.val) 0 true]
  | .barArr i => [mkR 0x49 124 124 (BitVec.ofNat 7 i.val) 1 true]
  | .barWt i => [mkR 0x49 124 124 (BitVec.ofNat 7 i.val) 2 true]
  | .gbarSync i => [mkR 0x4a 124 124 (BitVec.ofNat 7 i.val) 0 true]
  | .gbarArr i => [mkR 0x4a 124 124 (BitVec.ofNat 7 i.val) 1 true]
  | .gbarWt i => [mkR 0x4a 124 124 (BitVec.ofNat 7 i.val) 2 true]
  | .exit => [mkR 0x4b 124 124 124 0 true]
  | .trap c => [mkR 0x4c 124 124 c 0 true]
  | .brk => [mkR 0x4d 124 124 124 0 true]
  | .yld => [mkR 0x4e 124 124 124 0 true]
  | .waitAll c => [mkR 0x4f 124 124 c.val 0 true]
  | .waitGe a c => mkR 0x4f 124 a.code c.val 1 true :: a.words
  | .mma d a b f s => mkR 0x50 d.code a.code b.code f.val s :: (a.words ++ b.words)
  | .cpy d a b s => mkR 0x51 d.code a.code b.code 0 s :: (a.words ++ b.words)
  | .cpym d a b s => mkR 0x52 d.code a.code b.code 0 s :: (a.words ++ b.words)
  | .ringInit d a b s => mkR 0x53 d.code a.code b.code 0 s :: (a.words ++ b.words)
  | .ringArrive d a b s => mkR 0x53 d.code a.code b.code 1 s :: (a.words ++ b.words)
  | .ringWait d a b s => mkR 0x53 d.code a.code b.code 2 s :: (a.words ++ b.words)
  | .ringRelease d a b s => mkR 0x53 d.code a.code b.code 3 s :: (a.words ++ b.words)
  | .mck d a f s => mkR 0x54 d.code a.code 124 (boolF f) s :: a.words
  | .tlrd d c s => [mkR 0x55 d.code 124 c.val 0 s]
  | .spawn d a b f s => mkR 0x56 d.code a.code b.code (boolF f) s :: (a.words ++ b.words)
  | .phend => [mkR 0x57 124 124 124 0 true]
  | .putWin d a b s => mkR 0x58 d.code a.code b.code 0 s :: (a.words ++ b.words)
  | .putLaunch d a s => mkR 0x58 d.code a.code 124 1 s :: a.words
  | .get d a b s => mkR 0x59 d.code a.code b.code 0 s :: (a.words ++ b.words)
  | .wcntRdo d a s => mkR 0x5a d.code a.code 124 0 s :: a.words
  | .wcntRdt d a s => mkR 0x5a d.code a.code 124 1 s :: a.words
  | .wcntWto d a b s => mkR 0x5a d.code a.code b.code 2 s :: (a.words ++ b.words)
  | .wcntWtt d a b s => mkR 0x5a d.code a.code b.code 3 s :: (a.words ++ b.words)
  | .mfillZero d s => [mkR 0x5b d.code 124 124 0 s]
  | .mfillSet d a s => mkR 0x5b d.code a.code 124 1 s :: a.words
  | .pbind a b s => mkR 0x60 124 a.code b.code 0 s :: (a.words ++ b.words)
  | .wadd a s => mkR 0x61 124 a.code 124 0 s :: a.words
  | .wrd d f s => [mkR 0x62 d.code 124 124 (boolF f) s]
  | .parv d f => [mkR 0x63 d.code 124 124 f.val true]
  | .pst d c s => [mkR 0x64 d.code 124 c.val 0 s]
  | .pctlItend d s => [mkR 0x65 d.code 124 0 0 s]
  | .pctlKill d s => [mkR 0x65 d.code 124 1 0 s]
  | .pctlUndraw d s => [mkR 0x65 d.code 124 5 0 s]
  | .pctlTheta d a s => mkR 0x65 d.code a.code 2 0 s :: a.words
  | .pctlDraw d a s => mkR 0x65 d.code a.code 4 0 s :: a.words
  | .rng d a f s => mkR 0x66 d.code a.code 124 (boolF f) s :: a.words
  | .ppar d f s => [mkR 0x67 d.code 124 124 (boolF f) s]
  | .scfgMeth d a b s => mkR 0x68 d.code a.code b.code 0 s :: (a.words ++ b.words)
  | .scfgStart d a b s => mkR 0x68 d.code a.code b.code 1 s :: (a.words ++ b.words)
  | .scfgClose d s => [mkR 0x68 d.code 124 124 2 s]
  | .scfgStop d b s => mkR 0x68 d.code 124 b.code 3 s :: b.words
  | .seval d a s => mkR 0x69 d.code a.code 124 0 s :: a.words
  | .sst d a f s => mkR 0x6a d.code a.code 124 (boolF f) s :: a.words
  | .mld d a f s => mkR 0x6b d.code a.code 124 (boolF f) s :: a.words
  | .mst a b f s => mkR 0x6c 124 a.code b.code (boolF f) s :: (a.words ++ b.words)
  | .mcas d a b f s => mkR 0x6d d.code a.code b.code (boolF f) s :: (a.words ++ b.words)
  | .mtag d a s => mkR 0x6e d.code a.code 124 0 s :: a.words
  | .winb a f s => mkR 0x70 124 a.code 124 (boolF f) s :: a.words
  | .racq d a f => mkR 0x71 d.code a.code 124 (boolF f) true :: a.words
  | .rrel d a s => mkR 0x72 d.code a.code 124 0 s :: a.words
  | .sysr d c s => [mkR 0x73 d.code 124 c.val 0 s]
  | .sysw a c s => mkR 0x74 124 a.code c.val 0 s :: a.words
  | .eret => [mkR 0x75 124 124 124 0 true]
  | .syscVersion d => [mkR 0x76 d.code 124 0 0 true]
  | .syscPost d a => mkR 0x76 d.code a.code 1 0 true :: a.words
  | .syscPrefault d a => mkR 0x76 d.code a.code 2 0 true :: a.words
  | .dbgxQuery d a s => mkR 0x77 d.code a.code 0 0 s :: a.words
  | .dbgxNotify d a s => mkR 0x77 d.code a.code 1 0 s :: a.words
  | .dbgxStop d a s => mkR 0x77 d.code a.code 2 0 s :: a.words
  | _ => []

/-- Number of literal words of an instruction (R43). -/
def Instr.lits (i : Instr) : Nat := (encode i).length - 1

/-- `i` has an encoding (it is no event). -/
def Instr.isWord (i : Instr) : Bool := !(encode i).isEmpty

/-- The literal words that an instruction word asks for: decoding never looks at their values to say so. -/
def litCount (w : Word) : Nat :=
  match decodeWord w [0, 0, 0, 0] with
  | .ok i => i.lits
  | .error _ => 0

/-! ## Bytes -/

/-- The little-endian word at the head of a list of bytes (R3, R43). -/
def takeWord : List Byte → Option (Word × List Byte)
  | b0 :: b1 :: b2 :: b3 :: r => some (((b3 ++ b2) ++ b1) ++ b0, r)
  | _ => none

/-- `n` words from the head of a list of bytes. -/
def takeWords : Nat → List Byte → Option (List Word × List Byte)
  | 0, l => some ([], l)
  | n + 1, l =>
    match takeWord l with
    | none => none
    | some (w, r) =>
      match takeWords n r with
      | none => none
      | some (ws, r') => some (w :: ws, r')

/-- Decodes the instruction at the head of a list of bytes: the instruction and the bytes that are left. -/
def decode (l : List Byte) : Except Reject (Instr × List Byte) :=
  match takeWord l with
  | none => .error .short
  | some (w, r) =>
    match takeWords (litCount w) r with
    | none => .error .short
    | some (ws, r') =>
      match decodeWord w ws with
      | .ok i => .ok (i, r')
      | .error e => .error e

/-- The bytes of a word, byte 0 first. -/
def wordBytes (w : Word) : List Byte :=
  [w.extractLsb' 0 8, w.extractLsb' 8 8, w.extractLsb' 16 8, w.extractLsb' 24 8]

/-- The bytes of words in order. -/
def wordsBytes : List Word → List Byte
  | [] => []
  | w :: r => wordBytes w ++ wordsBytes r

/-- The words of a number whose bit 0 is bit 0 of the first word. -/
def natWords : Nat → Nat → List Word
  | 0, _ => []
  | n + 1, w => BitVec.ofNat 32 w :: natWords n (w / 2 ^ 32)

/-- The bytes of an instruction given as a number: `nbits` bits of it (bits above them are 0), five words in all. -/
def tableBytes (nbits w : Nat) : List Byte := wordsBytes (natWords 5 (w % 2 ^ nbits))

/-- The instruction that the decoder reads from an instruction numbered as the opcode table numbers its bits. -/
def decodeTableWord (nbits w : Nat) : Option Instr :=
  match decode (tableBytes nbits w) with
  | .ok (i, _) => some i
  | .error _ => none

end Sys2Proof
end

