-- ==== Sys2Proof/Machine/State.lean ====
section
/-!
DEFINITION. The state of a PY740 module as plain data, and the module right after reset.

Keys.  A block has a number that is never used again; its thread `i` (R166) has the key `1024 * block + i`, its wave `w`
the key `32 * block + w`.  Global memory is keyed by physical address (R231).  A line of a core's L1 has the key
`2 ^ 35 * core + PA / 64`.  Memory and the other sparse arrays are in one canonical form (Word.lean).
-/
namespace Sys2Proof.Machine

open Sys2Proof

/-! ## Traps, faults and waits -/

/-- What a trap reports (Table 15-1), with the access that a kill's record names (R279). -/
structure TrapInfo where
  /-- R276: cause; 8 bits -/
  cause : BitVec 8
  /-- R276: trap address; 64 bits -/
  addr : BitVec 64
  /-- R276: trap detail; 32 bits -/
  detail : BitVec 32
  /-- R279: access kind of Table 11-2; 3 bits -/
  kind : BitVec 3
  /-- R279: log2 of the access size; 4 bits -/
  size : BitVec 4
  deriving DecidableEq, Repr

/-- The trap registers of a thread (Table 5-6, Table 15-3). -/
structure TrapRegs where
  /-- R120 code 0x20: trap cause, 0 outside a handler -/
  cause : BitVec 8
  /-- R120 code 0x21: trap PC -/
  pc : BitVec 64
  /-- R120 code 0x22: trap address -/
  addr : BitVec 64
  /-- R120 code 0x23: trap detail -/
  detail : BitVec 32
  /-- R280 code 0x24: sub-group mask -/
  mask : BitVec 32
  /-- R280 code 0x26: fault PC -/
  faultPc : BitVec 64
  /-- R277: number of the trap event (the issue in which the thread trapped) -/
  event : Nat
  /-- R411: program order at handler entry; faults of earlier instructions wait for the `eret` -/
  order : Nat
  deriving DecidableEq, Repr

/-- The trap registers outside a handler. -/
def TrapRegs.zero : TrapRegs :=
  { cause := 0, pc := 0, addr := 0, detail := 0, mask := 0, faultPc := 0, event := 0, order := 0 }

/-- A trap that the thread takes at its next instruction boundary (R42, R411). -/
structure Due where
  /-- what it reports -/
  info : TrapInfo
  /-- address of the instruction concerned -/
  faultPc : BitVec 64
  /-- program order of the instruction concerned -/
  order : Nat
  deriving DecidableEq, Repr

/-- A register that an instruction writes: `v` by absolute index (R51), or `k` by index. -/
inductive RegId where
  | v (n : Nat)
  | k (n : Nat)
  deriving DecidableEq, Repr

/-- The wave-convergent instructions as they wait, with the values read at issue (R121). -/
inductive ConvOp where
  | shfl (f : ShflF) (a b : BitVec 32)
  | vote (f : VoteF) (a : BitVec 32)
  | wred (f : WredF) (a : BitVec 32)
  | fwred (f : FwredF) (a : BitVec 32)
  | wscn (f : WscnF) (a : BitVec 32)
  | kset (w64 : Bool) (a : BitVec 64)
  | ldk (w64 : Bool) (addr : BitVec 64)
  deriving DecidableEq, Repr

/-- What a thread waits for. -/
inductive Wait where
  /-- a block barrier's phase (R199) -/
  | bar (i phase : Nat)
  /-- a gang barrier's phase (R162) -/
  | gbar (i phase : Nat)
  /-- an `arr` or `sync` that first waits for an earlier arrival's phase (R162) -/
  | barFirst (gang : Bool) (i phase : Nat) (sync : Bool)
  /-- a join (R197) -/
  | join (id : BitVec 7) (mask : BitVec 32)
  /-- a wave-convergent instruction with its destinations (R121) -/
  | conv (op : ConvOp) (dests : List RegId) (sw : Bool)
  /-- a phase end (R182) -/
  | phend
  /-- registers (R213) -/
  | racq (dests : List RegId) (target : Nat)
  /-- a `racq` that has arrived while other threads of its group are still to execute it (R213); `try_` is its form -/
  | racqJoin (dests : List RegId) (target : Nat) (try_ : Bool)
  /-- a timeline value (R208) -/
  | timeline (e : Engine) (n : Nat)
  /-- a resample barrier (R293); `counted` is false while it waits for the next episode (R308) -/
  | parv (dests : List RegId) (mode : ParvF) (counted : Bool)
  /-- an answer of the system controller (R282) -/
  | sysc (service : BitVec 7) (a : BitVec 64) (dests : List RegId)
  deriving DecidableEq, Repr

/-- The waits that stall the group in place (R65): the instruction is tried again and then completes. -/
inductive StallKind where
  | token
  | rrel
  | mck
  | seval
  | sst
  /-- `wcnt` forms 2 and 3 on a window handle -/
  | wcnt (h : Nat)
  | accord
  | results
  deriving DecidableEq, Repr

/-- How a thread stands (R177, R202, Table 15-5). -/
inductive Status where
  /-- ready, or running in a group -/
  | ready
  /-- parked by a replayable fault whose record lies in the queue of a die under a number (R220) -/
  | parked (die rec : Nat)
  /-- parked with a record still to be appended: its instruction's other records are not known yet (R221), or the queue is full
  (R222, R239); `issue` is the number of the issue that it was part of -/
  | unrecorded (rec : List (BitVec 8)) (issue : Nat)
  /-- parked for the state engine's copy of a shared page (R236) -/
  | copying
  /-- waiting at an instruction with a number of literal words -/
  | waiting (w : Wait) (lits : Nat)
  /-- stopped by a debug session (R283) -/
  | stopped
  /-- exited (R204) -/
  | exited
  deriving DecidableEq, Repr

/-- The value that a class V result takes when it is written. -/
structure Pend where
  /-- program order within the thread -/
  order : Nat
  /-- registers written, lowest first; none for an instruction that writes no register -/
  dests : List RegId
  /-- the values, or none while the unit has not answered -/
  vals : Option (List (BitVec 32))
  /-- R40: status bits that the result raises -/
  flags : BitVec 32
  /-- R42: they trap where they are enabled -/
  traps : Bool
  /-- R411: the fault found after issue -/
  fault : Option TrapInfo
  /-- address of the instruction -/
  pc : BitVec 64
  deriving DecidableEq, Repr

/-- How a token register stands (R131, R134). -/
inductive Token where
  | pending
  /-- a fault with the address of the instruction that issued the command (R134) -/
  | faulted (info : TrapInfo) (pc : BitVec 64)
  deriving DecidableEq, Repr

/-! ## Threads, waves and blocks -/

/-- A thread. -/
structure Thread where
  /-- R43: program counter, 64 bits; the entry point at launch, the resume PC at a phase -/
  pc : BitVec 64
  /-- R209: registers v0 to v511, 32 bits each; 0 at launch (R175) -/
  regs : Store 32
  /-- R382: registers whose word in the register cache is poisoned; none at launch (log 36) -/
  bad : List Nat
  /-- R51: window base, a multiple of 16 from 0 to 496; 0 at launch -/
  wb : BitVec 16
  /-- R164: work identifier, 64 bits -/
  workId : BitVec 64
  /-- R177: how it stands; ready at launch -/
  status : Status
  /-- R178: when it became ready at its PC -/
  readyAt : Nat
  /-- since when it waits (R123, R162, R198, R213, R208) -/
  since : Nat
  /-- R65: the in-place stall and when it began -/
  stall : Option (StallKind × Nat)
  /-- R214: registers that the instruction at which it stalls in place names -/
  held : List RegId
  /-- R278: in-handler bit; clear at launch -/
  inHandler : Bool
  /-- R278: the trap registers; zero at launch -/
  trap : TrapRegs
  /-- R411, R42: traps due at the next boundary, in program order -/
  due : List Due
  /-- R64: class V results outstanding -/
  pend : List Pend
  /-- R63: destinations of the class V instructions of the current run -/
  runV : List RegId
  /-- R64: group with which it runs, or with which its last run ended and parks; 0 for none -/
  run : Nat
  /-- R131: token pairs by the index of their low register -/
  toks : Tab Token
  /-- R162: barrier arrivals not waited for: (index, with 16 added for a gang barrier; phase); under 32 the PC of the `phend`
  at which it has arrived (R182) -/
  arrivals : Tab Nat
  /-- R162: barriers, numbered as in `arrivals`, whose wait has timed out after the arrival, with the PC of their instruction: it acts as
  `wt` when the `eret` goes back to it -/
  again : Tab Nat
  /-- R298: binding (population handle, global slot), or none -/
  binding : Option (Nat × Nat)
  /-- R317: the particle it was bound to has been cut -/
  cut : Bool
  /-- R347: PCs of `seval` instructions that have posted and have not completed: the program's, and its handler's with bit 63 set -/
  posted : List (BitVec 64)
  /-- R283: the debugger has let it go out of a stop of its context -/
  freed : Bool
  /-- R207: its last run ended by `yld`, whose moment is its readiness time -/
  yielded : Bool
  /-- program order counter of its instructions -/
  order : Nat
  deriving DecidableEq, Repr

/-- A wave. -/
structure Wave where
  /-- R176: roles: bit 0 copy, bit 1 matrix, bit 2 vector -/
  roles : BitVec 3
  /-- R38: status special register, 32 bits; 0 at launch -/
  status : BitVec 32
  /-- R175: k0 to k11, 32 bits each; 0 at launch -/
  kregs : Store 32
  /-- R382: k registers whose word is poisoned; none at launch (log 36) -/
  kbad : List Nat
  /-- R209: allocation A, the header's base at launch -/
  alloc : Nat
  /-- R175: wave slot on its core -/
  slot : Nat
  /-- R202: threads that trapped in the event whose report stands -/
  reported : List Nat
  /-- R123, R261: by the PC of a convergent instruction at which threads wait, when the first of them arrived -/
  conv : Tab Nat
  deriving DecidableEq, Repr

/-- A block or gang barrier (R162, R199). -/
structure Barrier where
  /-- current phase, from 0 -/
  phase : Nat
  /-- threads that have arrived in it -/
  arrived : List Nat
  deriving DecidableEq, Repr

/-- A copy record as the engine read it (Table 6-5). -/
structure CopyRec where
  src : BitVec 64
  dst : BitVec 64
  rowBytes : Nat
  rows : Nat
  srcStride : Nat
  dstStride : Nat
  conv : BitVec 8
  flags : BitVec 8
  slot : Nat
  ring : Nat
  /-- a reserved byte is non-zero -/
  bad : Bool
  deriving DecidableEq, Repr

/-- A copy engine command (R151 to R155). -/
structure CopyCmd where
  /-- R11: copy number -/
  n : Nat
  /-- issuing thread -/
  owner : Nat
  /-- low register of the token pair -/
  tok : Nat
  /-- address of the `cpy` or `cpym` -/
  pc : BitVec 64
  /-- address of the copy record -/
  recAddr : BitVec 64
  /-- address of the follow-on record -/
  follow : Option (BitVec 64)
  /-- gang block mask of `cpym` -/
  mask : Option (BitVec 64)
  /-- the record, read and checked once (R152) -/
  record : Option CopyRec
  /-- the follow-on record's C, A and B descriptors -/
  followDesc : Option (BitVec 128 × BitVec 128 × BitVec 128)
  /-- R288: pieces delivered, as (target gang index, piece) -/
  done : List (Nat × Nat)
  /-- R158: pieces delivered and not yet credited -/
  uncredited : List (Nat × Nat)
  /-- R151: destination bytes, from the first on in row order, up to which the piece under way has been moved -/
  pos : Nat
  /-- R25, R114: status flags collected -/
  flags : BitVec 32
  /-- R154: the follow-on has entered the matrix context -/
  entered : Bool
  /-- R151: the replayable record on which the engine stalls: die and number -/
  stalled : Option (Nat × Nat)
  /-- R134: the fault with which it ends -/
  fault : Option TrapInfo
  deriving DecidableEq, Repr

/-- A matrix engine command (R142, R148). -/
structure MatCmd where
  /-- R11: matrix number, 0 for a follow-on (R154) -/
  n : Nat
  /-- copy number whose follow-on this is, 0 otherwise -/
  follow : Nat
  /-- issuing thread -/
  owner : Nat
  /-- low register of the token pair -/
  tok : Nat
  /-- address of the instruction -/
  pc : BitVec 64
  /-- mode, or the fill value of an `mfill` -/
  mode : MmaF ⊕ BitVec 32
  /-- C, A and B descriptors -/
  cd : BitVec 128
  ad : BitVec 128
  bd : BitVec 128
  /-- R288: chunks completed -/
  chunks : Nat
  /-- R139: offsets in bytes of the next chunk in A's rows and in B's columns -/
  offA : List Nat
  offB : List Nat
  /-- R288: C values after the last completed chunk, none before the first -/
  part : Option (List (BitVec 32))
  /-- R30: status flags collected -/
  flags : BitVec 32
  deriving DecidableEq, Repr

/-- A waiter of a stage ring slot (R157). -/
structure RingWaiter where
  thread : Nat
  tok : Nat
  /-- scratchpad offset of the slot -/
  slot : Nat
  want : Nat
  pc : BitVec 64
  deriving DecidableEq, Repr

/-- The kinds of `ring` (R157). -/
inductive RingKind where | init | arrive | wait | release deriving DecidableEq, Repr

/-- A ring operation on its way to its scratchpad (R157). -/
structure RingOp where
  thread : Nat
  /-- scratchpad offset of the header or slot -/
  off : Nat
  kind : RingKind
  value : Nat
  /-- low register of the token pair, if one is named -/
  tok : Option Nat
  pc : BitVec 64
  deriving DecidableEq, Repr

/-- An operation performed at the home of a line (R254): the location's address within the line is `off`. -/
inductive HomeKind where
  | atom (f : AtomF) (w64 : Bool) (b : BitVec 64)
  | cas (w64 : Bool) (expect b : BitVec 64)
  | cellAdd (x : BitVec 32)
  | creset (s : BitVec 8)
  | bnk (f : BnkF) (src : BitVec 512)
  /-- R244: the half of a 16-byte load that is still to be read, upper or lower, with the words of the other -/
  | ldHalf (upper : Bool) (got : List (BitVec 32))
  /-- R244: the half of a 16-byte store that is still to be performed -/
  | stHalf (x : BitVec 64)
  deriving DecidableEq, Repr

/-- Where a location lies once its window and translation are resolved (Table 12-1). -/
inductive Place where
  /-- physical address: HBM or host memory -/
  | mem (pa : Nat)
  /-- scratchpad of a block -/
  | spad (blk off : Nat)
  /-- bank memory byte of a die -/
  | bank (die off : Nat)
  /-- context image report, read only (R202): context and offset -/
  | image (ctx off : Nat)
  deriving DecidableEq, Repr

/-- A home operation on its way (R254), or the second half of a 16-byte access (R244). -/
structure HomeOp where
  /-- thread that issued it -/
  thread : Nat
  /-- R245: its place in the thread's program order -/
  prog : Nat
  /-- program order of the pending result that it answers, if any -/
  order : Option Nat
  /-- the location -/
  place : Place
  /-- the operation -/
  kind : HomeKind
  /-- the thread's ASID, which numbers a `bnk`, and the number (R258) -/
  asid : Nat
  n : Nat
  /-- R383: the address that the thread gave and the PC of its instruction -/
  va : BitVec 64
  pc : BitVec 64
  deriving DecidableEq, Repr

/-- An entry of a RELAUNCH phase's buffer (R388). -/
inductive BufEntry where
  /-- bytes stored at a place, which the writer addressed at `va` -/
  | store (p : Place) (va : Nat) (bytes : List (BitVec 8))
  /-- a deferred home operation, with the number of a `bnk` -/
  | op (p : Place) (va : Nat) (k : HomeKind) (n : Nat)
  /-- a deferred `wadd` of a thread's particle -/
  | wadd (thread pop slot : Nat) (x : BitVec 32)
  /-- a deferred `pctl`: code and value, with the instruction's address and program order -/
  | pctl (thread pop slot : Nat) (code : Nat) (a : BitVec 32) (pc : BitVec 64) (order : Nat)
  deriving DecidableEq, Repr

/-- A kernel header (Table 4-3). -/
structure Header where
  relaunch : Bool
  migratable : Bool
  accord : Bool
  pop : Bool
  phased : Bool
  base : Nat
  max : Nat
  scratch : Nat
  carry : Nat
  waves : Nat
  /-- barrier time-out, µs (0 in the header selects 10,000) -/
  timeout : Nat
  trapEn : BitVec 6
  /-- handler offset, signed; 0 means none -/
  handler : BitVec 32
  roles : BitVec 96
  deriving DecidableEq, Repr

/-- A spawn kept until the phase commits (R186): the record of its task. -/
structure SpawnArgs where
  hdr : BitVec 64
  header : Header
  waves : Nat
  workId : BitVec 64
  args : List (BitVec 32)
  pinned : Bool
  core : Nat
  deriving DecidableEq, Repr

/-- A block resident on a core. -/
structure Block where
  /-- context (gang) -/
  ctx : Nat
  /-- R167: gang block index -/
  gidx : Nat
  /-- core, as `rdsr` code 0x0D -/
  core : Nat
  /-- R164: work identifier with the fields below b zero -/
  workId : BitVec 64
  /-- threads: indices below this hold a thread at launch (R166, R187) -/
  count : Nat
  /-- R163: scratchpad bytes; zero at launch -/
  spad : Store 8
  /-- R199: block barriers -/
  bars : Tab Barrier
  /-- R11: copy commands issued -/
  copyN : Nat
  /-- R11: matrix commands issued -/
  matN : Nat
  /-- R132: copy numbers completed -/
  copyDone : List Nat
  /-- R132: matrix commands completed -/
  matDone : Nat
  /-- copy commands outstanding -/
  copyQ : List CopyCmd
  /-- matrix commands outstanding, in order -/
  matQ : List MatCmd
  /-- R147: checksum state FIRST, SKIP, MISM; 64 bits, 0 at opening -/
  checksum : BitVec 64
  /-- R157: ring waiters -/
  waiters : List RingWaiter
  /-- R388: relaunch buffer in issue order -/
  buffer : List BufEntry
  /-- R382, R389: an entry of the buffer cannot be corrected when it is read back (log 36) -/
  bufBad : Bool
  /-- R389: its phase has committed at its own end -/
  committed : Bool
  /-- R388: lines as the phase first read them, with the bytes that it has read -/
  firstRead : List (Place × BitVec 512 × BitVec 64)
  /-- R186: spawns queued until commit -/
  spawns : List SpawnArgs
  /-- R286: scratchpad has been copied to the image -/
  saved : Bool
  deriving DecidableEq, Repr

/-- What a task starts from (R189). -/
inductive TaskKind where
  /-- a gang of a launch: gang number -/
  | gang (g : Nat)
  /-- a queued phase: its blocks' phase records as bytes (Table 8-2) -/
  | phase (records : List (List (BitVec 8)))
  /-- a spawned block -/
  | spawn (a : SpawnArgs)
  deriving DecidableEq, Repr

/-- A task (R189). -/
structure Task where
  /-- launch it belongs to -/
  launch : Nat
  /-- R84: its header and the header's address -/
  header : Header
  hdr : BitVec 64
  kind : TaskKind
  /-- blocks -/
  blocks : Nat
  /-- R189: pinned to its core (one block) -/
  pinned : Bool
  /-- R189: core of its ready queue, or the first core of the cluster of its gang queue -/
  core : Nat
  /-- R189: order of queueing -/
  queued : Nat
  /-- it waits for a cluster that can hold it -/
  unassigned : Bool
  deriving DecidableEq, Repr

/-- How far a context's pre-emption or stop has gone (R286). -/
inductive CtxState where
  | running
  /-- R286: no run starts; results are awaited -/
  | stopping
  /-- fully evictable, not resident -/
  | out
  /-- R283: stopped by the debugger -/
  | debugStop
  /-- R390: its phase is discarded and waits for the relaunch -/
  | discarded
  deriving DecidableEq, Repr

/-- A context: one resident gang (R275). -/
structure Ctx where
  asid : Nat
  launch : Nat
  /-- R84: header and its address -/
  header : Header
  hdrAddr : BitVec 64
  die : Nat
  cluster : Nat
  /-- block numbers by gang index -/
  blocks : List Nat
  /-- R162: gang barriers -/
  gbars : Tab Barrier
  /-- R285: address of the context image -/
  image : BitVec 64
  /-- R285: bytes of the image that its writers have written -/
  imageBytes : Store 8
  state : CtxState
  /-- R390: the task it was placed from -/
  origin : Task
  /-- R390: phases in a row that consumed poison -/
  poisoned : Nat
  /-- R210: extension kept while it is out, wave-blocks by gang index -/
  kept : List Nat
  /-- R343: absent notices have been sent for it -/
  noticed : Bool
  /-- R283: the debugger's stop stands while it is pre-empted -/
  held : Bool
  /-- R409: core, wave, lane and a of the stop that has been asked for and that the debugger has not been told of yet -/
  stopFor : Option (Nat × Nat × Nat × BitVec 32)
  /-- R279: cores that have run it -/
  ran : List Nat
  deriving DecidableEq, Repr

/-- An issue group in its run (R177). -/
structure Group where
  core : Nat
  part : Nat
  /-- R60: threads in the run, ordered by wave then lane -/
  members : List Nat
  /-- threads that have still to execute the current instruction -/
  todo : List Nat
  /-- R60: instructions of the run executed -/
  count : Nat
  /-- number of the current issue -/
  issue : Nat
  /-- clock of the current issue -/
  began : Nat
  /-- R212: allocations of the members' waves at the current issue -/
  allocs : Tab Nat
  /-- the current instruction carries the marker -/
  closing : Bool
  /-- R178: runs issued in a row -/
  runs : Nat
  /-- R178: when the scheduler took it last: of a partition's groups the one taken last is the current one -/
  turn : Nat
  /-- the run has ended -/
  ended : Bool
  deriving DecidableEq, Repr

/-- A queued `racq` request of a wave (R213). -/
structure RacqReq where
  wave : Nat
  target : Nat
  deriving DecidableEq, Repr

/-! ## Memory -/

/-- A line of a core's L1 (R229). -/
structure L1Line where
  asid : Nat
  data : BitVec 512
  /-- R247: dirty bytes -/
  dirty : BitVec 64
  /-- R382: poisoned 64-bit words -/
  bad : BitVec 8
  deriving DecidableEq, Repr

/-- A cached translation (R238). -/
structure TlbEntry where
  core : Nat
  asid : Nat
  /-- VA of the page -/
  page : Nat
  /-- log2 of the page size -/
  bits : Nat
  /-- the leaf entry -/
  entry : BitVec 64
  deriving DecidableEq, Repr

/-- An address space (R232, R394). -/
structure Asid where
  /-- R394: its slot holds a live key -/
  live : Bool
  /-- R394: the key; overwritten with 0 when it is destroyed (R395) -/
  key : BitVec 512
  /-- R395: its teardown is under way -/
  closing : Bool
  /-- R398: generation number of the key slot, 32 bits -/
  keyGen : BitVec 32
  /-- R232: PA of the root table -/
  root : Nat
  /-- R408: memory limit in bytes and bytes given -/
  limit : Nat
  used : Nat
  /-- R408: pools in bytes: context, state, relaunch; and what is in use of each -/
  ctxPool : Nat
  ctxUsed : Nat
  statePool : Nat
  stateUsed : Nat
  relaunchPool : Nat
  /-- R184: launch packets accepted -/
  launches : Nat
  /-- R227: bank segments: die → (base, length) in 64 KiB units -/
  banks : Tab (Nat × Nat)
  /-- R258: `bnk` operations accepted and completed, by die -/
  bankN : Tab Nat
  bankDone : Tab (List Nat)
  /-- R330: put and get commands issued and completed, by die -/
  portN : Tab Nat
  portDone : Tab (List Nat)
  /-- R410: host message queue: header VA and log2 of the slot count -/
  msgQueue : Option (BitVec 64 × Nat)
  /-- R410: PRODUCED -/
  produced : Nat
  /-- R283: a debug session is attached -/
  debug : Bool
  /-- R337: VA of the collective queue window, if any -/
  collective : Option Nat
  deriving DecidableEq, Repr

/-- A store that waits for the state engine's copy (R236). -/
structure CopyReq where
  asid : Nat
  va : BitVec 64
  /-- the parked thread, if any -/
  thread : Option Nat
  deriving DecidableEq, Repr

/-- A die's fault record queue (R239). -/
structure FaultQ where
  /-- PA of the ring -/
  base : Nat
  /-- log2 of the record count, 6 to 16 -/
  k : Nat
  /-- append index -/
  append : Nat
  /-- consumed index -/
  consumed : Nat
  deriving DecidableEq, Repr

/-! ## Launches and queues -/

/-- A launch or collective queue window (R169, R337). -/
structure LaunchQ where
  asid : Nat
  /-- highest allowed priority class -/
  maxPrio : Nat
  /-- VA and frame of the window -/
  va : BitVec 64
  pa : Nat
  /-- R239: serving die -/
  die : Nat
  /-- bytes of the slots -/
  bytes : Store 8
  /-- R169: bytes written since a slot last held an accepted packet, by slot -/
  written : Tab (BitVec 128)
  /-- next slot -/
  next : Nat
  /-- packets accepted, 64 bits -/
  accepted : BitVec 64
  /-- overrun count -/
  overruns : BitVec 64
  /-- R337: it is a collective queue window -/
  collective : Bool
  /-- R337: context of the thread that last wrote each slot -/
  owners : Tab Nat
  /-- it has been destroyed; packets accepted run on -/
  closed : Bool
  deriving DecidableEq, Repr

/-- A launch (R168, R171). -/
structure Launch where
  asid : Nat
  /-- R184: launch number, 32 bits -/
  number : BitVec 32
  hdr : BitVec 64
  args : BitVec 64
  completion : BitVec 64
  value : BitVec 64
  extents : List Nat
  widths : List Nat
  b : Nat
  g : Nat
  priority : Nat
  deadline : Nat
  /-- serving die of its queue -/
  die : Nat
  /-- tasks and contexts of it that have not completed -/
  open_ : Nat
  /-- R279: a context of it was killed -/
  killed : Bool
  /-- R320: population whose launch this is -/
  population : Option Nat
  /-- R320: a drop has ended it: it completes without a completion write -/
  quiet : Bool
  deriving DecidableEq, Repr

/-! ## Populations -/

/-- A particle entry (Table 17-3). -/
structure Particle where
  /-- exact accumulator in units of 2^-32 -/
  l : Int
  pinf : Bool
  dead : Bool
  cut : Bool
  parent : Nat
  generation : BitVec 32
  /-- leaf entries of the state root -/
  root : List (BitVec 64)
  arrivals : Nat
  deriving DecidableEq, Repr

/-- The states of a population (Table 17-2). -/
inductive PopState where | free | filling | running | paused | draining deriving DecidableEq, Repr

/-- What an episode keeps from the moment at which its last arrival counted (R292, R307). -/
structure Snapshot where
  /-- log-weights by slot, none for a dead particle -/
  weights : List (Nat × Option Int)
  /-- the resample has started: not while the population is paused -/
  started : Bool
  /-- the test draw that was pending when it started -/
  draw : Option (BitVec 32)
  /-- a draw or undraw has been applied since -/
  redrawn : Bool
  deriving DecidableEq, Repr

/-- A population (Table 17-1, Table 17-8). -/
structure Population where
  asid : Nat
  n : Nat
  /-- member modules with their first global slots -/
  members : List (Nat × Nat)
  seed : BitVec 64
  a : Nat
  theta : BitVec 16
  cutPolicy : Bool
  deadline : Nat
  period : Nat
  budget : Nat
  base : BitVec 64
  k : Nat
  priority : Nat
  /-- Z, Q31.32 -/
  z : BitVec 64
  /-- resample index -/
  index : BitVec 64
  state : PopState
  /-- status bits of Table 17-8 -/
  demoted : Bool
  recomp : Bool
  cutrun : Bool
  test : Bool
  extinct : Bool
  lastrs : Bool
  essfail : Bool
  zsat : Bool
  /-- S and lmax of the last resample -/
  lastS : BitVec 64
  lastLmax : BitVec 64
  /-- particles of this module by global slot -/
  parts : Tab Particle
  /-- pending test draw -/
  draw : Option (BitVec 32)
  /-- smallest mode among the episode's `parv` arrivals -/
  mode : Option Nat
  /-- threads that have arrived in the episode -/
  arrivedBy : List Nat
  /-- R307: increments held for the next iteration: slot and increment -/
  held : List (Nat × BitVec 32)
  /-- R361: samples that wait in the episode: cluster and sample -/
  samples : List (Nat × Nat)
  /-- R362: samples that have arrived in the episode, by slot, as they stood then -/
  donors : List (Nat × StepState)
  /-- R307: the snapshot of an episode whose last arrival has counted -/
  snap : Option Snapshot
  /-- R307, R316: the other members' arrivals of the episode are complete -/
  peersDone : Bool
  /-- R316: what the other members have sent for the episode's end, from its last arrival on -/
  peers : List PeerShare
  /-- R321: θ at creation -/
  theta0 : BitVec 16
  /-- start of the iteration (clock) -/
  started : Nat
  /-- R322: it is in the admission sum -/
  admitted : Bool
  /-- R319: order of its last admission -/
  rank : Nat
  /-- requests that take effect at the next boundary -/
  wantPause : Bool
  wantCancel : Bool
  /-- R320: launch packets kept for reposting -/
  packets : List (List (BitVec 8))
  /-- R320: those that are still to be reposted -/
  posting : List (List (BitVec 8))
  /-- R295: firmware's copy of the initial state pages: slot, page, bytes -/
  initial : List (Nat × Nat × Store 8)
  /-- R382: poisoned units of 32 bytes of that copy: slot, page, unit -/
  initialBad : List (Nat × Nat × Nat)
  deriving DecidableEq, Repr

/-! ## Fabric and collectives -/

/-- A registered window (R328). -/
structure Window where
  asid : Nat
  base : BitVec 64
  len : Nat
  canPut : Bool
  canGet : Bool
  origin : BitVec 64
  target : BitVec 64
  deriving DecidableEq, Repr

/-- A put, get or launch put in flight (R331). -/
structure FabricTx where
  /-- issuing thread and its block's die -/
  thread : Nat
  die : Nat
  asid : Nat
  tok : Nat
  pc : BitVec 64
  /-- number on the timeline of engine code 0x03 -/
  n : Nat
  /-- 0 put, 1 get, 2 launch put -/
  kind : Nat
  local_ : BitVec 64
  len : Nat
  module : Nat
  handle : Nat
  offset : BitVec 64
  /-- its source bytes, or its request, have been sent -/
  sent : Bool
  /-- R326: port that carries it -/
  port : Nat
  /-- R332: the replayable record on which it stalls: die and number -/
  stalled : Option (Nat × Nat)
  /-- bytes of a get that have come and have not landed -/
  data : Option (List (BitVec 8))
  /-- R134, R239: the fault with which it ends as soon as its record finds a slot -/
  fault : Option TrapInfo
  deriving DecidableEq, Repr

/-- A message that the module has sent (R329, R335, R336, R343). -/
inductive OutMsg where
  | put (module handle : Nat) (offset : BitVec 64) (bytes : List (BitVec 8))
  | get (module handle : Nat) (offset : BitVec 64) (len : Nat)
  | launch (module queue : Nat) (bytes : List (BitVec 8))
  | ack (module : Nat) (reason : BitVec 8)
  | getData (module : Nat) (reason : BitVec 8) (bytes : List (BitVec 8))
  | chunk (module rank : Nat) (tag : BitVec 64) (op : Nat) (bytes : List (BitVec 8))
  | notice (module : Nat) (tag : BitVec 64) (present : Bool)
  | share (module pop : Nat) (s : PeerShare)
  | retry (port : Nat) (seq : BitVec 16)
  /-- R306: a `pctl` code forwarded to a population's home module -/
  | control (module pop code : Nat) (a : BitVec 32)
  deriving DecidableEq, Repr

/-- A fabric port (R324, R326). -/
structure Port where
  up : Bool
  retraining : Bool
  /-- next sequence number expected -/
  expect : BitVec 16
  /-- failures in a row of the flit expected next -/
  fails : Nat
  /-- R326: the flit that the other end asked for again last, by sequence number, and how often in a row: failures at the other end -/
  asked : Option (BitVec 16 × Nat)
  /-- the flit accepted last on each virtual channel, newest first -/
  inbox : List (BitVec 2 × BitVec 1920)
  /-- R325: sequence number of the next flit sent -/
  seqOut : BitVec 16
  /-- R324: receive buffers free at the other end, by virtual channel -/
  room : List Nat
  /-- R326: flits that wait for a buffer or for the link: virtual channel and type (Table 18-1), payload -/
  queued : List (BitVec 4 × BitVec 1920)
  /-- R326: flits sent and not acknowledged, oldest first -/
  kept : List (BitVec 2048)
  /-- MODEL's own: flits put on the link, newest first (log 54) -/
  wire : List (BitVec 2048)
  /-- R392: lane under calibration last -/
  lane : Nat
  deriving DecidableEq, Repr

/-- A collective instance on this module (R337 to R343). -/
structure Collective where
  asid : Nat
  handle : Nat
  tag : BitVec 64
  bases : List (BitVec 64)
  trace : BitVec 64
  status : BitVec 64
  completion : BitVec 64
  value : BitVec 64
  flags : BitVec 32
  stepMs : Nat
  owner : Option Nat
  die : Nat
  /-- dependency counters by operation -/
  deps : Tab Nat
  /-- operations completed -/
  done : List Nat
  /-- since when each recv waits -/
  waiting : Tab Nat
  /-- chunks received and not reduced: operation, slot, rank, bytes -/
  staging : List (Nat × Nat × Nat × List (BitVec 8))
  /-- contributors combined, by slot, in order -/
  order : Tab (List Nat)
  /-- status bits [5:0] of R342 -/
  bits : BitVec 6
  /-- R343: ranks that are absent, with the clock of their notice -/
  absent : Tab Nat
  /-- R341: it holds the switch reservations that its schedule requests -/
  reserved : Bool
  deriving DecidableEq, Repr

/-- A loaded schedule (R336, R339). -/
structure LoadedSched where
  asid : Nat
  sched : Schedule
  version : BitVec 32
  digest : BitVec 384
  /-- R339: residuals: (operation, source address) → FP32 values -/
  residuals : List (Nat × Nat × List (BitVec 32))
  deriving DecidableEq, Repr

/-! ## Sillage -/

/-- A method table entry (Table 19-2). -/
structure Method where
  asid : Nat
  s : Nat
  q : Nat
  atol : BitVec 32
  rtol : BitVec 32
  hMin : BitVec 32
  hMax : BitVec 32
  c : List (BitVec 32)
  a : List (BitVec 32)
  b : List (BitVec 32)
  e : List (BitVec 32)
  table : List (BitVec 32)
  deriving DecidableEq, Repr

/-- A sample (R346, R351). -/
structure Sample where
  asid : Nat
  /-- state of Table 20-1 -/
  state : Nat
  record : BitVec 64
  x : BitVec 64
  work : BitVec 64
  len : Nat
  method : Nat
  limit : Nat
  checkpoints : List (BitVec 32)
  t : BitVec 32
  h : BitVec 32
  tEnd : BitVec 32
  link : BitVec 32
  accepted : Nat
  rejected : Nat
  /-- the step is clipped to this time -/
  clip : Option (BitVec 32)
  /-- stage whose request is outstanding, 0 when none has been formed for the step -/
  stage : Nat
  /-- 0 no request, 1 queued, 2 handed out, 3 posted -/
  request : Nat
  /-- thread that took the request -/
  taker : Nat
  /-- R363: number on the timeline -/
  n : Nat
  /-- R365: a stop waits for the post -/
  stopping : Bool
  /-- R361: its arrival in the open episode has been made -/
  arrived : Bool
  /-- R360: it has reached a checkpoint, and its link has been checked -/
  reached : Bool
  /-- R317: the particle of its link has been cut -/
  cut : Bool
  /-- replayable record on which it stalls -/
  stalled : Option (Nat × Nat)
  deriving DecidableEq, Repr

/-- A cluster's Sillage sequencer (R350). -/
structure Sillage where
  methods : Tab Method
  samples : Tab Sample
  /-- queued requests, oldest first -/
  queue : List Nat
  /-- R347: ASIDs whose context has been closed and not opened again -/
  closed : List Nat
  /-- R363: starts and completed numbers by ASID -/
  started : Tab Nat
  ended : Tab (List Nat)
  deriving DecidableEq, Repr

/-! ## Accord memory -/

/-- A writing operation at or on its way to its coordinator (R371). -/
structure AccordOp where
  /-- ASID and core of its thread -/
  asid : Nat
  core : Nat
  /-- R371: the core has sent it; it waits there for an earlier one of the line otherwise -/
  sent : Bool
  set : Nat
  line : Nat
  /-- byte offset within the line -/
  off : Nat
  thread : Nat
  order : Nat
  /-- R349: writer id, 12 bits -/
  writer : BitVec 12
  bytes : List (BitVec 8)
  /-- expected version of an `mcas` -/
  expect : Option (BitVec 48)
  va : BitVec 64
  deriving DecidableEq, Repr

/-- An `mld` or `mtag` that has issued and waits until a majority of its line answers (R373, R376, R377). -/
structure AccordRead where
  asid : Nat
  thread : Nat
  /-- program order of the result that it answers -/
  order : Nat
  set : Nat
  line : Nat
  /-- an `mld`: byte offset within the line and bytes; an `mtag` has none -/
  datum : Option (Nat × Nat)
  va : BitVec 64
  deriving DecidableEq, Repr

/-! ## Module -/

/-- An aperture range (command 0x0022). -/
structure Aperture where
  asid : Nat
  hdm : Bool
  offset : Nat
  va : BitVec 64
  len : Nat
  deriving DecidableEq, Repr

/-- Firmware's and the host link's registers (Tables 23-1 to 23-8). -/
structure HostRegs where
  /-- R401: boot status register, 32 bits; 0 -/
  boot : BitVec 32
  /-- R405: MBXGO SEQ, 16 bits; 0 -/
  goSeq : BitVec 16
  /-- R406: SEQ of the request that is being served -/
  served : BitVec 16
  /-- R405: MBXSTAT, 32 bits; 0 -/
  stat : BitVec 32
  /-- R405: MBXIEN, 32 bits; 0 -/
  ien : BitVec 32
  /-- R405: EVPOSTED, 64 bits; 0 -/
  evPosted : BitVec 64
  /-- R405: EVLOST, 64 bits; 0 -/
  evLost : BitVec 64
  /-- R409: count last acknowledged; 0 -/
  evAck : BitVec 64
  /-- R405: request buffer, 4,096 bytes -/
  req : Store 8
  /-- R405: response buffer, 4,096 bytes -/
  resp : Store 8
  /-- R405: event log, 16,384 bytes -/
  log : Store 8
  /-- R406: MSI-X vectors sent, newest first; none (log 44) -/
  msix : List Nat
  /-- R408: apertures -/
  apertures : List Aperture
  /-- MODEL's own: what the host's last read of BAR2 outside a window returned; none (DESIGN CHOICE, log 44) -/
  lastRead : List (BitVec 8)
  deriving DecidableEq, Repr

/-- Power, cooling and quarantine (R386, R403, R404). -/
structure Power where
  /-- R403: power cap P, W; 4,200 (DESIGN CHOICE, log 43) -/
  cap : Nat
  /-- island clocks in MHz by die * 64 + island, those below 2,400 -/
  clocks : Tab Nat
  /-- islands held at the floor -/
  held : List Nat
  /-- last sample -/
  sensors : Sensors
  /-- last reading of the sensor of each island, 64 * die + island, 0.01 °C -/
  temps : Tab Nat
  /-- R386: quarantined partitions by core -/
  quarantine : Tab (BitVec 4)
  /-- R385: disabled shadows, lane by lane, by core * 4 + partition -/
  shadowOff : Tab (BitVec 32)
  /-- R382, R385: logged errors: kind and place -/
  errors : List (Nat × Nat)
  /-- R393: suspect test images -/
  suspect : List Nat
  deriving DecidableEq, Repr

/-- A glitch that a lane's shadow meets at its next floating-point instruction (R385): what the lanes give on the first
try, on the retry and on another partition, in place of the true key. -/
structure Glitch where
  main : List (BitVec 32)
  shadow : List (BitVec 32)
  deriving DecidableEq, Repr

/-- An error that a core's matrix engine makes in its next chunk (R146): bits that are wrong in the chunk's results, element by element, when
it is computed and when it is computed again. -/
structure ChunkErr where
  first : List (BitVec 32)
  again : List (BitVec 32)
  deriving DecidableEq, Repr

/-- A test kernel's image (R393, R396). -/
structure TestImage where
  /-- R398: SHA-384 measurement -/
  measure : BitVec 384
  /-- the digest that it stores of its result area -/
  result : BitVec 384
  /-- R397: security version, 32 bits -/
  version : BitVec 32
  /-- what it holds: a kernel header and its code (log 87) -/
  payload : List (BitVec 8)
  /-- the kernel header, where it has one of one wave -/
  header : Option Header
  /-- offset and length of the result area in the image's pages -/
  area : Nat × Nat
  deriving DecidableEq, Repr

/-- A test kernel on a core (R393). -/
structure TestRun where
  core : Nat
  /-- its wave slot, none while a task has taken it -/
  slot : Option Nat
  /-- number of its image -/
  image : Nat
  /-- its context -/
  ctx : Nat
  /-- core and wave slot of the run whose mismatch this one checks -/
  first : Option (Nat × Nat)
  deriving DecidableEq, Repr

/-- A protected word or unit of a storage array (R382). -/
inductive EccUnit where
  /-- a register of a thread in the register cache -/
  | reg (thread n : Nat)
  /-- a k register of a wave -/
  | kreg (wave n : Nat)
  /-- a 64-bit word of a scratchpad, of bank memory or, by its physical address, of an L2 -/
  | word (p : Place)
  /-- a 64-bit word of a line of a core's L1 -/
  | l1 (key i : Nat)
  /-- a 32-byte unit of HBM by PA / 32 -/
  | unit (u : Nat)
  /-- an entry of a block's relaunch buffer -/
  | entry (blk : Nat)
  deriving DecidableEq, Repr

/-- A turn of the module: an instruction of an issue group, an event, clocks that pass, or an error that ECC finds in an array (R382). -/
inductive Turn where
  | issue (g : Nat)
  | event (i : Instr)
  | tick (n : Nat)
  | upset (c : EccUnit) (corrected : Bool)
  deriving DecidableEq, Repr

/-- The state of a module. -/
structure State where
  /-- R120 code 0x18: clocks since module reset, 64 bits read; reset 0 (R120) -/
  clock : Nat
  /-- MODEL's own: thread that executes the next instruction; reset 0 (DESIGN CHOICE, log 1) -/
  cur : Nat
  /-- MODEL's own: turns and outside events still to come, first first; reset empty (DESIGN CHOICE, log 1) -/
  agenda : List Turn
  /-- MODEL's own: puts of other modules whose accesses wait for a frame of a state pool (R236); reset empty (DESIGN CHOICE, log 70) -/
  delayed : List PeerTx
  /-- MODEL's own: an access of the event under way waits for a frame; reset false (DESIGN CHOICE, log 70) -/
  starved : Bool
  /-- MODEL's own: outcomes of the hardware's open choices, first first; reset empty (DESIGN CHOICE, log 2) -/
  picks : List Nat
  /-- MODEL's own: counter of numbers never used again; reset 1 (DESIGN CHOICE, log 1) -/
  ticket : Nat
  /-- MODEL's own: what the next boot meets; reset all well (DESIGN CHOICE, log 3) -/
  bootIn : BootIn
  /-- R177: threads by key; reset none -/
  threads : Tab Thread
  /-- R176, R38: waves by key; reset none -/
  waves : Tab Wave
  /-- R165: resident blocks; reset none -/
  blocks : Tab Block
  /-- R275: contexts; reset none -/
  ctxs : Tab Ctx
  /-- R177: issue groups; reset none -/
  groups : Tab Group
  /-- R213: queued `racq` requests by core; reset none -/
  racqs : Tab (List RacqReq)
  /-- R231: memory by physical address, bytes; an unlisted byte reads 0 (R402 step 3 writes zero; log 14) -/
  mem : List Host.Cell
  /-- R382: poisoned 32-byte units of HBM by PA / 32; reset none -/
  poison : List Nat
  /-- R382: poisoned 64-bit words of scratchpads, bank memory and L2, the last by their physical address; reset none (log 36) -/
  badWords : List Place
  /-- R227: bank memory bytes by die * 2^26 + byte; reset 0 (R402) -/
  bank : Store 8
  /-- R229: L1 lines; reset none -/
  l1 : Tab L1Line
  /-- R238: cached translations; reset none -/
  tlb : List TlbEntry
  /-- R394: address spaces; reset none -/
  asids : Tab Asid
  /-- R394, R395: HBM frames, by PA / 65536, whose cells still hold what was encrypted under a key that has been destroyed: that key, which
  stands for the bytes in the cells and which no part of the module holds any longer; reset none -/
  oldKeys : Tab (BitVec 512)
  /-- R394: firmware's key; reset 0, and boot generates it (R402; DESIGN CHOICE, log 79) -/
  fwKey : BitVec 512
  /-- R254: home operations on their way; reset none -/
  homeQ : List HomeOp
  /-- R258: bank unit operations on their way; reset none -/
  bankQ : List HomeOp
  /-- R157: ring operations on their way; reset none -/
  ringQ : List RingOp
  /-- R315: the state engine's queue; reset none -/
  copyReqs : List CopyReq
  /-- R239: fault record queues by die; reset none -/
  faultQ : Tab FaultQ
  /-- R239: records that wait for a slot, by die; reset none -/
  recWait : Tab (List (List (BitVec 8)))
  /-- R169: launch and collective queue windows by number; reset none -/
  queues : Tab LaunchQ
  /-- R168: launches; reset none -/
  launches : Tab Launch
  /-- R189: queued tasks; reset none -/
  tasks : Tab Task
  /-- R191: levelled stealing in place of neighbour averaging; reset true (start-up; DESIGN CHOICE, log 40) -/
  stealing : Bool
  /-- R294: population table; reset all free (R402) -/
  pops : Tab Population
  /-- R327: module number, none until set -/
  module : Option Nat
  /-- R327: modules of the domain that answer; reset none (DESIGN CHOICE, log 4) -/
  domain : List Nat
  /-- R328: windows by handle; reset none -/
  windows : Tab Window
  /-- R334: access-control table, 64 bits an entry; reset 0 -/
  access : Store 64
  /-- R324: fabric ports by number; reset none up -/
  ports : Tab Port
  /-- R331: puts and gets in flight; reset none -/
  txs : Tab FabricTx
  /-- R329: messages sent, newest first; reset none (log 54, 62) -/
  outbox : List OutMsg
  /-- R336: loaded schedules; reset none -/
  scheds : Tab LoadedSched
  /-- R337: collective instances; reset none -/
  colls : Tab Collective
  /-- R350: Sillage sequencers by cluster 0 to 15; reset cleared -/
  sillage : Tab Sillage
  /-- R367: Accord set table, 64 bits an entry; reset 0 -/
  sets : Store 64
  /-- R368: base and length of the Accord region; reset 0 (DESIGN CHOICE, log 5) -/
  accordBase : Nat
  accordLen : Nat
  /-- R377: copies that fail ECC: set, line, member; reset none -/
  accordBad : List (Nat × Nat × Nat)
  /-- R371: writing operations queued; reset none -/
  accordQ : List AccordOp
  /-- R373, R377: reads that have issued and wait for a majority of their line; reset none -/
  accordReads : List AccordRead
  /-- R380: member lines the rebuild has not reached: set, member → lines done; reset none -/
  rebuilt : List (Nat × Nat × Nat)
  /-- R405: host-visible registers -/
  host : HostRegs
  /-- R403: power, cooling, quarantine -/
  power : Power
  /-- R391: fenced dies; reset none -/
  fenced : List Nat
  /-- R384: glitches of the floating-point lanes, by core * 4 + partition; reset none (DESIGN CHOICE, log 6) -/
  glitches : Tab Glitch
  /-- R146: errors of the matrix engines, by core; reset none (DESIGN CHOICE, log 6) -/
  chunkErrs : Tab ChunkErr
  /-- MODEL's own: firmware's next free frame on each stack, 64 KiB units; reset 0 (DESIGN CHOICE, log 7) -/
  frames : Tab Nat
  /-- MODEL's own: firmware's free frames, PA / 65536; reset none (DESIGN CHOICE, log 7) -/
  freeFrames : List Nat
  /-- R369: Accord pages given: set, region page (offset / 65536), ASID; reset none -/
  accordPages : List (Nat × Nat × Nat)
  /-- R220: backing store of pages that are not resident: asid, VA of the page → bytes; reset none -/
  backing : List (Nat × Nat × Store 8)
  /-- R397: fused security version counters by kind, 32 bits; reset 0 (DESIGN CHOICE, log 8) -/
  fused : Store 32
  /-- R408: firmware security version, 32 bits; reset 0 (DESIGN CHOICE, log 8) -/
  fwVersion : BitVec 32
  /-- R398: measurement of the running firmware; reset 0 (DESIGN CHOICE, log 8) -/
  fwMeasure : BitVec 384
  /-- R393: images of the test kernels; reset none -/
  images : Tab TestImage
  /-- R393: test kernels that are placed, at most one a core; reset none -/
  tests : List TestRun
  deriving DecidableEq, Repr

/-! ## Outcomes -/

/-- Why the machine stops with a fault. -/
inductive Fault where
  /-- An instruction word was to be executed by a thread that does not exist or is not ready to execute: raised by the
  meaning of every word when `cur` names no such thread.  Safe: the step never names one. -/
  | noThread
  deriving DecidableEq, Repr

/-- Why there is no meaning. -/
inductive Refusal where
  /-- The instruction has no meaning in this model yet: raised by `exec` alone.  Safe. -/
  | notModelled (mnemonic : String)
  deriving DecidableEq, Repr

/-! ## Reset -/

/-- A firmware image's envelope of security version 0 with an empty payload, its keys and signatures zero (Table 22-2). -/
def Envelope.blank : Envelope :=
  { head := [0x50, 0x59, 0x53, 0x47, 1, 0, 1, 0] ++ List.replicate 16 0, digest := List.replicate 48 0, rsaKey := List.replicate 384 0,
    slhKey := List.replicate 48 0, rsaSig := List.replicate 384 0, slhSig := List.replicate 16224 0, payload := [] }

/-- The boot that meets no failure after step 2. -/
def BootIn.well : BootIn :=
  { firmware := Envelope.blank, badDies := [], badLinks := [], badTests := [], badFabric := [], quarantine := [], badPorts := [],
    accordBase := 0x8_0000_0000, accordLen := 0x4000_0000, faultK := 10, buffers := [64, 64, 64, 64], tests := [] }

/-- The host-visible registers after reset (Tables 23-1 to 23-7). -/
def HostRegs.reset : HostRegs :=
  { boot := 0, goSeq := 0, served := 0, stat := 0, ien := 0, evPosted := 0, evLost := 0, evAck := 0, req := [], resp := [], log := [],
    msix := [], apertures := [], lastRead := [] }

/-- Power and cooling after reset. -/
def Power.reset : Power :=
  { cap := 4200, clocks := [], held := [], sensors := { power := 0, busiest := [], inlet := 0, flow := 0 },
    temps := [], quarantine := [], shadowOff := [], errors := [], suspect := [] }

/-- The module right after reset, before its boot sequence. -/
def State.reset : State :=
  { clock := 0, cur := 0, agenda := [], delayed := [], starved := false, picks := [], ticket := 1, bootIn := BootIn.well, threads := [], waves := [],
    blocks := [], ctxs := [], groups := [], racqs := [], mem := [], poison := [], badWords := [], bank := [], l1 := [], tlb := [],
    asids := [], oldKeys := [], fwKey := 0, homeQ := [], bankQ := [], ringQ := [], copyReqs := [], faultQ := [], recWait := [], queues := [],
    launches := [], tasks := [], stealing := true, pops := [], module := none, domain := [], windows := [], access := [],
    ports := [], txs := [], outbox := [], scheds := [], colls := [], sillage := [], sets := [], accordBase := 0,
    accordLen := 0, accordBad := [], accordQ := [], accordReads := [], rebuilt := [], host := HostRegs.reset, power := Power.reset,
    fenced := [], glitches := [], chunkErrs := [], frames := [], freeFrames := [], accordPages := [], backing := [],
    fused := [], fwVersion := 0, fwMeasure := 0, images := [], tests := [] }

end Sys2Proof.Machine
end

