-- ==== Sys2Proof/Machine/Maps.lean ====
section
/-!
DEFINITION. The two sparse containers of the state: reading, writing and their canonical form; and the bytes of words,
pairs and lines (R3: byte 0 is the lowest address and holds the low bits).
-/
namespace Sys2Proof

/-! ## Tables -/

/-- The record under a key. -/
def Tab.find {α : Type} (m : Tab α) (k : Nat) : Option α :=
  match m with
  | [] => none
  | (a, v) :: r => if a = k then some v else Tab.find r k

/-- The table with a record under a key. -/
def Tab.put {α : Type} (m : Tab α) (k : Nat) (x : α) : Tab α :=
  match m with
  | [] => [(k, x)]
  | (a, v) :: r => if k < a then (k, x) :: (a, v) :: r else if a = k then (k, x) :: r else (a, v) :: Tab.put r k x

/-- The table without a key. -/
def Tab.del {α : Type} (m : Tab α) (k : Nat) : Tab α :=
  match m with
  | [] => []
  | (a, v) :: r => if a = k then Tab.del r k else (a, v) :: Tab.del r k

/-- The table with the record under a key, if there is one, changed. -/
def Tab.upd {α : Type} (m : Tab α) (k : Nat) (f : α → α) : Tab α :=
  match m with
  | [] => []
  | (a, v) :: r => if a = k then (a, f v) :: r else (a, v) :: Tab.upd r k f

/-- The table with every record changed. -/
def Tab.mapVal {α : Type} (m : Tab α) (f : Nat → α → α) : Tab α := m.map fun (k, v) => (k, f k v)

/-- The record under a key, or a default. -/
def Tab.getD {α : Type} (m : Tab α) (k : Nat) (d : α) : α :=
  match Tab.find m k with
  | some v => v
  | none => d

/-- Keys strictly rising. -/
def Tab.rising {α : Type} (m : Tab α) : Bool :=
  match m with
  | [] => true
  | (a, _) :: r => (match r with | [] => true | (b, _) :: _ => decide (a < b)) && Tab.rising r

/-! ## Stores -/

/-- The value under a key; an unlisted key reads 0. -/
def Store.read {w : Nat} (m : Store w) (k : Nat) : BitVec w := Tab.getD m k 0

/-- Writes the value under a key; writing 0 removes the entry. -/
def Store.write {w : Nat} (m : Store w) (k : Nat) (x : BitVec w) : Store w :=
  if x = 0 then Tab.del m k else Tab.put m k x

/-- The canonical form: keys strictly rising and no zero listed. -/
def Store.wf {w : Nat} (m : Store w) : Bool := Tab.rising m && m.all fun (_, v) => v != 0

/-- Writes values under consecutive keys. -/
def Store.writes {w : Nat} (m : Store w) (k : Nat) (l : List (BitVec w)) : Store w :=
  match l with
  | [] => m
  | x :: r => Store.writes (Store.write m k x) (k + 1) r

/-- Reads `n` values under consecutive keys. -/
def Store.reads {w : Nat} (m : Store w) (k n : Nat) : List (BitVec w) :=
  match n with
  | 0 => []
  | n + 1 => Store.read m k :: Store.reads m (k + 1) n

/-- Clears the keys from `k` up to `k + n`. -/
def Store.clear {w : Nat} (m : Store w) (k n : Nat) : Store w :=
  m.filter fun (a, _) => decide (a < k) || decide (k + n ≤ a)

/-- The canonical form of global memory. -/
def Machine.Memory.wf (m : List Host.Cell) : Bool := Store.wf (w := 8) m

/-! ## Bytes -/

/-- The first `n` bytes of a value, byte 0 first. -/
def bytesOf {w : Nat} (n : Nat) (x : BitVec w) : List Byte :=
  (List.range n).map fun i => x.extractLsb' (8 * i) 8

/-- The value of bytes, byte 0 lowest. -/
def natOf : List Byte → Nat
  | [] => 0
  | b :: r => b.toNat + 256 * natOf r

/-- The `w`-bit value of bytes. -/
def valOf (w : Nat) (l : List Byte) : BitVec w := BitVec.ofNat w (natOf l)

/-- The bytes of a number. -/
def natBytes : Nat → Nat → List Byte
  | 0, _ => []
  | n + 1, x => BitVec.ofNat 8 x :: natBytes n (x / 256)

/-- The `n` bytes of a line from offset `o`. -/
def Line.get (l : Line) (o n : Nat) : List Byte := natBytes n (l.toNat / 2 ^ (8 * o))

/-- The line with bytes written from offset `o`. -/
def Line.put (l : Line) (o : Nat) (b : List Byte) : Line :=
  let m := (2 ^ (8 * b.length) - 1) * 2 ^ (8 * o)
  (l &&& ~~~(BitVec.ofNat 512 m)) ||| BitVec.ofNat 512 (natOf b * 2 ^ (8 * o))

/-- The line of 64 bytes. -/
def Line.of (b : List Byte) : Line := BitVec.ofNat 512 (natOf b)

/-- Splits a list into words of `n` bytes. -/
def chunksOf {α : Type} (n : Nat) : Nat → List α → List (List α)
  | 0, _ => []
  | k + 1, l => if l.isEmpty then [] else l.take n :: chunksOf n k (l.drop n)

/-- The 32-bit words of bytes. -/
def wordsOf (l : List Byte) : List Word := (chunksOf 4 l.length l).map (valOf 32)

/-- The bytes of 32-bit words. -/
def bytesOfWords (l : List Word) : List Byte := l.flatMap (bytesOf 4)

/-- Little-endian field of a record: `n` bytes at `o` as a number. -/
def field (l : List Byte) (o n : Nat) : Nat := natOf ((l.drop o).take n)

/-- All of the bytes of a record from `o`, `n` of them, are 0. -/
def zeroField (l : List Byte) (o n : Nat) : Bool := decide (field l o n = 0)

/-- Two's complement value of the low `n` bits of a number. -/
def signedNat (n x : Nat) : Int :=
  let y := x % 2 ^ n
  if 2 * y < 2 ^ n then (y : Int) else (y : Int) - (2 ^ n : Nat)

/-- `x` limited to a range (R6). -/
def sat (x lo hi : Int) : Int := if x < lo then lo else if hi < x then hi else x

/-- Number of bits of a natural number, 0 for 0. -/
def bitlen (n : Nat) : Nat := if n = 0 then 0 else Nat.log2 n + 1

/-- The elements of a list without repeats, the first of each kept. -/
def dedup (l : List Nat) : List Nat :=
  l.foldl (fun acc x => if acc.contains x then acc else acc ++ [x]) []

/-- The index-th element of a list and the rest, for lists used as queues. -/
def dropAt {α : Type} : List α → Nat → List α
  | [], _ => []
  | _ :: r, 0 => r
  | x :: r, n + 1 => x :: dropAt r n

/-- Insertion of a number into a rising list. -/
def insertNat (k : Nat) : List Nat → List Nat
  | [] => [k]
  | a :: r => if k < a then k :: a :: r else if k = a then a :: r else a :: insertNat k r

/-- A list of numbers in rising order without repeats. -/
def sortNat (l : List Nat) : List Nat := l.foldl (fun acc x => insertNat x acc) []

end Sys2Proof
end

