-- ==== Sys2Proof/Machine/Flags.lean ====
section
/-!
DEFINITION. The status bits (Table 2-5) and the rounding of exact values, with the flags it raises (R13 to R15, R39).
-/
namespace Sys2Proof

/-- IV: invalid operation. -/
abbrev flagIV : Word := 0x1
/-- DZ: division by zero. -/
abbrev flagDZ : Word := 0x2
/-- OF: overflow. -/
abbrev flagOF : Word := 0x4
/-- UF: underflow. -/
abbrev flagUF : Word := 0x8
/-- NX: inexact. -/
abbrev flagNX : Word := 0x10
/-- SAT: an integer result was saturated. -/
abbrev flagSAT : Word := 0x20
/-- MNX: matrix inexact. -/
abbrev flagMNX : Word := 0x100
/-- MOF: matrix overflow. -/
abbrev flagMOF : Word := 0x200
/-- CKSKIP: a checksum comparison was skipped. -/
abbrev flagCKSKIP : Word := 0x400

/-- The status bits that exist (Table 2-5). -/
abbrev statusBits : Word := 0x73f

/-- A flag when a condition holds. -/
def flagIf (c : Bool) (f : Word) : Word := if c then f else 0

/-- A floating-point datum: a NaN (signalling or quiet), an infinity, or `(-1)^s * m * 2^e`. -/
inductive FVal where
  | nan (sig : Bool)
  | inf (s : Bool)
  | fin (s : Bool) (m : Nat) (e : Int)
  deriving DecidableEq, Repr

/-- A binary format with IEEE infinities: precision `p` and exponent bits. -/
structure Fmt where
  p : Nat
  ebits : Nat
  deriving DecidableEq, Repr

/-- FP32 (R13). -/
def Fmt.fp32 : Fmt := { p := 24, ebits := 8 }
/-- BF16 (R14). -/
def Fmt.bf16 : Fmt := { p := 8, ebits := 8 }
/-- E5M2 (R115). -/
def Fmt.e5m2 : Fmt := { p := 3, ebits := 5 }
/-- E4M3's finite part (R115): no infinities, largest exponent field used by numbers. -/
def Fmt.e4m3 : Fmt := { p := 4, ebits := 4 }

/-- Exponent bias. -/
def Fmt.bias (f : Fmt) : Int := 2 ^ (f.ebits - 1) - 1
/-- Exponent of the last place of a subnormal. -/
def Fmt.emin (f : Fmt) : Int := 2 - f.bias - f.p
/-- Bits of the exponent and fraction of the canonical quiet NaN. -/
def Fmt.qnan (f : Fmt) : Nat := (2 ^ f.ebits - 1) * 2 ^ (f.p - 1) + 2 ^ (f.p - 2)
/-- Bits of infinity without its sign. -/
def Fmt.infBits (f : Fmt) : Nat := (2 ^ f.ebits - 1) * 2 ^ (f.p - 1)
/-- Weight of the sign bit. -/
def Fmt.signBit (f : Fmt) (s : Bool) : Nat := if s then 2 ^ (f.ebits + f.p - 1) else 0

/-- The datum of a bit pattern in an IEEE-like format. -/
def Fmt.decode (f : Fmt) (bits : Nat) : FVal :=
  let s := decide (bits / 2 ^ (f.ebits + f.p - 1) % 2 = 1)
  let x := bits / 2 ^ (f.p - 1) % 2 ^ f.ebits
  let m := bits % 2 ^ (f.p - 1)
  if x = 2 ^ f.ebits - 1 then
    if m = 0 then .inf s else .nan (decide (m / 2 ^ (f.p - 2) = 0))
  else if x = 0 then .fin s m f.emin
  else .fin s (2 ^ (f.p - 1) + m) (f.emin + x - 1)

/-- A rounded result with its flags. -/
structure FOut where
  bits : Nat
  flags : Word
  deriving DecidableEq, Repr

/-- Whether an increment follows truncation: mode, sign, last kept bit odd, discarded part against half, inexact. -/
def roundsUp (r : Rnd) (s odd : Bool) (c : Ordering) (inexact : Bool) : Bool :=
  match r with
  | .rn => c == .gt || (c == .eq && odd)
  | .rz => false
  | .ru => inexact && !s
  | .rd => inexact && s

/-- `m * 2^e` with a further positive part below `2^e` when `sticky`, cut at `2^q` and rounded: the integer in units of
`2^q`, and whether it is inexact.  A `sticky` value is given with more bits than are kept. -/
def cutAt (r : Rnd) (s : Bool) (m : Nat) (e : Int) (sticky : Bool) (q : Int) : Nat × Bool :=
  if q ≤ e then (m * 2 ^ (e - q).toNat, sticky)
  else
    let sh := (q - e).toNat
    if bitlen m + 1 < sh then
      let ix := decide (m ≠ 0) || sticky
      ((if roundsUp r s false .lt ix then 1 else 0), ix)
    else
      let k := m / 2 ^ sh
      let rem := m % 2 ^ sh
      let half := 2 ^ (sh - 1)
      let c : Ordering := if rem < half then .lt else if rem = half then (if sticky then .gt else .eq) else .gt
      let ix := decide (rem ≠ 0) || sticky
      ((if roundsUp r s (k % 2 == 1) c ix then k + 1 else k), ix)

/-- The result of an overflow in a mode (R102): infinity or the largest finite value. -/
def Fmt.overflow (f : Fmt) (r : Rnd) (s : Bool) : Nat :=
  match r, s with
  | .rn, _ => f.infBits
  | .rz, _ => f.infBits - 1
  | .ru, false => f.infBits
  | .ru, true => f.infBits - 1
  | .rd, true => f.infBits
  | .rd, false => f.infBits - 1

/-- Rounds `(-1)^s * m * 2^e` (with its sticky part) once to a format, `m` not 0: the bits and OF, UF and NX, tininess
detected after rounding (R39). -/
def Fmt.round (f : Fmt) (r : Rnd) (s : Bool) (m : Nat) (e : Int) (sticky : Bool) : FOut :=
  let top : Int := e + bitlen m
  -- exponent of the last place that the format gives the value
  let q : Int := max (top - f.p) f.emin
  if top > f.bias + 2 then ⟨f.signBit s + f.overflow r s, flagOF ||| flagNX⟩
  else
    let (k0, ix) := cutAt r s m e sticky q
    let carry := decide (k0 = 2 ^ f.p)
    let k := if carry then 2 ^ (f.p - 1) else k0
    let q := if carry then q + 1 else q
    let x : Int := if k < 2 ^ (f.p - 1) then 0 else q - f.emin + 1
    if x ≥ 2 ^ f.ebits - 1 then ⟨f.signBit s + f.overflow r s, flagOF ||| flagNX⟩
    else
      let bits := if k < 2 ^ (f.p - 1) then k else x.toNat * 2 ^ (f.p - 1) + (k - 2 ^ (f.p - 1))
      -- tiny: rounded with an unbounded exponent, the magnitude stays below the smallest normal number
      let tiny : Bool :=
        decide (top < 1 - f.bias) ||
          (decide (top = 1 - f.bias) && decide ((cutAt r s m e sticky (top - f.p)).1 < 2 ^ f.p))
      ⟨f.signBit s + bits, flagIf ix flagNX ||| flagIf (ix && tiny) flagUF⟩

/-- A zero with a sign. -/
def Fmt.zero (f : Fmt) (s : Bool) : FOut := ⟨f.signBit s, 0⟩

/-- The canonical NaN, with IV when it arises from an invalid operation (R15). -/
def Fmt.nanOut (f : Fmt) (iv : Bool) : FOut := ⟨f.qnan, flagIf iv flagIV⟩

/-- An infinity. -/
def Fmt.infOut (f : Fmt) (s : Bool) : FOut := ⟨f.signBit s + f.infBits, 0⟩

/-- Rounds a signed integer multiple of `2^e`; an exact zero takes the sign given. -/
def Fmt.roundInt (f : Fmt) (r : Rnd) (x : Int) (e : Int) (zs : Bool) : FOut :=
  if x = 0 then f.zero zs else f.round r (decide (x < 0)) x.natAbs e false

/-- Rounds a finite value; NaN and infinity give themselves. -/
def Fmt.ofVal (f : Fmt) (r : Rnd) (v : FVal) : FOut :=
  match v with
  | .nan sig => f.nanOut sig
  | .inf s => f.infOut s
  | .fin s m e => if m = 0 then f.zero s else f.round r s m e false

/-- round_rne of `m * 2^e` to an integer (R6), magnitude only. -/
def rneNat (m : Nat) (e : Int) : Nat := (cutAt .rn false m e false 0).1

/-- round_rne of a signed multiple of `2^e` to an integer. -/
def rneInt (x : Int) (e : Int) : Int :=
  if x < 0 then -(rneNat x.natAbs e : Int) else (rneNat x.natAbs e : Int)

/-- round_rne of a quotient of naturals, divisor not 0. -/
def rneDiv (a b : Nat) : Nat :=
  let q := a / b
  let r := a % b
  if 2 * r < b then q else if b < 2 * r then q + 1 else if q % 2 = 1 then q + 1 else q

end Sys2Proof
end

