-- ==== Sys2Proof/Machine/Float.lean ====
section
/-!
DEFINITION. Floating-point arithmetic on bits: sums, products, quotients and roots rounded once (R102 to R111), BF16
(R108, R109), compares (R116), conversions (R112 to R115), reductions (R127) and block elements.
-/
namespace Sys2Proof

/-- The datum of an FP32 register. -/
def fp32 (x : Word) : FVal := Fmt.fp32.decode x.toNat

/-- The datum of a BF16 element. -/
def bf16 (x : BitVec 16) : FVal := Fmt.bf16.decode x.toNat

/-- A NaN of either kind. -/
def FVal.isNan : FVal → Bool
  | .nan _ => true
  | _ => false

/-- A signalling NaN. -/
def FVal.isSig : FVal → Bool
  | .nan s => s
  | _ => false

/-- An infinity. -/
def FVal.isInf : FVal → Bool
  | .inf _ => true
  | _ => false

/-- A zero. -/
def FVal.isZero : FVal → Bool
  | .fin _ m _ => m == 0
  | _ => false

/-- Neither a NaN nor an infinity. -/
def FVal.isFin : FVal → Bool
  | .fin _ _ _ => true
  | _ => false

/-- The sign; a NaN counts as positive. -/
def FVal.sign : FVal → Bool
  | .nan _ => false
  | .inf s => s
  | .fin s _ _ => s

/-- With the sign inverted. -/
def FVal.neg : FVal → FVal
  | .nan g => .nan g
  | .inf s => .inf (!s)
  | .fin s m e => .fin (!s) m e

/-- The exponent of a datum as far as a sum needs it. -/
def FVal.exp : FVal → Option Int
  | .fin _ m e => if m = 0 then none else some e
  | _ => none

/-- The smallest exponent among non-zero finite data. -/
def minExp (l : List FVal) : Int :=
  match l.filterMap FVal.exp with
  | [] => 0
  | e :: r => r.foldl min e

/-- A finite datum as an integer multiple of `2^e0`, `e0` not above its exponent. -/
def FVal.toInt (v : FVal) (e0 : Int) : Int :=
  match v with
  | .fin s m e => if m = 0 then 0 else (if s then -1 else 1) * ((m * 2 ^ (e - e0).toNat : Nat) : Int)
  | _ => 0

/-- The exact sum of data rounded once (R102, R109, R127): NaN operands, infinities of both signs, exact zero sums.
`iv` says that forming a term was invalid. -/
def fsum (f : Fmt) (r : Rnd) (iv : Bool) (l : List FVal) : FOut :=
  let sig := l.any FVal.isSig
  let pinf := l.any fun v => v.isInf && !v.sign
  let ninf := l.any fun v => v.isInf && v.sign
  if l.any FVal.isNan || iv then f.nanOut (sig || iv || (pinf && ninf))
  else if pinf && ninf then f.nanOut true
  else if pinf then f.infOut false
  else if ninf then f.infOut true
  else
    let e0 := minExp l
    let x := (l.map fun v => v.toInt e0).foldl (· + ·) 0
    let zs := if l.all FVal.isZero then
        (if l.all FVal.sign then true else if l.all (fun v => !v.sign) then false else r == .rd)
      else r == .rd
    f.roundInt r x e0 zs

/-- The exact product of two data, and whether forming it is invalid (0 times infinity). -/
def fprod (a b : FVal) : FVal × Bool :=
  match a, b with
  | .nan g, .nan h => (.nan (g || h), false)
  | .nan g, _ => (.nan g, false)
  | _, .nan g => (.nan g, false)
  | .inf s, .inf t => (.inf (s != t), false)
  | .inf s, .fin t m _ => if m = 0 then (.nan false, true) else (.inf (s != t), false)
  | .fin s m _, .inf t => if m = 0 then (.nan false, true) else (.inf (s != t), false)
  | .fin s m e, .fin t n g => (.fin (s != t) (m * n) (e + g), false)

/-- `a + b` (R102). -/
def fadd (f : Fmt) (r : Rnd) (a b : FVal) : FOut := fsum f r false [a, b]

/-- `a - b` (R102). -/
def fsub (f : Fmt) (r : Rnd) (a b : FVal) : FOut := fsum f r false [a, b.neg]

/-- `a * b` (R102). -/
def fmul (f : Fmt) (r : Rnd) (a b : FVal) : FOut :=
  let (p, iv) := fprod a b
  if iv then f.nanOut true else f.ofVal r p

/-- `a * b + c`, rounded once (R102). -/
def ffma (f : Fmt) (r : Rnd) (a b c : FVal) : FOut :=
  let (p, iv) := fprod a b
  fsum f r iv [p, c]

/-- The two-term dot product added to `d` (R109). -/
def fdot (f : Fmt) (r : Rnd) (a0 b0 a1 b1 d : FVal) : FOut :=
  let (p, i) := fprod a0 b0
  let (q, j) := fprod a1 b1
  fsum f r (i || j) [p, q, d]

/-- `a / b` (R102). -/
def fdiv (f : Fmt) (r : Rnd) (a b : FVal) : FOut :=
  match a, b with
  | .nan g, v => f.nanOut (g || v.isSig)
  | _, .nan g => f.nanOut g
  | .inf _, .inf _ => f.nanOut true
  | .inf s, .fin t _ _ => f.infOut (s != t)
  | .fin s _ _, .inf t => f.zero (s != t)
  | .fin s m e, .fin t n g =>
    if n = 0 then
      if m = 0 then f.nanOut true else ⟨(f.infOut (s != t)).bits, flagDZ⟩
    else if m = 0 then f.zero (s != t)
    else f.round r (s != t) (m * 2 ^ 80 / n) (e - g - 80) (decide (m * 2 ^ 80 % n ≠ 0))

/-- Integer square root, bit by bit from bit `k - 1`: the largest `r` with `r * r ≤ n` below `2^k`. -/
def isqrt (n : Nat) : Nat → Nat → Nat
  | 0, r => r
  | k + 1, r =>
    let c := r + 2 ^ k
    isqrt n k (if c * c ≤ n then c else r)

/-- Reciprocal, square root and reciprocal square root (R104), to nearest even. -/
def frcp (g : FrcpF) (a : FVal) : FOut :=
  let f := Fmt.fp32
  match g, a with
  | _, .nan sig => f.nanOut sig
  | .rcp, .inf s => f.zero s
  | .rcp, .fin s m e =>
    if m = 0 then ⟨(f.infOut s).bits, flagDZ⟩
    else f.round .rn s (2 ^ 80 / m) (-e - 80) (decide (2 ^ 80 % m ≠ 0))
  | .sqrt, .inf s => if s then f.nanOut true else f.infOut false
  | .sqrt, .fin s m e =>
    if m = 0 then f.zero s
    else if s then f.nanOut true
    else
      -- an even exponent, then 64 more bits of the radicand
      let (m, e) := if e % 2 = 0 then (m, e) else (2 * m, e - 1)
      let n := m * 2 ^ 64
      let q := isqrt n 48 0
      f.round .rn false q (e / 2 - 32) (decide (q * q ≠ n))
  | .rsqrt, .inf s => if s then f.nanOut true else f.zero false
  | .rsqrt, .fin s m e =>
    if m = 0 then ⟨(f.infOut s).bits, flagDZ⟩
    else if s then f.nanOut true
    else
      let (m, e) := if e % 2 = 0 then (m, e) else (2 * m, e - 1)
      let n := 2 ^ 120 / m
      let q := isqrt n 61 0
      f.round .rn false q (-(e / 2) - 60) (decide (q * q * m ≠ 2 ^ 120))

/-- `a * 2^b` (R106). -/
def fscl (r : Rnd) (a : FVal) (b : Int) : FOut :=
  match a with
  | .fin s m e => Fmt.fp32.ofVal r (.fin s m (e + b))
  | v => Fmt.fp32.ofVal r v

/-- The one-hot class mask (R107). -/
def fcls (x : Word) : Word :=
  match fp32 x with
  | .nan sig => if sig then 0x1 else 0x2
  | .inf s => if s then 0x4 else 0x200
  | .fin s m _ =>
    if m = 0 then (if s then 0x20 else 0x40)
    else if m < 2 ^ 23 then (if s then 0x10 else 0x80)
    else (if s then 0x8 else 0x100)

/-- Order of two numbers with -0 below +0 (R103): `a` is below `b`. -/
def FVal.below (a b : FVal) : Bool :=
  match a, b with
  | .inf s, .inf t => s && !t
  | .inf s, _ => s
  | _, .inf t => !t
  | .fin s m e, .fin t n g =>
    let l := [FVal.fin s m e, FVal.fin t n g]
    let e0 := minExp l
    let x := (FVal.fin s m e).toInt e0
    let y := (FVal.fin t n g).toInt e0
    decide (x < y) || (decide (x = y) && s && !t)
  | _, _ => false

/-- The operations of R103 on bits: minimum, maximum, minimumNumber, maximumNumber. -/
def fmnx (g : FmnxF) (x y : Word) : FOut :=
  let a := fp32 x
  let b := fp32 y
  let fl := flagIf (a.isSig || b.isSig) flagIV
  let pick := match g with
    | .min | .minnum => if FVal.below b a then y else x
    | .max | .maxnum => if FVal.below a b then y else x
  match g with
  | .min | .max => if a.isNan || b.isNan then ⟨Fmt.fp32.qnan, fl⟩ else ⟨pick.toNat, fl⟩
  | .minnum | .maxnum =>
    if a.isNan && b.isNan then ⟨Fmt.fp32.qnan, fl⟩
    else if a.isNan then ⟨y.toNat, fl⟩
    else if b.isNan then ⟨x.toNat, fl⟩
    else ⟨pick.toNat, fl⟩

/-- Sign operations on bits (R110). -/
def fsgn (g : FsgnF) (a b : Word) : Word :=
  match g with
  | .neg => a ^^^ 0x8000_0000
  | .abs => a &&& 0x7fff_ffff
  | .copysign => (a &&& 0x7fff_ffff) ||| (b &&& 0x8000_0000)
  | .negabs => a ||| 0x8000_0000

/-- The rounding mode of a direction of `frnd`. -/
def FrndF.mode : FrndF → Rnd
  | .rne => .rn
  | .trunc => .rz
  | .ceil => .ru
  | .floor => .rd

/-- Rounds to an integral FP32 value (R111). -/
def frnd (g : FrndF) (a : FVal) : FOut :=
  match a with
  | .fin s m e =>
    let k := (cutAt g.mode s m e false 0).1
    if 0 ≤ e then Fmt.fp32.ofVal .rn (.fin s m e)
    else if k = 0 then Fmt.fp32.zero s
    else ⟨(Fmt.fp32.round .rn s k 0 false).bits, 0⟩
  | v => Fmt.fp32.ofVal .rn v

/-- An element-wise BF16 operation on packed words; the flags are ORed (R108). -/
def packed2 (x0 x1 : FOut) : FOut :=
  ⟨x1.bits % 65536 * 65536 + x0.bits % 65536, x0.flags ||| x1.flags⟩

/-- Element 0 of a packed BF16 word. -/
def lo16 (x : Word) : FVal := bf16 (x.extractLsb' 0 16)
/-- Element 1 of a packed BF16 word. -/
def hi16 (x : Word) : FVal := bf16 (x.extractLsb' 16 16)

/-- Whether an FP compare relation holds (Table 5-5). -/
def fcmp (g : FcmpF) (x y : Word) : Bool :=
  let a := fp32 x
  let b := fp32 y
  let nan := a.isNan || b.isNan
  let eq := !nan && ((a.isZero && b.isZero) || x == y)
  let lt := !nan && !eq && FVal.below a b
  let gt := !nan && !eq && FVal.below b a
  match g with
  | .eq => eq
  | .ne => !eq
  | .lt => lt
  | .le => lt || eq
  | .gt => gt
  | .ge => gt || eq
  | .un => nan
  | .ord => !nan

/-- The flags of a compare: only a signalling NaN raises IV (R116). -/
def fcmpFlags (x y : Word) : Word := flagIf ((fp32 x).isSig || (fp32 y).isSig) flagIV

/-! ## Conversions (R112 to R115) -/

/-- FP32 to an integer of `n` bits, signed or not: the value's two's complement and the flags (R113). -/
def toInteger (r : Rnd) (n : Nat) (signed : Bool) (v : FVal) : Nat × Word :=
  let lo : Int := if signed then -(2 ^ (n - 1)) else 0
  let hi : Int := if signed then 2 ^ (n - 1) - 1 else 2 ^ n - 1
  let enc (x : Int) : Nat := (x % (2 ^ n : Int)).toNat
  match v with
  | .nan _ => (0, flagIV)
  | .inf s => (enc (if s then lo else hi), flagIV ||| flagSAT)
  | .fin s m e =>
    if 0 < e + bitlen m - 65 then (enc (if s then lo else hi), flagIV ||| flagSAT)
    else
      let (k, ix) := cutAt r s m e false 0
      let x : Int := if s then -(k : Int) else k
      if x < lo then (enc lo, flagIV ||| flagSAT)
      else if hi < x then (enc hi, flagIV ||| flagSAT)
      else (enc x, flagIf ix flagNX)

/-- An integer to FP32: NX and nothing else (R114). -/
def fromInteger (r : Rnd) (x : Int) : FOut :=
  if x = 0 then ⟨0, 0⟩ else Fmt.fp32.round r (decide (x < 0)) x.natAbs 0 false

/-- FP32 to BF16 (R114). -/
def toBf16 (r : Rnd) (v : FVal) : FOut := Fmt.bf16.ofVal r v

/-- BF16 to FP32 (R14): exact, a NaN becomes the canonical NaN with IV when it is signalling. -/
def fromBf16 (x : BitVec 16) : FOut :=
  match bf16 x with
  | .nan sig => Fmt.fp32.nanOut sig
  | _ => ⟨x.toNat * 65536, 0⟩

/-- FP32 to E4M3 (R115). -/
def toE4m3 (r : Rnd) (v : FVal) : FOut :=
  let sgn (s : Bool) : Nat := if s then 0x80 else 0
  match v with
  | .nan sig => ⟨0x7f, flagIf sig flagIV⟩
  | .inf s => ⟨sgn s + 0x7e, flagOF ||| flagNX⟩
  | .fin s m e =>
    if m = 0 then ⟨sgn s, 0⟩
    else
      -- the last place: 3 fraction bits, at least 2^-9
      let top : Int := e + bitlen m
      if top > 20 then ⟨sgn s + 0x7e, flagOF ||| flagNX⟩
      else
        let q : Int := max (top - 4) (-9)
        let (k0, ix) := cutAt r s m e false q
        let (k, q) := if k0 = 16 then (8, q + 1) else (k0, q)
        -- the rounded magnitude is k * 2^q; 448 = 14 * 2^5
        if q > 5 || (q = 5 && k > 14) then ⟨sgn s + 0x7e, flagOF ||| flagNX⟩
        else
          let bits := if k < 8 then k else ((q + 10) * 8 + (k - 8)).toNat
          let tiny : Bool := decide (top < -6) || (decide (top = -6) && decide ((cutAt r s m e false (top - 4)).1 < 16))
          ⟨sgn s + bits, flagIf ix flagNX ||| flagIf (ix && tiny) flagUF⟩

/-- E4M3 to FP32 (R115): exact; the NaN codes are 0x7F and 0xFF. -/
def fromE4m3 (x : BitVec 8) : FOut :=
  let n := x.toNat % 128
  let s := x.getLsbD 7
  if n = 127 then ⟨Fmt.fp32.qnan, 0⟩
  else
    let ex := n / 8
    let m := n % 8
    if ex = 0 then Fmt.fp32.ofVal .rn (.fin s m (-9)) else Fmt.fp32.ofVal .rn (.fin s (8 + m) ((ex : Int) - 10))

/-- FP32 to E5M2 (R115). -/
def toE5m2 (r : Rnd) (v : FVal) : FOut := Fmt.e5m2.ofVal r v

/-- E5M2 to FP32 (R115). -/
def fromE5m2 (x : BitVec 8) : FOut := Fmt.fp32.ofVal .rn (Fmt.e5m2.decode x.toNat)

/-! ## Quantities that the manual writes with `round_rne` -/

/-- A cell's value or another multiple of a power of two as FP32 with its flags. -/
def intToFp32 (x : Int) (e : Int) : FOut := Fmt.fp32.roundInt .rn x e false

/-- round_rne(x / 2^s) of a finite FP32 value (R35, R302). -/
def quantise (v : FVal) (s : Int) : Int :=
  match v with
  | .fin sg m e => if sg then -(rneNat m (e - s) : Int) else (rneNat m (e - s) : Int)
  | _ => 0

end Sys2Proof
end

