-- ==== Sys2Proof/Machine/Trans.lean ====
section
/-!
DEFINITION. Correctly rounded exp2, exp, log2 and log (R105), and the exponentials and logarithms of the resample (R309,
R311).

A real value is enclosed between two integers in units of `2^-P`.  A result that the manual rounds is irrational unless
an exact case has been taken first, so both ends of a narrow enough enclosure round alike; `P` is doubled until they do.
-/
namespace Sys2Proof

/-- An enclosure: the real value lies between `lo` and `hi` in units of `2^-P`. -/
structure Encl where
  lo : Int
  hi : Int
  deriving DecidableEq, Repr

/-- Sum of two enclosures. -/
def Encl.add (a b : Encl) : Encl := ⟨a.lo + b.lo, a.hi + b.hi⟩

/-- An integer multiple of an enclosure. -/
def Encl.mulInt (a : Encl) (k : Int) : Encl := if 0 ≤ k then ⟨a.lo * k, a.hi * k⟩ else ⟨a.hi * k, a.lo * k⟩

/-- Terms of a series of positive terms from below: `x^(2k+1) / (2k+1)` summed, each step rounded down.  `z` and `z2` are
`x` and `x*x` in units of `2^-P`. -/
def atanhLo (P : Nat) (z2 : Nat) : Nat → Nat → Nat → Nat
  | 0, _, _ => 0
  | n + 1, k, t => t / (2 * k + 1) + atanhLo P z2 n (k + 1) (t * z2 / 2 ^ P)

/-- The same from above, each step rounded up; the tail is below twice the last power for `x ≤ 1/2`. -/
def atanhHi (P : Nat) (z2 : Nat) : Nat → Nat → Nat → Nat
  | 0, _, t => 2 * t + 2
  | n + 1, k, t => t / (2 * k + 1) + 1 + atanhHi P z2 n (k + 1) (t * z2 / 2 ^ P + 1)

/-- Twice the inverse hyperbolic tangent of `a / b`, `0 ≤ 2 * a ≤ b`. -/
def atanh2 (P a b : Nat) : Encl :=
  let lo := a * 2 ^ P / b
  let hi := lo + 1
  let l := atanhLo P (lo * lo / 2 ^ P) (P / 2 + 4) 0 lo
  let h := atanhHi P (hi * hi / 2 ^ P + 1) (P / 2 + 4) 0 hi
  ⟨2 * l, 2 * h⟩

/-- ln 2. -/
def ln2 (P : Nat) : Encl := atanh2 P 1 3

/-- ln of a positive rational `m * 2^e`. -/
def lnEncl (P m : Nat) (e : Int) : Encl :=
  let k := bitlen m - 1
  -- m * 2^e = (m / 2^k) * 2^(e + k), the first factor in [1, 2)
  let y := atanh2 P (m - 2 ^ k) (m + 2 ^ k)
  y.add ((ln2 P).mulInt (e + k))

/-- Taylor terms of exp from below: `t` is the current term. -/
def expLo (P x : Nat) : Nat → Nat → Nat → Nat
  | 0, _, _ => 0
  | n + 1, k, t => t + expLo P x n (k + 1) (t * x / (2 ^ P * (k + 1)))

/-- Taylor terms of exp from above; the tail is below twice the last term once `x ≤ k / 2`. -/
def expHi (P x : Nat) : Nat → Nat → Nat → Nat
  | 0, _, t => 2 * t + 2
  | n + 1, k, t => t + expHi P x n (k + 1) (t * x / (2 ^ P * (k + 1)) + 1)

/-- exp of an enclosed argument as an enclosure times `2^k`: `(e, k)`. -/
def expEncl (P : Nat) (x : Encl) : Encl × Int :=
  let l := ln2 P
  let k := x.lo / l.hi - 1
  let r := x.add (l.mulInt (-k))
  -- r lies between 0 and 3, so P / 2 + 16 terms leave a tail below the last of them
  (⟨expLo P r.lo.toNat (P / 2 + 16) 0 (2 ^ P), expHi P (r.hi.toNat + 1) (P / 2 + 16) 0 (2 ^ P)⟩, k)

/-- `x * 2^e` in units of `2^-P`, enclosed. -/
def scaleEncl (P : Nat) (x : Int) (e : Int) : Encl :=
  let s := e + P
  if 0 ≤ s then ⟨x * 2 ^ s.toNat, x * 2 ^ s.toNat⟩
  else ⟨x / 2 ^ (-s).toNat, x / 2 ^ (-s).toNat + 1⟩

/-- Rounds an enclosed irrational times `2^k` when both ends agree. -/
def roundEncl (P : Nat) (x : Encl) (k : Int) : Option FOut :=
  if x.lo ≤ 0 && 0 ≤ x.hi then none
  else
    let s := decide (x.hi < 0)
    let a := min x.lo.natAbs x.hi.natAbs
    let b := max x.lo.natAbs x.hi.natAbs - 1
    if bitlen a < 30 then none
    else
      let u := Fmt.fp32.round .rn s a (k - P) true
      let v := Fmt.fp32.round .rn s b (k - P) true
      if u = v then some u else none

/-- Tries rising precisions. -/
def ziv (g : Nat → Option FOut) : List Nat → FOut
  | [] => ⟨Fmt.fp32.qnan, 0⟩
  | p :: r =>
    match g p with
    | some x => x
    | none => ziv g r

/-- The precisions tried. -/
def precisions : List Nat := [64, 128, 256, 512, 1024]

/-- exp of a finite non-zero value `s * m * 2^e` (R105). -/
def expFin (s : Bool) (m : Nat) (e : Int) : FOut :=
  let f := Fmt.fp32
  if e + bitlen m > 8 then
    -- the magnitude is at least 2^8, beyond every result of FP32
    if s then f.round .rn false 1 (-400) false else f.round .rn false 1 400 false
  else if e + bitlen m < -40 then
    -- the magnitude is below 2^-40: the result lies strictly between 1 and its neighbour
    if s then f.round .rn false (2 ^ 40 - 1) (-40) true else f.round .rn false (2 ^ 40) (-40) true
  else
    let x : Int := if s then -(m : Int) else m
    ziv (fun P => let (y, k) := expEncl P (scaleEncl P x e); roundEncl P y k) precisions

/-- exp2 of a finite non-zero value (R105). -/
def exp2Fin (s : Bool) (m : Nat) (e : Int) : FOut :=
  let f := Fmt.fp32
  if e + bitlen m > 9 then
    if s then f.round .rn false 1 (-400) false else f.round .rn false 1 400 false
  else if e + bitlen m < -40 then
    if s then f.round .rn false (2 ^ 40 - 1) (-40) true else f.round .rn false (2 ^ 40) (-40) true
  else
    let x : Int := if s then -(m : Int) else m
    let n : Int := if 0 ≤ e then x * 2 ^ e.toNat else x / 2 ^ (-e).toNat
    if 0 ≤ e || n * 2 ^ (-e).toNat = x then f.round .rn false 1 n false
    else
      ziv (fun P =>
        let fr : Int := x - n * 2 ^ (-e).toNat
        let l := ln2 P
        let arg : Encl := ⟨l.lo * fr / 2 ^ (-e).toNat, l.hi * fr / 2 ^ (-e).toNat + 1⟩
        let (y, k) := expEncl P arg
        roundEncl P y (k + n)) precisions

/-- ln or log2 of a finite positive value `m * 2^e` (R105). -/
def logFin (base2 : Bool) (m : Nat) (e : Int) : FOut :=
  let k := bitlen m - 1
  if m = 2 ^ k && (base2 || e + k = 0) then
    -- a power of two under log2, or 1 under ln: exact
    Fmt.fp32.roundInt .rn (e + k) 0 false
  else
    ziv (fun P =>
      let y := lnEncl P m e
      if base2 then
        let l := ln2 P
        -- quotient of enclosures, l positive
        let q (a b : Int) : Int := a * 2 ^ P / b
        let lo := min (q y.lo l.lo) (q y.lo l.hi)
        let hi := max (q y.hi l.lo) (q y.hi l.hi) + 1
        roundEncl P ⟨lo, hi⟩ 0
      else roundEncl P y 0) precisions

/-- `fex` (R105). -/
def fex (g : FexF) (a : FVal) : FOut :=
  let f := Fmt.fp32
  match g, a with
  | _, .nan sig => f.nanOut sig
  | .exp2, .inf s => if s then f.zero false else f.infOut false
  | .exp, .inf s => if s then f.zero false else f.infOut false
  | .log2, .inf s => if s then f.nanOut true else f.infOut false
  | .log, .inf s => if s then f.nanOut true else f.infOut false
  | .exp2, .fin s m e => if m = 0 then ⟨0x3f800000, 0⟩ else exp2Fin s m e
  | .exp, .fin s m e => if m = 0 then ⟨0x3f800000, 0⟩ else expFin s m e
  | .log2, .fin s m e =>
    if m = 0 then ⟨(f.infOut true).bits, flagDZ⟩ else if s then f.nanOut true else logFin true m e
  | .log, .fin s m e =>
    if m = 0 then ⟨(f.infOut true).bits, flagDZ⟩ else if s then f.nanOut true else logFin false m e

/-! ## The resample's functions -/

/-- Rounds an enclosed value to an integer in units of `2^-s` when both ends agree. -/
def rneEncl (P s : Nat) (x : Encl) : Option Int :=
  let u := rneInt x.lo (s - P : Int)
  let v := rneInt x.hi (s - P : Int)
  if u = v then some u else none

/-- Tries rising precisions for an integer. -/
def zivInt (g : Nat → Option Int) : List Nat → Int
  | [] => 0
  | p :: r =>
    match g p with
    | some x => x
    | none => zivInt g r

/-- `round_rne(2^31 * exp(d / 2^32))` for `d ≤ 0` (R309). -/
def resampleWeight (d : Int) : Nat :=
  if 0 ≤ d then 2 ^ 31
  else if d < -(40 * 2 ^ 32) then 0
  else
    (zivInt (fun P =>
      let (y, k) := expEncl P (scaleEncl P d (-32))
      -- y * 2^k * 2^31 to an integer
      let u := rneInt y.lo (k + 31 - P)
      let v := rneInt y.hi (k + 31 - P)
      if u = v then some u else none) precisions).toNat

/-- `round_rne(2^32 * (x / 2^32 + ln a - ln b - 31 * ln 2))` (R311), `a` and `b` positive. -/
def resampleLog (x : Int) (a b : Nat) : Int :=
  if a = b * 2 ^ 31 then x
  else
    zivInt (fun P =>
      let y := (lnEncl P a 0).add (((lnEncl P b 0).mulInt (-1)).add ((ln2 P).mulInt (-31)))
      rneEncl P 32 (y.add (scaleEncl P x (-32)))) precisions

end Sys2Proof
end

