-- ==== Sys2Proof/Machine/Blocks.lean ====
section
/-!
DEFINITION. Storage formats and exact sums: self-describing blocks and their packing (R18 to R26), the chunk adder and its
checksum (R27 to R33, R387), accumulation cells (R34 to R37), the operations performed at a home (R252 to R259), register
line packing (R217) and the counter-based generator (R313).
-/
namespace Sys2Proof

/-! ## CRC-32C (R22) -/

/-- One bit step of the reflected CRC. -/
def crcBit (c : Word) : Word := if c.getLsbD 0 then (c >>> 1) ^^^ 0x82f63b78 else c >>> 1

/-- `n` bit steps. -/
def crcBits : Nat → Word → Word
  | 0, c => c
  | n + 1, c => crcBits n (crcBit c)

/-- CRC-32C of bytes. -/
def crc32c (l : List Byte) : Word :=
  (l.foldl (fun c b => crcBits 8 (c ^^^ b.zeroExtend 32)) 0xffffffff) ^^^ 0xffffffff

/-! ## Blocks -/

/-- A block format (Table 2-2). -/
structure BlkFmt where
  code : Nat
  /-- magnitude bits -/
  m : Nat
  /-- elements -/
  count : Nat
  /-- micro-exponent bytes -/
  u : Nat
  deriving DecidableEq, Repr

/-- S3. -/
def BlkFmt.s3 : BlkFmt := { code := 1, m := 2, count := 128, u := 8 }
/-- S6. -/
def BlkFmt.s6 : BlkFmt := { code := 2, m := 5, count := 64, u := 4 }
/-- S12. -/
def BlkFmt.s12 : BlkFmt := { code := 3, m := 11, count := 32, u := 2 }

/-- The format of a code, none where it is reserved; code 0 is the zero block's. -/
def BlkFmt.ofCode (c : Nat) : Option BlkFmt :=
  match c with
  | 1 => some .s3
  | 2 => some .s6
  | 3 => some .s12
  | _ => none

/-- What a valid block is (R21). -/
inductive BlkKind where
  | zero
  | nan (f : BlkFmt)
  | data (f : BlkFmt)
  deriving DecidableEq, Repr

/-- Byte `k` of a line. -/
def Line.byte (l : Line) (k : Nat) : Nat := l.toNat / 2 ^ (8 * k) % 256

/-- Validation of a block in the order of R23: the reason of a failure, or what the block is. -/
def checkBlock (l : Line) (verify : Bool) : Except (BitVec 8) BlkKind :=
  let b0 := Line.byte l 0
  let hasCheck := decide (128 ≤ b0)
  let code := b0 % 128
  if hasCheck && crc32c (Line.get l 0 60) != valOf 32 (Line.get l 60 4) then .error 0x01
  else
    match BlkFmt.ofCode code with
    | none => if code = 0 then .ok .zero else .error 0x02
    | some f =>
      if verify && !hasCheck then .error 0x06
      else if Line.byte l 1 = 0xff then .ok (.nan f)
      else if natOf (Line.get l (50 + f.u) (10 - f.u)) ≠ 0 then .error 0x03
      else .ok (.data f)

/-- Positions that a block covers in an operand row (R139). -/
def BlkKind.span : BlkKind → Nat
  | .zero => 32
  | .nan f => f.count
  | .data f => f.count

/-- Element `i` of a valid block (R20, R21). -/
def blockElem (l : Line) (k : BlkKind) (i : Nat) : FVal :=
  match k with
  | .zero => .fin false 0 0
  | .nan _ => .nan false
  | .data f =>
    let x := l.toNat / 2 ^ (8 * (2 + f.u) + (f.m + 1) * i) % 2 ^ (f.m + 1)
    let mu := l.toNat / 2 ^ (16 + i / 2) % 2
    .fin (decide (2 ^ f.m ≤ x)) (x % 2 ^ f.m) ((Line.byte l 1 : Int) - 127 - f.m - mu)

/-! ## Packing (R24 to R26) -/

/-- Magnitude of a finite value over `2^e`, rounded to nearest even; 0 for others. -/
def scaledMag (v : FVal) (e : Int) : Nat :=
  match v with
  | .fin _ m g => rneNat m (g - e)
  | _ => 0

/-- Whether a finite value's magnitude is exactly `k * 2^e`. -/
def isExactly (v : FVal) (k : Nat) (e : Int) : Bool :=
  match v with
  | .fin _ m g => if m = 0 then k == 0 else
      let e0 := min g e
      decide (m * 2 ^ (g - e0).toNat = k * 2 ^ (e - e0).toNat)
  | _ => false

/-- The largest finite magnitude of a list as an integer and an exponent. -/
def maxMag (l : List FVal) : Nat × Int :=
  let e0 := minExp l
  (l.foldl (fun acc v => max acc (v.toInt e0).natAbs) 0, e0)

/-- The scale E of a group that holds no NaN and some value that is not a zero (R24). -/
def packScale (f : BlkFmt) (l : List FVal) : Int :=
  let (a, e0) := maxMag l
  if a = 0 then 254
  else
    let e : Int := e0 + bitlen a - 1
    let E := e + 128
    let E := if rneNat a (e0 - (E - 127 - f.m)) = 2 ^ f.m then E + 1 else E
    sat E 0 254

/-- One packed element: sign and magnitude with the flags of R25. -/
def packElem (f : BlkFmt) (E : Int) (mu : Nat) (v : FVal) : Nat × Word :=
  let e : Int := E - 127 - f.m - mu
  let top := 2 ^ f.m - 1
  let sgn := if v.sign then 2 ^ f.m else 0
  match v with
  | .inf _ => (sgn + top, flagOF ||| flagNX)
  | .nan _ => (0, 0)
  | .fin _ m _ =>
    let k := scaledMag v e
    if top < k then (sgn + top, flagOF ||| flagNX)
    else (sgn + k, flagIf (decide (k = 0 ∧ m ≠ 0)) flagUF ||| flagIf (!isExactly v k e) flagNX)

/-- μ of a pair (R24). -/
def packMu (f : BlkFmt) (E : Int) (x y : FVal) : Nat :=
  let z : FVal := .fin false 0 0
  let a := if x.isFin then x else z
  let b := if y.isFin then y else z
  let nz := !a.isZero || !b.isZero
  if nz && scaledMag a (E - 128 - f.m) ≤ 2 ^ f.m - 1 && scaledMag b (E - 128 - f.m) ≤ 2 ^ f.m - 1 then 1 else 0

/-- Packs pairs from element `i` on: the micro field, the element area and the flags. -/
def packPairs (f : BlkFmt) (E : Int) : List FVal → Nat → Nat × Nat × Word
  | x :: y :: r, i =>
    let mu := packMu f E x y
    let (p, fp) := packElem f E mu x
    let (q, fq) := packElem f E mu y
    let (ms, es, fl) := packPairs f E r (i + 2)
    (ms + mu * 2 ^ (i / 2), es + p * 2 ^ ((f.m + 1) * i) + q * 2 ^ ((f.m + 1) * (i + 1)), fl ||| fp ||| fq)
  | _, _ => (0, 0, 0)

/-- Sets the check word of a line and the bit that says so (R18, R22). -/
def withCheck (l : Line) : Line :=
  let l := Line.put l 0 [BitVec.ofNat 8 (Line.byte l 0 + 128)]
  Line.put l 60 (bytesOf 4 (crc32c (Line.get l 0 60)))

/-- Packs a full group into a block (R24), with its flags (R25). -/
def packGroup (f : BlkFmt) (l : List FVal) (check : Bool) : Line × Word :=
  let fin (x : Line × Word) : Line × Word := if check then (withCheck x.1, x.2) else x
  if l.any FVal.isNan then fin (BitVec.ofNat 512 (f.code + 0xff * 256), 0)
  else if l.all FVal.isZero then
    let es := (l.zipIdx).foldl (fun acc (v, i) => acc + (if v.sign then 2 ^ ((f.m + 1) * i + f.m) else 0)) 0
    fin (BitVec.ofNat 512 (f.code + es * 2 ^ (8 * (2 + f.u))), 0)
  else
    let E := packScale f l
    let (ms, es, fl) := packPairs f E l 0
    fin (BitVec.ofNat 512 (f.code + E.toNat * 256 + ms * 2 ^ 16 + es * 2 ^ (8 * (2 + f.u))), fl)

/-! ## The chunk adder -/

/-- What a chunk gives for one element: the result, its flags, the window's last place if there was a term, and whether
it is a NaN, an infinity or an overflow. -/
structure ChunkOut where
  bits : Word
  flags : Word
  lsb : Option Int
  special : Bool
  deriving DecidableEq, Repr

/-- A term of R28: magnitude and exponent with its sign. -/
def termOf (v : FVal) : List (Bool × Nat × Int) :=
  match v with
  | .fin s m e => if m = 0 then [] else [(s, m, e)]
  | _ => []

/-- The chunk procedure of R28 to R31 for one element: the incoming C when the mode accumulates, and the pairs of
elements. -/
def chunk (c : Option Word) (ps : List (FVal × FVal)) : ChunkOut :=
  let cv : Option FVal := c.map fp32
  let prods := ps.map fun (a, b) => (fprod a b).1
  let cs : List FVal := match cv with | some v => [v] | none => []
  let nan := ps.any (fun (a, b) => a.isNan || b.isNan) || prods.any FVal.isNan || cs.any FVal.isNan
  let pinf := (prods ++ cs).any fun v => v.isInf && !v.sign
  let ninf := (prods ++ cs).any fun v => v.isInf && v.sign
  if nan || (pinf && ninf) then ⟨0x7fc00000, 0, none, true⟩
  else if pinf then ⟨0x7f800000, 0, none, true⟩
  else if ninf then ⟨0xff800000, 0, none, true⟩
  else
    let pt := prods.flatMap termOf
    let ts := pt ++ cs.flatMap termOf
    match ts with
    | [] =>
      let neg := match cv with | some v => v.sign | none => false
      ⟨if neg then 0x80000000 else 0, 0, none, false⟩
    | (_, m0, e0) :: r =>
      let H := r.foldl (fun acc (_, m, e) => max acc (e + bitlen m)) (e0 + bitlen m0)
      let lsb := H - 37
      let cut (m : Nat) (e : Int) : Nat :=
        if lsb ≤ e then m * 2 ^ (e - lsb).toNat
        else if bitlen m < (lsb - e).toNat then 0 else m / 2 ^ (lsb - e).toNat
      let lost := ts.any fun (_, m, e) => decide (e < lsb) &&
        (if bitlen m < (lsb - e).toNat then true else decide (m % 2 ^ (lsb - e).toNat ≠ 0))
      let sum : Int := ts.foldl (fun acc (s, m, e) => if s then acc - cut m e else acc + cut m e) 0
      if sum = 0 then
        let neg := pt.isEmpty && (match cv with | some v => v.isZero && v.sign | none => false)
        ⟨if neg then 0x80000000 else 0, flagIf lost flagMNX, some lsb, false⟩
      else
        let o := Fmt.fp32.round .rn (decide (sum < 0)) sum.natAbs lsb false
        let ov := (o.flags &&& flagOF) != 0
        ⟨BitVec.ofNat 32 o.bits, flagIf (lost || (o.flags &&& flagNX) != 0) flagMNX ||| flagIf ov flagMOF, some lsb, ov⟩

/-- The pairs of a real element. -/
def realPairs (a b : List FVal) : List (FVal × FVal) := a.zip b

/-- The pairs of the real and of the imaginary component (R33): even positions are real parts. -/
def complexPairs : List FVal → List FVal → List (FVal × FVal) × List (FVal × FVal)
  | ar :: ai :: ra, br :: bi :: rb =>
    let (re, im) := complexPairs ra rb
    ((ar, br) :: (ai.neg, bi) :: re, (ar, bi) :: (ai, br) :: im)
  | _, _ => ([], [])

/-- Exact sum of integers times powers of two. -/
def exactSum (l : List (Int × Int)) : Int × Int :=
  let e0 := match l.filter (fun x => x.1 ≠ 0) with
    | [] => 0
    | (_, e) :: r => r.foldl (fun acc x => min acc x.2) e
  (l.foldl (fun acc (x, e) => if x = 0 then acc else acc + x * 2 ^ (e - e0).toNat) 0, e0)

/-- A finite datum as an integer times a power of two. -/
def FVal.pair : FVal → Int × Int
  | .fin s m e => (if s then -(m : Int) else m, e)
  | _ => (0, 0)

/-- The comparison of one output column (R387): rows' A elements, the column's B elements, and for each row the incoming
C term and what the chunk gave. -/
def checksumPass (as : List (List FVal)) (b : List FVal) (outs : List (Word × ChunkOut)) : Bool :=
  let d := exactSum (outs.flatMap fun (c, o) =>
    [(fp32 o.bits).pair, ((fp32 c).neg).pair])
  let col (k : Nat) : Int × Int := exactSum (as.map fun r => (r.getD k (.fin false 0 0)).pair)
  let rj := exactSum ((List.range b.length).map fun k =>
    let x := col k
    let y := (b.getD k (.fin false 0 0)).pair
    (x.1 * y.1, x.2 + y.2))
  let ulpHalf (w : Word) : Int × Int :=
    match fp32 w with
    | .fin _ m e => if m < 2 ^ 23 then (1, -150) else (1, e - 1)
    | _ => (0, 0)
  let tau := exactSum (outs.flatMap fun (_, o) => [(129, o.lsb.getD 0), ulpHalf o.bits])
  let diff := exactSum [d, (-rj.1, rj.2)]
  let cmp := exactSum [((diff.1.natAbs : Int), diff.2), (-tau.1, tau.2)]
  decide (cmp.1 ≤ 0)

/-! ## Cells (R34 to R37) -/

/-- The scale of a cell. -/
def cellScale (c : BitVec 128) : Int := (c.extractLsb' 112 8).toInt

/-- The integer of a cell. -/
def cellInt (c : BitVec 128) : Int := (c.extractLsb' 0 112).toInt

/-- A cell with its integer and flags replaced. -/
def cellMake (c : BitVec 128) (i : Int) (orFlags : BitVec 8) : BitVec 128 :=
  ((c.extractLsb' 120 8 ||| orFlags) ++ c.extractLsb' 112 8) ++ BitVec.ofInt 112 i

/-- A cell add (R35). -/
def cellAdd (c : BitVec 128) (x : Word) : BitVec 128 :=
  match fp32 x with
  | .nan _ => cellMake c (cellInt c) 2
  | .inf _ => cellMake c (cellInt c) 1
  | v =>
    let q := quantise v (cellScale c)
    cellMake c (cellInt c + q) (if 2 ^ 100 ≤ q.natAbs then 1 else 0)

/-- A converting cell read (R37). -/
def cellRead (c : BitVec 128) : FOut :=
  if c.getLsbD 121 then ⟨Fmt.fp32.qnan, flagIf (c.getLsbD 120) flagIV⟩
  else
    let o := intToFp32 (cellInt c) (cellScale c)
    ⟨o.bits, o.flags ||| flagIf (c.getLsbD 120) flagIV⟩

/-- A cell reset (R259 code 0x10). -/
def cellReset (c : BitVec 128) (s : BitVec 8) : BitVec 128 :=
  ((c.extractLsb' 120 8 &&& 0xfc) ++ s) ++ (0 : BitVec 112)

/-! ## Operations at a home -/

/-- The new value of an atomic (R252) at width `n`. -/
def atomNew (n : Nat) (f : AtomF) (old b : BitVec n) : BitVec n :=
  match f with
  | .add => old + b
  | .smin => if b.slt old then b else old
  | .smax => if old.slt b then b else old
  | .nmin => if b.ult old then b else old
  | .nmax => if old.ult b then b else old
  | .and => old &&& b
  | .or => old ||| b
  | .xchg => b

/-- A bank-line operation on a line (R257). -/
def bankLine (f : BnkF) (l src : Line) : Line :=
  let w (x : Line) (j : Nat) : Word := x.extractLsb' (32 * j) 32
  let each (g : Word → Word → Word) : Line :=
    Line.of ((List.range 16).flatMap fun j => bytesOf 4 (g (w l j) (w src j)))
  match f with
  | .iadd => each (· + ·)
  | .fmax => each fun x y => BitVec.ofNat 32 (fmnx .max x y).bits
  | .fmin => each fun x y => BitVec.ofNat 32 (fmnx .min x y).bits
  | .cadd => Line.of ((List.range 4).flatMap fun j => bytesOf 16 (cellAdd (l.extractLsb' (128 * j) 128) (w src j)))

namespace Machine

/-- A home operation on the line that holds its location, `off` bytes into it: the new line and the old value's words. -/
def HomeKind.run (k : HomeKind) (l : Line) (off : Nat) : Line × List Word :=
  match k with
  | .atom f w64 b =>
    if w64 then
      let old : BitVec 64 := l.extractLsb' (8 * off) 64
      (Line.put l off (bytesOf 8 (atomNew 64 f old b)), [old.extractLsb' 0 32, old.extractLsb' 32 32])
    else
      let old : BitVec 32 := l.extractLsb' (8 * off) 32
      (Line.put l off (bytesOf 4 (atomNew 32 f old (b.extractLsb' 0 32))), [old])
  | .cas w64 e b =>
    if w64 then
      let old : BitVec 64 := l.extractLsb' (8 * off) 64
      (if old = e then Line.put l off (bytesOf 8 b) else l, [old.extractLsb' 0 32, old.extractLsb' 32 32])
    else
      let old : BitVec 32 := l.extractLsb' (8 * off) 32
      (if old = e.extractLsb' 0 32 then Line.put l off (bytesOf 4 (b.extractLsb' 0 32)) else l, [old])
  | .cellAdd x => (Line.put l off (bytesOf 16 (Sys2Proof.cellAdd (l.extractLsb' (8 * off) 128) x)), [])
  | .creset s => (Line.put l off (bytesOf 16 (cellReset (l.extractLsb' (8 * off) 128) s)), [])
  | .bnk f src => (bankLine f l src, [])
  | .ldHalf _ _ =>
    let old : BitVec 64 := l.extractLsb' (8 * off) 64
    (l, [old.extractLsb' 0 32, old.extractLsb' 32 32])
  | .stHalf x => (Line.put l off (bytesOf 8 x), [])

end Machine

/-! ## Register lines (R217) -/

/-- The tag and packed bytes of a register line: the first form that gives all lanes exactly. -/
def packRegLine (l : List Word) : Nat × List Byte :=
  let v0 := l.getD 0 0
  let st := l.getD 1 0 - v0
  if l.all (· == v0) then (0, bytesOf 4 v0)
  else if (l.zipIdx).all (fun (x, i) => x == v0 + BitVec.ofNat 32 i * st) then (1, bytesOf 4 v0 ++ bytesOf 4 st)
  else if l.all (fun x => (x.extractLsb' 0 16).signExtend 32 == x) then (2, l.flatMap (bytesOf 2))
  else (3, bytesOfWords l)

/-- Lane `i` of a packed register line. -/
def unpackReg (tag : Nat) (b : List Byte) (i : Nat) : Word :=
  match tag with
  | 0 => valOf 32 (b.take 4)
  | 1 => valOf 32 (b.take 4) + BitVec.ofNat 32 i * valOf 32 ((b.drop 4).take 4)
  | 2 => (valOf 16 ((b.drop (2 * i)).take 2)).signExtend 32
  | _ => valOf 32 ((b.drop (4 * i)).take 4)

/-! ## Philox4x32-10 (R313) -/

/-- One round. -/
def philoxRound (c : Word × Word × Word × Word) (k0 k1 : Word) : Word × Word × Word × Word :=
  let p : BitVec 64 := BitVec.ofNat 64 (0xD2511F53 * c.1.toNat)
  let q : BitVec 64 := BitVec.ofNat 64 (0xCD9E8D57 * c.2.2.1.toNat)
  (q.extractLsb' 32 32 ^^^ c.2.1 ^^^ k0, q.extractLsb' 0 32, p.extractLsb' 32 32 ^^^ c.2.2.2 ^^^ k1, p.extractLsb' 0 32)

/-- `n` rounds from a key, the key rising between rounds. -/
def philoxRounds : Nat → Word × Word × Word × Word → Word → Word → Word × Word × Word × Word
  | 0, c, _, _ => c
  | n + 1, c, k0, k1 => philoxRounds n (philoxRound c k0 k1) (k0 + 0x9E3779B9) (k1 + 0xBB67AE85)

/-- The four output words for a counter under a seed. -/
def philox (c0 c1 c2 c3 : Word) (seed : BitVec 64) : List Word :=
  let r := philoxRounds 10 (c0, c1, c2, c3) (seed.extractLsb' 0 32) (seed.extractLsb' 32 32)
  [r.1, r.2.1, r.2.2.1, r.2.2.2]

end Sys2Proof
end

