-- ==== Sys2Proof/Machine/Operands.lean ====
section
/-!
DEFINITION. Operand forms: which register or literal an operand code names, the width rules (R48 to R53), and the values
that the codes supply.
-/
namespace Sys2Proof.Machine

/-! ## Keys -/

/-- Block of a thread key. -/
def blkOf (k : Nat) : Nat := k / 1024
/-- Thread-in-block index (R166). -/
def tidOf (k : Nat) : Nat := k % 1024
/-- Home lane (R166). -/
def laneOf (k : Nat) : Nat := k % 32
/-- Key of the home wave. -/
def waveKey (k : Nat) : Nat := k / 32
/-- Wave index within the block (R166). -/
def waveOf (k : Nat) : Nat := k % 1024 / 32

/-! ## Records that stand for what is not there -/

/-- A wave that does not exist: no role, no register. -/
def Wave.absent : Wave := { roles := 0, status := 0, kregs := [], kbad := [], alloc := 0, slot := 0, reported := [], conv := [] }

/-- A header that declares nothing. -/
def Header.absent : Header :=
  { relaunch := false, migratable := false, accord := false, pop := false, phased := false, base := 0, max := 0, scratch := 0,
    carry := 0, waves := 0, timeout := 0, trapEn := 0, handler := 0, roles := 0 }

/-- A task that does not exist. -/
def Task.absent : Task :=
  { launch := 0, header := Header.absent, hdr := 0, kind := .gang 0, blocks := 0, pinned := false, core := 0, queued := 0, unassigned := false }

/-- A context that does not exist. -/
def Ctx.absent : Ctx :=
  { asid := 0, launch := 0, header := Header.absent, hdrAddr := 0, die := 0, cluster := 0, blocks := [], gbars := [],
    image := 0, imageBytes := [], state := .out, origin := Task.absent, poisoned := 0, kept := [], noticed := false, held := false, stopFor := none, ran := [] }

/-- A block that does not exist. -/
def Block.absent : Block :=
  { ctx := 0, gidx := 0, core := 0, workId := 0, count := 0, spad := [], bars := [], copyN := 0, matN := 0, copyDone := [],
    matDone := 0, copyQ := [], matQ := [], checksum := 0, waiters := [], buffer := [], firstRead := [], spawns := [], bufBad := false, committed := false,
    saved := false }

/-- The home wave of a thread. -/
def State.wave (s : State) (k : Nat) : Wave := Tab.getD s.waves (waveKey k) Wave.absent
/-- A block. -/
def State.block (s : State) (b : Nat) : Block := Tab.getD s.blocks b Block.absent
/-- A context. -/
def State.ctx (s : State) (c : Nat) : Ctx := Tab.getD s.ctxs c Ctx.absent
/-- The context of a thread. -/
def State.ctxOf (s : State) (k : Nat) : Ctx := s.ctx (s.block (blkOf k)).ctx
/-- The core of a thread. -/
def State.coreOf (s : State) (k : Nat) : Nat := (s.block (blkOf k)).core
/-- Die of a core (Table 5-6, code 0x0D). -/
def dieOf (core : Nat) : Nat := core / 192
/-- Cluster of a core, 0 to 15 over the module. -/
def clusterOf (core : Nat) : Nat := core / 48

/-! ## Operand codes (Table 3-2) -/

/-- What an operand field holds. -/
inductive Opnd where
  | v (n : Nat)
  | k (n : Nat)
  | z
  | bad
  | lit64
  | lit32
  deriving DecidableEq, Repr

end Sys2Proof.Machine

namespace Sys2Proof

open Machine

/-- The operand of a d or c field. -/
def Dst.opnd : Dst → Opnd
  | .v n => .v n.val
  | .k n => .k n.val
  | .z => .z
  | .bad _ => .bad

/-- The operand of an a or b field. -/
def Src.opnd : Src → Opnd
  | .v n => .v n.val
  | .k n => .k n.val
  | .z => .z
  | .rsvd => .bad
  | .lit64 _ => .lit64
  | .lit32 _ => .lit32

end Sys2Proof

namespace Sys2Proof.Machine

/-- How an instruction uses a field: a source field, a d or c field (read or written), the k destination of `kset` and `ldk`,
or a token destination that z cannot stand in (R131). -/
inductive Use where
  | src
  | dst
  /-- a d or c field that the instruction reads -/
  | old
  | kdst
  | tok
  deriving DecidableEq, Repr

/-- A field that an instruction uses as an operand, with its width in registers: 1, 2 (pair) or 4 (quad). -/
structure Fld where
  /-- number in a trap detail: 0 d, 1 a, 2 b, 3 c (Table 15-1, cause 0x02) -/
  no : Nat
  opnd : Opnd
  w : Nat
  use : Use
  deriving DecidableEq, Repr

/-- A d field, `w` registers wide. -/
def fd (d : Dst) (w : Nat) : Fld := { no := 0, opnd := Dst.opnd d, w := w, use := .dst }
/-- A d field, `w` registers wide, that the instruction reads. -/
def fdr (d : Dst) (w : Nat) : Fld := { no := 0, opnd := Dst.opnd d, w := w, use := .old }
/-- A d field that holds a token. -/
def ftok (d : Dst) (w : Nat) : Fld := { no := 0, opnd := Dst.opnd d, w := w, use := .tok }
/-- A k destination. -/
def fkd (d : Dst) (w : Nat) : Fld := { no := 0, opnd := Dst.opnd d, w := w, use := .kdst }
/-- An a field. -/
def fa (a : Src) (w : Nat) : Fld := { no := 1, opnd := Src.opnd a, w := w, use := .src }
/-- A b field. -/
def fb (b : Src) (w : Nat) : Fld := { no := 2, opnd := Src.opnd b, w := w, use := .src }
/-- A c field that the instruction reads. -/
def fcr (c : Dst) (w : Nat) : Fld := { no := 3, opnd := Dst.opnd c, w := w, use := .old }
/-- A c field that the instruction writes. -/
def fc (c : Dst) (w : Nat) : Fld := { no := 3, opnd := Dst.opnd c, w := w, use := .dst }

/-- The rules of R48 and R51 to R53 for one field under a window base and an allocation. -/
def Fld.legal (f : Fld) (wb alloc : Nat) : Bool :=
  match f.opnd, f.use with
  | .v _, .kdst => false
  | .v n, _ => decide ((wb + n) % f.w = 0 ∧ wb + n + f.w ≤ alloc ∧ wb + n + f.w ≤ 512)
  | .k n, .kdst => decide (n % f.w = 0)
  | .k n, .src => decide (f.w ≤ 2 ∧ n % f.w = 0)
  | .k _, _ => false
  | .z, .kdst => false
  | .z, .tok => false
  | .z, _ => true
  | .bad, _ => false
  | .lit64, .src => decide (f.w = 2)
  | .lit64, _ => false
  | .lit32, .src => decide (f.w ≤ 2)
  | .lit32, _ => false

/-- The registers that a field names, lowest first. -/
def Fld.regs (f : Fld) (wb : Nat) : List RegId :=
  match f.opnd with
  | .v n => (List.range f.w).map fun j => .v (wb + n + j)
  | .k n => (List.range f.w).map fun j => .k (n + j)
  | _ => []

/-- The first field that breaks the operand rules. -/
def firstIllegal (l : List Fld) (wb alloc : Nat) : Option Nat :=
  match l with
  | [] => none
  | f :: r => if f.legal wb alloc then firstIllegal r wb alloc else some f.no

end Sys2Proof.Machine

namespace Sys2Proof

open Machine

/-- The destinations that a d field names, lowest first; none for z. -/
def Dst.dests (d : Dst) (wb w : Nat) : List RegId := (fd d w).regs wb

/-! ## Values -/

/-- A 32-bit source operand (R52). -/
def Src.get32 (s : State) (k : Nat) (t : Thread) (a : Src) : Word :=
  match a with
  | .v n => Store.read t.regs (t.wb.toNat + n.val)
  | .k n => Store.read (s.wave k).kregs n.val
  | .z => 0
  | .rsvd => 0
  | .lit64 w => w.extractLsb' 0 32
  | .lit32 w => w

/-- A pair source operand: a 32-bit literal is sign-extended (R52). -/
def Src.get64 (s : State) (k : Nat) (t : Thread) (a : Src) : Pair :=
  match a with
  | .v n => Store.read t.regs (t.wb.toNat + n.val + 1) ++ Store.read t.regs (t.wb.toNat + n.val)
  | .k n => Store.read (s.wave k).kregs (n.val + 1) ++ Store.read (s.wave k).kregs n.val
  | .z => 0
  | .rsvd => 0
  | .lit64 w => w
  | .lit32 w => w.signExtend 64

/-- A quad source operand, lowest register first. -/
def Src.get128 (t : Thread) (a : Src) : List Word :=
  match a with
  | .v n => Store.reads t.regs (t.wb.toNat + n.val) 4
  | _ => [0, 0, 0, 0]

/-- The old value of a d or c field, 32 bits. -/
def Dst.get32 (t : Thread) (d : Dst) : Word :=
  match d with
  | .v n => Store.read t.regs (t.wb.toNat + n.val)
  | _ => 0

/-- The old value of a d field, a pair. -/
def Dst.get64 (t : Thread) (d : Dst) : Pair :=
  match d with
  | .v n => Store.read t.regs (t.wb.toNat + n.val + 1) ++ Store.read t.regs (t.wb.toNat + n.val)
  | _ => 0

/-- The old value of a d field, `w` registers. -/
def Dst.gets (t : Thread) (d : Dst) (w : Nat) : List Word :=
  match d with
  | .v n => Store.reads t.regs (t.wb.toNat + n.val) w
  | _ => List.replicate w 0

end Sys2Proof

namespace Sys2Proof.Machine

/-- The words of a pair, low first. -/
def pairWords (x : Pair) : List Word := [x.extractLsb' 0 32, x.extractLsb' 32 32]

/-- Writes values to registers of a thread; k registers are the wave's. -/
def writeRegs (regs : Store 32) (ds : List RegId) (vs : List Word) : Store 32 :=
  match ds, vs with
  | .v n :: ds, v :: vs => writeRegs (Store.write regs n v) ds vs
  | .k _ :: ds, _ :: vs => writeRegs regs ds vs
  | _, _ => regs

/-- A thread writes values to its registers: their words are poisoned no longer (R382). -/
def Thread.putRegs (t : Thread) (ds : List RegId) (vs : List Word) : Thread :=
  { t with regs := writeRegs t.regs ds vs, bad := t.bad.filter fun n => !ds.contains (.v n) }

/-- A thread's value of a register. -/
def Thread.reg (t : Thread) (n : Nat) : Word := Store.read t.regs n

/-- Writes values to k registers. -/
def writeKregs (regs : Store 32) (ds : List RegId) (vs : List Word) : Store 32 :=
  match ds, vs with
  | .k n :: ds, v :: vs => writeKregs (Store.write regs n v) ds vs
  | .v _ :: ds, _ :: vs => writeKregs regs ds vs
  | _, _ => regs

/-- Literal words of an instruction's two sources (R43, R50). -/
def lits2 (a b : Src) : Nat := (Src.words a).length + (Src.words b).length

/-- Literal words of an instruction with one source. -/
def lits1 (a : Src) : Nat := (Src.words a).length

end Sys2Proof.Machine
end

