-- ==== Sys2Proof/Machine/Memory.lean ====
section
/-!
DEFINITION. Memory: bytes at their homes, launch queue windows (R169), the L1 of each core (R229, R245 to R251), the
address windows (R225 to R228), page walks (R232 to R238), and the fault record queues (R221, R239, R240).
-/
namespace Sys2Proof.Machine

/-! ## Queue windows -/

/-- The queue whose window holds a physical address. -/
def State.queueAt (s : State) (pa : Nat) : Option (Nat × LaunchQ) :=
  s.queues.find? fun (_, q) => !q.closed && decide (q.pa ≤ pa ∧ pa < q.pa + 65536)

/-- All 128 bytes of a slot have been written. -/
def LaunchQ.full (q : LaunchQ) (slot : Nat) : Bool := Tab.getD q.written slot 0 == BitVec.allOnes 128

/-- One byte of a write into a slot that takes it. -/
def LaunchQ.putByte (q : LaunchQ) (off : Nat) (b : Byte) : LaunchQ :=
  { q with
    bytes := Store.write q.bytes off b
    written := Tab.put q.written (off / 128)
      (Tab.getD q.written (off / 128) 0 ||| BitVec.ofNat 128 (2 ^ (off % 128))) }

/-- A write of bytes, by offset, into a window: bytes of complete slots are discarded and each such slot counts one
overrun (R169); a context that writes owns the slots it writes (R337). -/
def LaunchQ.write (q : LaunchQ) (cells : List (Nat × Byte)) (owner : Option Nat) : LaunchQ :=
  let slots := dedup (cells.map fun c => c.1 / 128)
  let fullSlots := slots.filter q.full
  let taken := cells.filter fun c => !q.full (c.1 / 128)
  let q := taken.foldl (fun q c => q.putByte c.1 c.2) q
  let owners := match owner with
    | some c => (slots.filter fun x => !fullSlots.contains x).foldl (fun m x => Tab.put m x c) q.owners
    | none => q.owners
  { q with overruns := q.overruns + BitVec.ofNat 64 fullSlots.length, owners := owners }

/-! ## Bytes at home -/

/-- Reads `n` bytes at a physical address; a queue window reads its accepted count (R169). -/
def State.readMem (s : State) (pa n : Nat) : List Byte :=
  match s.queueAt pa with
  | some (_, q) => (List.range n).map fun i => q.accepted.extractLsb' (8 * ((pa + i) % 8)) 8
  | none => Store.reads (w := 8) s.mem pa n

/-- The tweak of a line (R394): PA[40:6], zero-extended. -/
def xtsTweak (pa : Nat) : BitVec 128 := BitVec.ofNat 128 (pa % 2 ^ 41 / 64)

/-- What the cells of an HBM stack hold for the line of an ASID at a physical address (R394): its plaintext, which the caches and `mem` hold,
encrypted under the ASID's key (log 79).  In a frame that has not been written since its key was destroyed they hold what was encrypted under
that key (R395). -/
def State.hbmLine (s : State) (asid pa : Nat) : BitVec 512 :=
  let now := match Tab.find s.asids asid with | some a => a.key | none => s.fwKey
  let key := Tab.getD s.oldKeys (pa / 65536) now
  Config.xtsEncrypt key (xtsTweak pa) (Line.of (s.readMem (pa / 64 * 64) 64))

/-- A little-endian number of `n` bytes in memory. -/
def State.memNat (s : State) (pa n : Nat) : Nat := natOf (s.readMem pa n)

/-- The 64-bit word at a place meets `n` bytes at another. -/
def Place.meets (w p : Place) (n : Nat) : Bool :=
  match w, p with
  | .mem a, .mem b => decide (a < b + n ∧ b < a + 8)
  | .spad x a, .spad y b => x == y && decide (a < b + n ∧ b < a + 8)
  | .bank x a, .bank y b => x == y && decide (a < b + n ∧ b < a + 8)
  | _, _ => false

/-- The 64-bit word at a place lies within `n` bytes at another. -/
def Place.within (w p : Place) (n : Nat) : Bool :=
  match w, p with
  | .mem a, .mem b => decide (b ≤ a ∧ a + 8 ≤ b + n)
  | .spad x a, .spad y b => x == y && decide (b ≤ a ∧ a + 8 ≤ b + n)
  | .bank x a, .bank y b => x == y && decide (b ≤ a ∧ a + 8 ≤ b + n)
  | _, _ => false

/-- A die is to be fenced at once: poison has been met in firmware's data, a page table or a fault record queue (R383). -/
def State.fence (s : State) (die : Nat) : State := { s with agenda := .event (.dieFence die) :: s.agenda }

/-- A byte range of HBM holds poison, in its stack or in L2 (R382). -/
def State.poisoned (s : State) (pa n : Nat) : Bool :=
  s.poison.any (fun u => decide (u * 32 < pa + n ∧ pa < u * 32 + 32)) || s.badWords.any fun w => w.meets (.mem pa) n

/-- Bytes at a place hold poison, at their home. -/
def State.placeBad (s : State) (p : Place) (n : Nat) : Bool :=
  match p with
  | .mem pa => s.poisoned pa n
  | p => s.badWords.any fun w => w.meets p n

/-- Poison goes where a write covers a whole protected unit (R382). -/
def State.cleanPoison (s : State) (as : List Nat) : State :=
  if s.poison.isEmpty && s.badWords.isEmpty then s
  else
    { s with
      poison := s.poison.filter fun u => !(List.range 32).all fun i => as.contains (u * 32 + i)
      badWords := s.badWords.filter fun w => match w with
        | .mem a => !(List.range 8).all fun i => as.contains (a + i)
        | _ => true }

/-- Poison of a scratchpad or of bank memory goes where a write covers a whole word. -/
def State.cleanWords (s : State) (p : Place) (n : Nat) : State :=
  if s.badWords.isEmpty then s else { s with badWords := s.badWords.filter fun w => !w.within p n }

/-- Poison travels with `n` bytes that are copied from one physical address to another (R382). -/
def State.carryPoison (s : State) (src dst n : Nat) : State :=
  { s with
    poison := (s.poison.filter fun u => decide (src ≤ 32 * u ∧ 32 * u < src + n)).foldl (fun l u => insertNat (u + dst / 32 - src / 32) l) s.poison
    badWords := (s.badWords.filter fun w => w.within (.mem src) n).foldl (fun l w => match w with
      | .mem a => .mem (a + dst - src) :: l
      | _ => l) s.badWords }

/-- Writes bytes by physical address at their home; `owner` is the context that writes, if one does. -/
def State.writeCells (s : State) (cells : List (Nat × Byte)) (owner : Option Nat) : State :=
  match cells with
  | [] => s
  | (a, b) :: r =>
    match s.queueAt a with
    | some (k, q) =>
      let w := ((a, b) :: r).map fun c => (c.1 - q.pa, c.2)
      { s with queues := Tab.put s.queues k (q.write w owner) }
    | none =>
      let s := s.cleanPoison (((a, b) :: r).map Prod.fst)
      { s with mem := ((a, b) :: r).foldl (fun m c => Store.write (w := 8) m c.1 c.2) s.mem }

/-- Writes consecutive bytes at a physical address. -/
def State.writeMem (s : State) (pa : Nat) (b : List Byte) (owner : Option Nat := none) : State :=
  s.writeCells ((b.zipIdx).map fun (x, i) => (pa + i, x)) owner

/-- Clears bytes of memory. -/
def State.clearMem (s : State) (pa n : Nat) : State :=
  { s with mem := Store.clear (w := 8) s.mem pa n
           oldKeys := s.oldKeys.filter fun (u, _) => !decide (pa ≤ u * 65536 ∧ u * 65536 + 65536 ≤ pa + n)
           poison := s.poison.filter fun u => !decide (pa ≤ u * 32 ∧ u * 32 + 32 ≤ pa + n)
           badWords := s.badWords.filter fun w => !w.within (.mem pa) n }

/-! ## L1 -/

/-- Key of the line of a physical address in a core's L1. -/
def l1Key (core pa : Nat) : Nat := 2 ^ 35 * core + pa / 64

/-- The bytes of a line that are dirty, with their addresses. -/
def L1Line.dirtyCells (l : L1Line) (base : Nat) : List (Nat × Byte) :=
  (List.range 64).filterMap fun i => if l.dirty.getLsbD i then some (base + i, l.data.extractLsb' (8 * i) 8) else none

/-- The poisoned words of a line that a write back carries: those with a dirty byte (R382). -/
def L1Line.dirtyBad (l : L1Line) (base : Nat) : List Place :=
  (List.range 8).filterMap fun i =>
    if l.bad.getLsbD i && l.dirty.extractLsb' (8 * i) 8 != 0 then some (.mem (base + 8 * i)) else none

/-- `n` bytes at offset `o` of a line hold poison. -/
def L1Line.badAt (l : L1Line) (o n : Nat) : Bool := (List.range 8).any fun i => l.bad.getLsbD i && decide (8 * i < o + n ∧ o < 8 * i + 8)

/-- The words of a line that are poisoned at home: poison travels with the data into the cache (R382). -/
def State.badMask (s : State) (base : Nat) : BitVec 8 :=
  if s.poison.isEmpty && s.badWords.isEmpty then 0
  else (List.range 8).foldl (fun m i => if s.poisoned (base + 8 * i) 8 then m ||| BitVec.ofNat 8 (2 ^ i) else m) 0

/-- The words of a line that `n` bytes at offset `o` cover whole. -/
def wordMask (o n : Nat) : BitVec 8 :=
  (List.range 8).foldl (fun m i => if o ≤ 8 * i ∧ 8 * i + 8 ≤ o + n then m ||| BitVec.ofNat 8 (2 ^ i) else m) 0

/-- Writes a line's dirty bytes back to the home (R259 code 0x00). -/
def State.l1Write (s : State) (key : Nat) : State :=
  match Tab.find s.l1 key with
  | none => s
  | some l =>
    if l.dirty = 0 then s
    else
      let base := key % 2 ^ 35 * 64
      let s := s.writeCells (l.dirtyCells base) none
      { s with l1 := Tab.put s.l1 key { l with dirty := 0 }
               badWords := (l.dirtyBad base).foldl (fun m w => if m.contains w then m else w :: m) s.badWords }

/-- Writes a line back and invalidates it. -/
def State.l1Drop (s : State) (key : Nat) : State :=
  let s := s.l1Write key
  { s with l1 := Tab.del s.l1 key }

/-- Keys of a core's lines of an ASID. -/
def State.l1Keys (s : State) (core asid : Nat) : List Nat :=
  (s.l1.filter fun (k, l) => decide (k / 2 ^ 35 = core) && decide (l.asid = asid)).map Prod.fst

/-- Writes back every dirty byte of an ASID on a core: the release action of gang scope and above (Table 13-3). -/
def State.l1Flush (s : State) (core asid : Nat) : State := (s.l1Keys core asid).foldl State.l1Write s

/-- Writes back and invalidates every line of an ASID on a core: the acquire action (Table 13-3). -/
def State.l1Invalidate (s : State) (core asid : Nat) : State := (s.l1Keys core asid).foldl State.l1Drop s

/-- Every core that `p` names writes back its dirty bytes of an ASID (R251). -/
def State.l1FlushCores (s : State) (asid : Nat) (p : Nat → Bool) : State :=
  ((s.l1.filter fun (k, l) => p (k / 2 ^ 35) && decide (l.asid = asid)).map Prod.fst).foldl State.l1Write s

/-- Every core writes back and invalidates its lines of an ASID. -/
def State.l1InvalidateAll (s : State) (asid : Nat) : State :=
  ((s.l1.filter fun (_, l) => decide (l.asid = asid)).map Prod.fst).foldl State.l1Drop s

/-- Lines that an engine's or a home's access to `n` bytes at `pa` concerns. -/
def linesOf (pa n : Nat) : List Nat := (List.range ((pa + n + 63) / 64 - pa / 64)).map fun i => pa / 64 + i

/-- A core writes back its dirty bytes of a range (R271). -/
def State.l1FlushRange (s : State) (core pa n : Nat) : State :=
  (linesOf pa n).foldl (fun s x => s.l1Write (2 ^ 35 * core + x)) s

/-- A core writes back and invalidates its lines of a range (R245, R271). -/
def State.l1DropRange (s : State) (core pa n : Nat) : State :=
  (linesOf pa n).foldl (fun s x => s.l1Drop (2 ^ 35 * core + x)) s

/-- Every core drops its lines of a range, dirty bytes written back first. -/
def State.dropEverywhere (s : State) (pa n : Nat) : State :=
  ((s.l1.filter fun (k, _) => decide (pa < (k % 2 ^ 35 + 1) * 64 ∧ k % 2 ^ 35 * 64 < pa + n)).map Prod.fst).foldl State.l1Drop s

/-- A line as an L1 fetches it, with its poison. -/
def State.fetchLine (s : State) (asid base : Nat) : L1Line :=
  { asid := asid, data := Line.of (s.readMem base 64), dirty := 0, bad := s.badMask base }

/-- Reads bytes of one line through a core's L1: a hit reads the line, a miss fetches it.  A queue window is read at its home. -/
def State.l1Read (s : State) (core asid pa n : Nat) : State × List Byte :=
  if (s.queueAt pa).isSome then (s, s.readMem pa n)
  else
    match Tab.find s.l1 (l1Key core pa) with
    | some l => (s, Line.get l.data (pa % 64) n)
    | none =>
      let l := s.fetchLine asid (pa / 64 * 64)
      ({ s with l1 := Tab.put s.l1 (l1Key core pa) l }, Line.get l.data (pa % 64) n)

/-- Dirty mask of `n` bytes at offset `o` of a line. -/
def dirtyMask (o n : Nat) : BitVec 64 := BitVec.ofNat 64 ((2 ^ n - 1) * 2 ^ o)

/-- Stores bytes of one line into a core's L1 as dirty bytes (R247); a word that they cover whole is poisoned no longer.  A store to a queue
window is written back at once. -/
def State.l1Store (s : State) (core asid pa : Nat) (b : List Byte) (owner : Option Nat) : State :=
  if (s.queueAt pa).isSome then (s.l1Drop (l1Key core pa)).writeMem pa b owner
  else
    let l : L1Line := match Tab.find s.l1 (l1Key core pa) with
      | some l => l
      | none => s.fetchLine asid (pa / 64 * 64)
    let l : L1Line := { l with data := Line.put l.data (pa % 64) b, dirty := l.dirty ||| dirtyMask (pa % 64) b.length
                               bad := l.bad &&& ~~~(wordMask (pa % 64) b.length) }
    { s with l1 := Tab.put s.l1 (l1Key core pa) l }

/-! ## Places -/

/-- Reads bytes at a place, at its home. -/
def State.readPlace (s : State) (p : Place) (n : Nat) : List Byte :=
  match p with
  | .mem pa => s.readMem pa n
  | .spad b o => Store.reads (s.block b).spad o n
  | .bank d o => Store.reads s.bank (d * 2 ^ 26 + o) n
  | .image c o => Store.reads (s.ctx c).imageBytes o n

/-- Changes a block. -/
def State.updBlock (s : State) (b : Nat) (f : Block → Block) : State := { s with blocks := Tab.upd s.blocks b f }
/-- Changes a context. -/
def State.updCtx (s : State) (c : Nat) (f : Ctx → Ctx) : State := { s with ctxs := Tab.upd s.ctxs c f }
/-- Changes a thread. -/
def State.updThread (s : State) (k : Nat) (f : Thread → Thread) : State := { s with threads := Tab.upd s.threads k f }
/-- Changes a wave. -/
def State.updWave (s : State) (w : Nat) (f : Wave → Wave) : State := { s with waves := Tab.upd s.waves w f }
/-- Changes an ASID's record. -/
def State.updAsid (s : State) (a : Nat) (f : Asid → Asid) : State := { s with asids := Tab.upd s.asids a f }

/-- Writes bytes at a place, at its home. -/
def State.writePlace (s : State) (p : Place) (b : List Byte) (owner : Option Nat := none) : State :=
  match p with
  | .mem pa => s.writeMem pa b owner
  | .spad k o => (s.cleanWords p b.length).updBlock k fun x => { x with spad := Store.writes x.spad o b }
  | .bank d o => let s := s.cleanWords p b.length; { s with bank := Store.writes s.bank (d * 2 ^ 26 + o) b }
  | .image c o => s.updCtx c fun x => { x with imageBytes := Store.writes x.imageBytes o b }

/-- The start of the 64-byte line that holds a place, and the offset in it. -/
def Place.line : Place → Place × Nat
  | .mem pa => (.mem (pa / 64 * 64), pa % 64)
  | .spad b o => (.spad b (o / 64 * 64), o % 64)
  | .bank d o => (.bank d (o / 64 * 64), o % 64)
  | .image c o => (.image c (o / 64 * 64), o % 64)

/-- A place `n` bytes on. -/
def Place.add (p : Place) (n : Nat) : Place :=
  match p with
  | .mem pa => .mem (pa + n)
  | .spad b o => .spad b (o + n)
  | .bank d o => .bank d (o + n)
  | .image c o => .image c (o + n)

/-- Bytes that a home operation reads and writes. -/
def HomeKind.size : HomeKind → Nat
  | .atom _ w64 _ => if w64 then 8 else 4
  | .cas w64 _ _ => if w64 then 8 else 4
  | .cellAdd _ => 16
  | .creset _ => 16
  | .bnk _ _ => 64
  | .ldHalf _ _ => 8
  | .stHalf _ => 8

/-- Whether a home operation that read some words writes: a `cas` whose comparison fails does not (R253). -/
def HomeKind.writes (k : HomeKind) (old : List Word) : Bool :=
  match k with
  | .cas w64 e _ => old == (if w64 then [e.extractLsb' 0 32, e.extractLsb' 32 32] else [e.extractLsb' 0 32])
  | .ldHalf _ _ => false
  | _ => true

/-- Bytes from the first on that a home operation writes anew: what was there has no part in them. -/
def HomeKind.fresh : HomeKind → Nat
  | .atom .xchg w64 _ => if w64 then 8 else 4
  | .creset _ => 8
  | .stHalf _ => 8
  | _ => 0

/-- Poison goes where a write of `n` new bytes at a place covers a protected unit (R382). -/
def State.cleanAt (s : State) (p : Place) (n : Nat) : State :=
  match p with
  | .mem pa => s.cleanPoison ((List.range n).map fun i => pa + i)
  | p => s.cleanWords p n

/-- Performs a home operation whole (R254): the state and the old value's words.  Poison travels with the value that an operation computes
from it (R382). -/
def State.homeRun (s : State) (p : Place) (k : HomeKind) : State × List Word :=
  let (l, o) := p.line
  let (line, old) := k.run (Line.of (s.readPlace l 64)) o
  let done := if k.writes old then s.writePlace p (Line.get line o k.size) else s
  (({ done with poison := s.poison, badWords := s.badWords } : State).cleanAt p k.fresh, old)

/-! ## Windows (Table 12-1) -/

/-- Who makes an access: address space, core (1024 and the die for an agent that no core holds), die, block and context. -/
structure Agent where
  asid : Nat
  core : Nat
  die : Nat
  blk : Option Nat
  ctx : Nat
  deriving DecidableEq, Repr

/-- What an address selects. -/
inductive Win where
  | glob (va : Nat)
  | place (p : Place)
  deriving DecidableEq, Repr

/-- The agent of a thread. -/
def State.agent (s : State) (k : Nat) : Agent :=
  let b := s.block (blkOf k)
  { asid := (s.ctx b.ctx).asid, core := b.core, die := dieOf b.core, blk := some (blkOf k), ctx := b.ctx }

/-- The agent of a block's engine context. -/
def State.engine (s : State) (b : Nat) : Agent := s.agent (1024 * b)

/-- The base and length in bytes of an ASID's bank segment on a die (R227). -/
def State.bankSeg (s : State) (asid die : Nat) : Nat × Nat :=
  match Tab.find s.asids asid with
  | some a => match Tab.find a.banks die with
    | some (b, l) => (b * 65536, l * 65536)
    | none => (0, 0)
  | none => (0, 0)

/-- The window that `n` bytes at a generic address lie in, none for the address trap (R225). -/
def State.window (s : State) (g : Agent) (addr n : Nat) : Option Win :=
  if addr + n ≤ 2 ^ 57 then some (.glob addr)
  else
    let o := addr % 2 ^ 56
    let c := s.ctx g.ctx
    if addr / 2 ^ 56 = 0xF0 then
      match g.blk with
      | some b => if o + n ≤ c.header.scratch then some (.place (.spad b o)) else none
      | none => none
    else if addr / 2 ^ 56 = 0xF1 then
      match g.blk, c.blocks[o / 2 ^ 20]? with
      | some _, some b => if o % 2 ^ 20 + n ≤ c.header.scratch then some (.place (.spad b (o % 2 ^ 20))) else none
      | _, _ => none
    else if addr / 2 ^ 56 = 0xF2 then
      let (base, len) := s.bankSeg g.asid g.die
      if o + n ≤ len then some (.place (.bank g.die (base + o))) else none
    else none

/-! ## Page tables -/

/-- Byte offset of a stack that exists (R231): below 48 GiB. -/
def stackBytes : Nat := 0xC_0000_0000

/-- A physical address that R231 allows. -/
def paLegal (pa : Nat) : Bool := decide (pa < 2 ^ 41) && (decide (2 ^ 40 ≤ pa) || decide (pa % 2 ^ 36 < stackBytes))

/-- Stack of a physical address of HBM. -/
def stackOf (pa : Nat) : Nat := pa / 2 ^ 36
/-- The storage of a physical address lies on a fenced die (R391). -/
def State.lost (s : State) (pa : Nat) : Bool := decide (pa < 2 ^ 40) && s.fenced.contains (stackOf pa / 4)

/-- What a walk finds before the access's rights are looked at. -/
inductive Walk where
  /-- a leaf: where the entry lies, the entry, log2 of its page size -/
  | leaf (at_ : Nat) (e : BitVec 64) (bits : Nat)
  | unmapped
  | malformed
  /-- the entry at this address is poisoned -/
  | poison (at_ : Nat)
  /-- the table lies on a fenced die -/
  | lost
  deriving DecidableEq, Repr

/-- log2 of the page size that a leaf maps at a level (Table 12-2). -/
def leafBits : Nat → Nat
  | 0 => 16
  | 1 => 21
  | _ => 30

/-- Index of a level (Table 12-2). -/
def walkIndex (va level : Nat) : Nat :=
  match level with
  | 0 => va / 2 ^ 16 % 32
  | 1 => va / 2 ^ 21 % 512
  | 2 => va / 2 ^ 30 % 512
  | _ => va / 2 ^ 39 % 2 ^ 18

/-- A bit of a page-table entry. -/
abbrev bit (e : BitVec 64) (n : Nat) : Bool := e.getLsbD n

/-- FRAME as a physical address (Table 12-4). -/
def leafFrame (e : BitVec 64) : Nat := (e.extractLsb' 16 25).toNat * 65536

/-- A leaf entry breaks Table 12-4 at a page size of `2 ^ bits`. -/
def leafMalformed (e : BitVec 64) (bits : Nat) : Bool :=
  e.extractLsb' 56 8 != 0 || e.extractLsb' 46 2 != 0 ||
    (bit e 1 && (e.extractLsb' 10 6 != 0 || decide (leafFrame e % 2 ^ bits ≠ 0) ||
      (!bit e 6 && (e.extractLsb' 41 5 != 0 || !paLegal (leafFrame e)))))

/-- A non-leaf entry that names a table of level `next` breaks Table 12-3, R231 or R232. -/
def nonLeafMalformed (e : BitVec 64) (next : Nat) : Bool :=
  let pa := (e.extractLsb' 8 33).toNat * 256
  e.extractLsb' 41 23 != 0 || e.extractLsb' 3 5 != 0 || bit e 1 || decide (2 ^ 40 ≤ pa) || !paLegal pa ||
    (decide (next ≠ 0) && decide (pa % 4096 ≠ 0))

/-- The walk of R235 from the table of a level. -/
def State.walkFrom (s : State) (va : Nat) : Nat → Nat → Walk
  | 0, table =>
    let at_ := table + 8 * walkIndex va 0
    let e := BitVec.ofNat 64 (s.memNat at_ 8)
    if s.lost at_ then .lost
    else if s.poisoned at_ 8 then .poison at_
    else if !bit e 0 then .unmapped
    else if !bit e 2 || leafMalformed e 16 then .malformed
    else .leaf at_ e 16
  | level + 1, table =>
    let at_ := table + 8 * walkIndex va (level + 1)
    let e := BitVec.ofNat 64 (s.memNat at_ 8)
    if s.lost at_ then .lost
    else if s.poisoned at_ 8 then .poison at_
    else if !bit e 0 then .unmapped
    else if bit e 2 then
      (if level + 1 = 3 || leafMalformed e (leafBits (level + 1)) then .malformed else .leaf at_ e (leafBits (level + 1)))
    else if nonLeafMalformed e level then .malformed
    else s.walkFrom va level ((e.extractLsb' 8 33).toNat * 256)

/-- The rights and the manner of an access (R235, Table 13-2). -/
structure Need where
  /-- access kind of Table 11-2 -/
  kind : BitVec 3
  r : Bool
  w : Bool
  x : Bool
  /-- it is an Accord operation -/
  accord : Bool
  deriving DecidableEq, Repr

/-- A load. -/
def Need.load : Need := { kind := 0, r := true, w := false, x := false, accord := false }
/-- A store. -/
def Need.store : Need := { kind := 1, r := false, w := true, x := false, accord := false }
/-- An atomic, `cas` or cell operation. -/
def Need.atomic : Need := { kind := 2, r := true, w := true, x := false, accord := false }
/-- A cell read. -/
def Need.cellRead : Need := { kind := 2, r := true, w := false, x := false, accord := false }
/-- An instruction fetch. -/
def Need.fetch : Need := { kind := 3, r := false, w := false, x := true, accord := false }
/-- An engine's read. -/
def Need.engineRead : Need := { kind := 4, r := true, w := false, x := false, accord := false }
/-- An engine's write. -/
def Need.engineWrite : Need := { kind := 5, r := false, w := true, x := false, accord := false }

/-- The outcome of a translation. -/
inductive Xlate where
  /-- the physical address; for an Accord operation set and byte offset in the region -/
  | ok (pa : Nat)
  | accord (set off : Nat)
  | absent
  | prot (reason : BitVec 8)
  | malformed
  | copy
  /-- a poisoned entry: the die whose stack holds it -/
  | poison (die : Nat)
  /-- the ASID's key has been destroyed (R395) -/
  | keyless
  deriving DecidableEq, Repr

/-- A resident Accord leaf names a valid set and lies in the Accord region (R369). -/
def State.accordLeaf (s : State) (e : BitVec 64) (bits : Nat) : Bool :=
  bit (Store.read s.sets (e.extractLsb' 41 5).toNat) 23 && e.extractLsb' 36 5 == 0 && decide (leafFrame e + 2 ^ bits ≤ s.accordLen)

/-- The rights check and what follows it in R235, for a leaf entry. -/
def State.leafCheck (s : State) (e : BitVec 64) (bits va : Nat) (n : Need) : Xlate :=
  if !bit e 1 then .absent
  else if bit e 6 && !s.accordLeaf e bits then .malformed
  else if (n.r && !bit e 3) || (n.w && !bit e 4) || (n.x && !bit e 5) then .prot 0x03
  else if bit e 6 && !n.accord then .prot 0x04
  else if !bit e 6 && n.accord then .prot 0x05
  else if bit e 7 && n.w then .copy
  else
    let pa := leafFrame e + va % 2 ^ bits
    if n.accord then .accord (e.extractLsb' 41 5).toNat pa
    else if s.lost pa then .prot 0x0b
    else .ok pa

/-- A cached translation that serves an access: a write needs D set (R237, R238). -/
def State.tlbFind (s : State) (g : Agent) (va : Nat) (n : Need) : Option TlbEntry :=
  s.tlb.find? fun t => decide (t.core = g.core ∧ t.asid = g.asid ∧ va / 2 ^ t.bits * 2 ^ t.bits = t.page) &&
    (!n.w || bit t.entry 9)

/-- An ASID's key has been destroyed and its teardown has not ended (R395, between steps 4 and 6). -/
def State.keyless (s : State) (asid : Nat) : Bool :=
  match Tab.find s.asids asid with
  | some a => a.closing && !a.live
  | none => false

/-- Translates a global address (R235): A and D are set, and the entry is cached, only where every check passes. -/
def State.translate (s : State) (g : Agent) (va : Nat) (n : Need) : State × Xlate :=
  match s.tlbFind g va n with
  | some t => (s, s.leafCheck t.entry t.bits va n)
  | none =>
    let root := match Tab.find s.asids g.asid with
      | some a => if a.live then some a.root else none
      | none => none
    match root with
    | none => (s, if s.keyless g.asid then .keyless else .prot 0x01)
    | some root =>
      match s.walkFrom va 3 root with
      | .unmapped => (s, .prot 0x01)
      | .malformed => (s, .malformed)
      | .poison at_ => (s, .poison (stackOf at_ / 4))
      | .lost => (s, .prot 0x0b)
      | .leaf at_ e bits =>
        let x := s.leafCheck e bits va n
        let done := match x with | .ok _ => true | .accord _ _ => true | _ => false
        if done then
          let e2 := e ||| 0x100 ||| (if n.w then 0x200 else 0)
          let s := if e2 = e then s else s.writeMem at_ (bytesOf 8 e2)
          let t : TlbEntry := { core := g.core, asid := g.asid, page := va / 2 ^ bits * 2 ^ bits, bits := bits, entry := e2 }
          ({ s with tlb := t :: s.tlb.filter fun u => !decide (u.core = g.core ∧ u.asid = g.asid ∧ u.page = t.page) }, x)
        else (s, x)

/-- The invalidation of an ASID's translations of a range (R238): the cached entries that meet it go. -/
def State.tlbDrop (s : State) (asid va len : Nat) : State :=
  { s with tlb := s.tlb.filter fun t => !(decide (t.asid = asid) && decide (t.page < va + len ∧ va < t.page + 2 ^ t.bits)) }

/-! ## Context images (R285) -/

/-- Bytes of a wave area. -/
def waveArea : Nat := 0x11000

/-- Waves of each block of a task: a spawned block may have fewer than its header gives (R187). -/
def Task.waves (t : Task) : Nat :=
  match t.kind with
  | .spawn a => a.waves
  | .phase (r :: _) => field r 0x23 1
  | _ => t.header.waves

/-- Bytes of a block's part of an image, for its header and waves. -/
def blockImage (h : Header) (waves : Nat) : Nat := 4096 + waves * waveArea + (h.scratch + 65535) / 65536 * 65536

/-- Waves of each block of a context. -/
def Ctx.waves (c : Ctx) : Nat := c.origin.waves

/-- Bytes of each block's part of a context's image. -/
def Ctx.part (c : Ctx) : Nat := blockImage c.header c.waves

/-- Bytes of the image of a task's context. -/
def Task.image (t : Task) : Nat := 4096 + t.blocks * blockImage t.header t.waves

/-- Offset of a wave's area in a context's image. -/
def Ctx.waveOffset (c : Ctx) (gidx wave : Nat) : Nat := 4096 + gidx * c.part + 4096 + wave * waveArea

/-- Offset of a wave's time-out report in the image (Table 15-4). -/
def Ctx.reportOffset (c : Ctx) (gidx wave : Nat) : Nat := c.waveOffset gidx wave + 0x10900

/-- The context of an ASID whose image holds a virtual address. -/
def State.imageAt (s : State) (asid va : Nat) : Option (Nat × Ctx) :=
  s.ctxs.find? fun (_, c) => decide (c.asid = asid) &&
    decide (c.image.toNat ≤ va ∧ va < c.image.toNat + 4096 + c.blocks.length * c.part)

/-- `n` bytes at an offset of an image lie within one report. -/
def Ctx.inReport (c : Ctx) (off n : Nat) : Bool :=
  let o := (off - 4096) % c.part - 4096
  decide (4096 ≤ off ∧ 4096 ≤ (off - 4096) % c.part ∧ o / waveArea < c.waves ∧ 0x10900 ≤ o % waveArea ∧
    o % waveArea + n ≤ 0x10900 + 1040)

/-! ## Fault record queues -/

/-- The bytes of a record (Table 11-2) with sequence 0. -/
def mkRecord (addr pc : BitVec 64) (asid : Nat) (cause : BitVec 8) (kind : BitVec 3) (replay : Bool) (size : BitVec 4)
    (core wave lane : Nat) (detail : BitVec 32) : List Byte :=
  bytesOf 8 addr ++ bytesOf 8 pc ++ natBytes 2 asid ++ [cause, size ++ BitVec.ofBool replay ++ kind] ++ natBytes 2 core ++
    natBytes 1 wave ++ natBytes 1 lane ++ bytesOf 4 detail ++ [0, 0, 0, 0]

/-- The lowest-numbered live die, for a serving die that is fenced (R239). -/
def State.liveDie (s : State) (die : Nat) : Nat :=
  if s.fenced.contains die then ((List.range 4).find? fun d => !s.fenced.contains d).getD die else die

/-- Slot address of a record number. -/
def FaultQ.slot (q : FaultQ) (n : Nat) : Nat := q.base + 32 * (n % 2 ^ q.k)

/-- Firmware's consumed index after it has passed every record at the head that needs no answer or has one. -/
def State.consume (s : State) (q : FaultQ) : Nat → FaultQ
  | 0 => q
  | fuel + 1 =>
    if q.consumed = q.append then q
    else
      let a := q.slot q.consumed
      if s.memNat (a + 0x13) 1 / 8 % 2 = 1 && decide (s.memNat (a + 0x1e) 1 = 0) then q
      else s.consume { q with consumed := q.consumed + 1 } fuel

/-- Appends a record to a die's queue (R239); none where it is full or there is no queue. -/
def State.appendRec (s : State) (die : Nat) (rec : List Byte) : Option (State × Nat) :=
  match Tab.find s.faultQ die with
  | none => none
  | some q =>
    if 2 ^ q.k ≤ q.append - q.consumed then none
    else
      let n := q.append
      let s := s.writeMem (q.slot n) (rec.take 0x1c ++ natBytes 2 n ++ rec.drop 0x1e)
      some ({ s with faultQ := Tab.put s.faultQ die { q with append := n + 1 } }, n)

/-- Appends a record that names no waiting thread; it waits for a slot where the queue is full (R239). -/
def State.pushRec (s : State) (die : Nat) (rec : List Byte) : State :=
  let d := s.liveDie die
  let waiting := Tab.getD s.recWait d []
  let add (s : State) : State := { s with recWait := Tab.put s.recWait d (waiting ++ [rec]) }
  if waiting.isEmpty then
    match s.appendRec d rec with
    | some (s, _) => s
    | none => if (Tab.find s.faultQ d).isSome then add s else s
  else add s

/-- Appends a record of an agent that waits where the queue is full: none then (R239). -/
def State.tryRec (s : State) (die : Nat) (rec : List Byte) : Option State :=
  let d := s.liveDie die
  if (Tab.find s.faultQ d).isNone then some s
  else if !(Tab.getD s.recWait d []).isEmpty then none
  else (s.appendRec d rec).map Prod.fst

/-- Appends the records that wait for slots of a die's queue, oldest first, as far as they go. -/
def State.drainRecs (s : State) (die : Nat) : Nat → State
  | 0 => s
  | fuel + 1 =>
    match Tab.getD s.recWait die [] with
    | [] => s
    | r :: l =>
      match s.appendRec die r with
      | none => s
      | some (s, _) => State.drainRecs { s with recWait := Tab.put s.recWait die l } die fuel

/-! ## Places of an access -/

/-- Why an access is not performed. -/
inductive Stop where
  | trap (i : TrapInfo)
  /-- the trap, with the record of a malformed entry (R240) -/
  | malformed (i : TrapInfo)
  /-- the replayable translation fault at an address (R220) -/
  | absent (va : Nat) (kind : BitVec 3) (n : Nat)
  /-- a shared page to be copied first (R236) -/
  | copy (va : Nat)
  /-- poison consumed at an address (R383) -/
  | poison (va : Nat)
  /-- poisoned firmware data on a die (R383) -/
  | fence (die : Nat)
  /-- the ASID's key has been destroyed (R395): the context is killed -/
  | keyless (va : Nat) (kind : BitVec 3) (n : Nat)
  deriving DecidableEq, Repr

/-- log2 of an access size. -/
def sizeLog (n : Nat) : BitVec 4 := BitVec.ofNat 4 (Nat.log2 n)

/-- A trap of an access at an address. -/
def accTrap (cause : BitVec 8) (addr : Nat) (detail : BitVec 32) (kind : BitVec 3) (n : Nat) : TrapInfo :=
  { cause := cause, addr := BitVec.ofNat 64 addr, detail := detail, kind := kind, size := sizeLog n }

/-- Detail of a protection trap (R235). -/
def protDetail (reason : BitVec 8) (kind : BitVec 3) : BitVec 32 :=
  reason.zeroExtend 32 ||| (kind.zeroExtend 32 <<< 8)

/-- The outcome of a translation as a place or a stop. -/
def placeOf (va n : Nat) (d : Need) (x : Xlate) : Except Stop Place :=
  match x with
  | .ok pa => .ok (.mem pa)
  | .accord set off => .ok (.mem (set * 2 ^ 41 + off))
  | .absent => .error (.absent va d.kind n)
  | .prot r => .error (.trap (accTrap 0x09 va (protDetail r d.kind) d.kind n))
  | .malformed => .error (.malformed (accTrap 0x09 va (protDetail 0x02 d.kind) d.kind n))
  | .copy => .error (.copy va)
  | .poison die => .error (.fence die)
  | .keyless => .error (.keyless va d.kind n)

/-- Finds the place of an access of `n` bytes, its checks in the order of R243: window, alignment to `align`, translation,
host memory.  `host` says that host memory is allowed.  Context images are met before the walk (R285). -/
def State.locate (s : State) (g : Agent) (addr n align : Nat) (d : Need) (host : Bool) : State × Except Stop Place :=
  match s.window g addr n with
  | none => (s, .error (.trap (accTrap 0x07 addr 0 d.kind n)))
  | some w =>
    if addr % align ≠ 0 then (s, .error (.trap (accTrap 0x06 addr 0 d.kind n)))
    else
      match w with
      | .place p => (s, .ok p)
      | .glob va =>
        match s.imageAt g.asid va with
        | some (k, c) =>
          let off := va - c.image.toNat
          if decide (k = g.ctx) && decide (d.kind = 0) && c.inReport off n then (s, .ok (.image k off))
          else (s, .error (.trap (accTrap 0x09 va (protDetail 0x03 d.kind) d.kind n)))
        | none =>
          match s.translate g va d with
          | (s, x) =>
            match placeOf va n d x with
            | .ok (.mem pa) =>
              if !host && decide (2 ^ 40 ≤ pa) && !d.accord then
                (s, .error (.trap (accTrap 0x09 va (protDetail 0x07 d.kind) d.kind n)))
              else (s, .ok (.mem pa))
            | r => (s, r)

end Sys2Proof.Machine
end

