-- ==== Sys2Proof/Machine/Ops.lean ====
section
/-!
DEFINITION. The shared operations of threads: the checks at issue (R67), retiring an instruction, runs and groups (R60 to
R66, R177), taking a trap and returning from one (R276 to R281), kills (R279), parking (R220 to R222), home operations
(R254), releases and acquires (R248, R251), barriers (R162, R199), joins (R197), convergent instructions (R121 to R129)
and register grants (R213).
-/
namespace Sys2Proof.Machine

/-- Outcomes of this machine. -/
abbrev Out := Host.Outcome State Fault Refusal

/-- Clocks of a number of microseconds: 2.4 GHz nominal (R403). -/
def clocksOf (us : Nat) : Nat := us * 2400

/-! ## Firmware's events (R409) -/

/-- Posts an event, or counts it lost where the log is full. -/
def State.postEvent (s : State) (type asid : Nat) (payload : List Byte) : State :=
  let h := s.host
  if 256 ≤ h.evPosted.toNat - h.evAck.toNat then { s with host := { h with evLost := h.evLost + 1 } }
  else
    let n := h.evPosted.toNat
    let e := natBytes 2 type ++ natBytes 2 asid ++ natBytes 4 0 ++ natBytes 8 n ++ payload
    let e := e ++ List.replicate (64 - e.length) 0
    let h := { h with log := Store.writes h.log (64 * (n % 256)) e, evPosted := h.evPosted + 1 }
    { s with host := if h.ien.getLsbD 1 then { h with msix := 1 :: h.msix } else h }

/-- The next outcome of an open choice among `n`. -/
def State.pick (s : State) (n : Nat) : Nat × State :=
  match s.picks with
  | [] => (0, s)
  | p :: r => (p % n, { s with picks := r })

/-! ## Threads and groups -/

/-- Threads of a context. -/
def State.ctxThreads (s : State) (c : Nat) : List (Nat × Thread) :=
  s.threads.filter fun (k, _) => (s.ctx c).blocks.contains (blkOf k)

/-- Threads of a block. -/
def State.blockThreads (s : State) (b : Nat) : List (Nat × Thread) := s.threads.filter fun (k, _) => blkOf k == b

/-- Threads of a wave. -/
def State.waveThreads (s : State) (w : Nat) : List (Nat × Thread) := s.threads.filter fun (k, _) => waveKey k == w

/-- The thread that executes: `cur`, when it exists and is ready. -/
def State.runner (s : State) : Option Thread :=
  match Tab.find s.threads s.cur with
  | some t => if t.status = .ready then some t else none
  | none => none

/-- A thread with the answers that the results it still awaits have received in another record of it. -/
def Thread.withAnswers (t old : Thread) : Thread :=
  { t with pend := t.pend.map fun p =>
      if p.vals.isSome || old.pend.contains p then p else (old.pend.find? fun q => q.order == p.order).getD p }

/-- A thread's record with the answers that have come in since it was read. -/
def State.current (s : State) (k : Nat) (t : Thread) : Thread :=
  match Tab.find s.threads k with
  | some old => t.withAnswers old
  | none => t

/-- Sets a thread's record. -/
def State.setThread (s : State) (k : Nat) (t : Thread) : State := { s with threads := Tab.put s.threads k t }

/-- Puts a thread back; results that were answered in the meantime keep their answers. -/
def State.putThread (s : State) (k : Nat) (t : Thread) : State := s.setThread k (s.current k t)

/-- The PC behind an instruction with a number of literal words (R43). -/
def nextPc (pc : Pair) (lits : Nat) : Pair := pc + BitVec.ofNat 64 (4 * (1 + lits))

/-- A waiting thread goes on behind its instruction. -/
def State.wake (s : State) (k : Nat) (t : Thread) (lits : Nat) : State :=
  s.putThread k { t with status := .ready, pc := nextPc t.pc lits, readyAt := s.clock, order := t.order + 1 }

/-- A wait is withdrawn: the thread is ready at the instruction and issues it again. -/
def State.withdraw (s : State) (k : Nat) (t : Thread) : State :=
  s.putThread k { t with status := .ready, readyAt := s.clock }

/-! ## Register grants (R210, R213) -/

/-- A wave has a thread that has not exited. -/
def State.waveLive (s : State) (w : Nat) : Bool := (s.waveThreads w).any fun (_, t) => t.status != .exited

/-- Wave-blocks of a core's extension budget in use (R210). -/
def State.extension (s : State) (core : Nat) : Nat :=
  (s.waves.filter fun (w, _) =>
      let b := s.block (w / 32)
      b.core == core && (s.ctx b.ctx).state != .out && s.waveLive w).foldl
    (fun n (w, v) => n + (v.alloc - (s.ctx (s.block (w / 32)).ctx).header.base) / 64) 0

/-- A wave's allocation rises to `n`: the registers that join it read 0 in every lane (R209, R218). -/
def State.joinRegs (s : State) (w n : Nat) : State :=
  let a := (Tab.getD s.waves w Wave.absent).alloc
  if n ≤ a then s
  else
    { s with
      threads := Tab.mapVal s.threads fun k t =>
        if waveKey k == w then { t with regs := t.regs.filter (fun (r, _) => decide (r < a)), bad := t.bad.filter fun r => decide (r < a) } else t
      waves := Tab.upd s.waves w fun v => { v with alloc := n } }

/-- Threads of a wave whose target its allocation has reached receive it and go on. -/
def State.racqRelease (s : State) (w a : Nat) : State :=
  (s.waveThreads w).foldl (fun s (k, t) =>
    match t.status with
    | .waiting (.racq ds target) lits =>
      if target ≤ a then s.wake k (t.putRegs ds [BitVec.ofNat 32 a]) lits else s
    | _ => s) s

/-- Serves a core's queued requests from the head, as far as the budget covers them. -/
def State.racqServe (s : State) (core : Nat) : Nat → State
  | 0 => s
  | fuel + 1 =>
    match Tab.getD s.racqs core [] with
    | [] => s
    | q :: r =>
      let a := (Tab.getD s.waves q.wave Wave.absent).alloc
      if s.extension core + (q.target - a) / 64 ≤ 64 then
        let s := { s with racqs := Tab.put s.racqs core r }
        let s := s.joinRegs q.wave q.target
        (s.racqRelease q.wave (max a q.target)).racqServe core fuel
      else s

/-- Serves a core's queue whole. -/
def State.racqGrant (s : State) (core : Nat) : State := s.racqServe core (Tab.getD s.racqs core []).length

/-- A wave's request shrinks to the largest target of its waiting threads, or leaves the queue (R213). -/
def State.racqShrink (s : State) (w : Nat) : State :=
  let core := (s.block (w / 32)).core
  let ts := (s.waveThreads w).filterMap fun (_, t) => match t.status with | .waiting (.racq _ n) _ => some n | _ => none
  let q := Tab.getD s.racqs core []
  let q := if ts.isEmpty then q.filter (fun x => x.wave != w)
    else q.map fun x => if x.wave == w then { x with target := ts.foldl max 0 } else x
  ({ s with racqs := Tab.put s.racqs core q }).racqGrant core

/-- A wave's request for a target joins its core's queue, or grows in place (R213). -/
def State.racqQueue (s : State) (w n : Nat) : State :=
  let core := (s.block (w / 32)).core
  let q := Tab.getD s.racqs core []
  let q : List RacqReq := if q.any fun x => x.wave == w then
      q.map fun x => if x.wave == w then { x with target := max x.target n } else x
    else q ++ [{ wave := w, target := n }]
  { s with racqs := Tab.put s.racqs core q }

/-- What a thread that has arrived at a `racq` asks for: its destination, target, form and literal words. -/
def Thread.racqAsks (t : Thread) : Option (List RegId × Nat × Bool × Nat) :=
  match t.status with
  | .waiting (.racqJoin ds n try_) lits => some (ds, n, try_, lits)
  | _ => none

/-- The largest target that arrived threads of a wave ask for in a form. -/
def State.racqLargest (s : State) (ks : List Nat) (try_ : Bool) : Nat :=
  (ks.filterMap fun k => match (Tab.find s.threads k).bind Thread.racqAsks with
    | some (_, n, f, _) => if f = try_ then some n else none
    | none => none).foldl max 0

/-- One thread of a `racq` once its group's try has been made: it goes on where its target is reached or it only tried, and waits for the
request otherwise (R212). -/
def State.racqOne (s : State) (k : Nat) : State :=
  match Tab.find s.threads k with
  | none => s
  | some t =>
    match t.racqAsks with
    | none => s
    | some (ds, n, try_, lits) =>
      let a := (Tab.getD s.waves (waveKey k) Wave.absent).alloc
      if try_ || decide (n ≤ a) then s.wake k (t.putRegs ds [BitVec.ofNat 32 a]) lits
      else s.putThread k { t with status := .waiting (.racq ds n) lits }

/-- The request that the threads of a wave make together (R212, R213): the largest target of those that try is taken if the budget has
room and no request of the core is queued; the largest target of those that wait joins the queue. -/
def State.racqWave (s : State) (w : Nat) (ks : List Nat) : State :=
  let core := (s.block (w / 32)).core
  let a := (Tab.getD s.waves w Wave.absent).alloc
  let m := s.racqLargest ks true
  let n := s.racqLargest ks false
  let s := if decide (a < m) && (Tab.getD s.racqs core []).isEmpty && decide (s.extension core + (m - a) / 64 ≤ 64) then s.joinRegs w m else s
  let s := ks.foldl State.racqOne s
  if a < n then (s.racqQueue w n).racqGrant core else s

/-- Threads that have executed a `racq` together make their request, wave by wave. -/
def State.racqTogether (s : State) (ks : List Nat) : State :=
  let ks := ks.filter fun k => ((Tab.find s.threads k).bind Thread.racqAsks).isSome
  (dedup (ks.map waveKey)).foldl (fun s w => s.racqWave w (ks.filter fun k => waveKey k == w)) s

/-! ## Groups in their runs -/

/-- The group in whose run a thread is. -/
def State.groupOf (s : State) (k : Nat) : Option (Nat × Group) := s.groups.find? fun (_, g) => !g.ended && g.members.contains k

/-- A thread waits at a convergent instruction: its group stalls in place (R65). -/
def Thread.inConv (t : Thread) : Bool :=
  match t.status with
  | .waiting (.conv _ _ _) _ => true
  | _ => false

/-- The allocations of the waves of some threads. -/
def State.allocsOf (s : State) (ms : List Nat) : Tab Nat :=
  ms.foldl (fun m k => Tab.put m (waveKey k) (Tab.getD s.waves (waveKey k) Wave.absent).alloc) []

/-- A thread's allocation at the issue of the instruction that it executes (R51, R212): a group's threads execute it together on the
hardware, and one after the other in this model. -/
def State.allocAt (s : State) (k : Nat) : Nat :=
  match s.groupOf k with
  | some (_, g) => Tab.getD g.allocs (waveKey k) (s.wave k).alloc
  | none => (s.wave k).alloc

/-- Results with a destination are still to be written. -/
def Thread.busy (t : Thread) : Bool := t.pend.any fun p => !p.dests.isEmpty

/-- The end of a group's run (R60, R64): its members may touch what the run's class V instructions wrote, and they have
become ready at their new PC.  The scheduler keeps a group that has no result outstanding (R178); one that has executed `yld` is kept until
its yield (R207). -/
def State.endRun (s : State) (gk : Nat) (g : Group) : State :=
  let busy := s.threads.any fun (k, t) => g.members.contains k && t.busy
  let others := s.groups.filter fun (k, h) => k != gk && !(h.ended && h.core == g.core && h.part == g.part)
  { s with
    threads := Tab.mapVal s.threads fun k t => if g.members.contains k then { t with runV := [], readyAt := s.clock } else t
    groups := if busy && decide (g.runs < 16) then others
      else Tab.put others gk { g with ended := true, runs := g.runs + 1, todo := [], count := g.count } }

/-- A group goes on to its next instruction once every member has executed the current one (R60, R65). -/
def State.groupNext (s : State) (gk : Nat) : State :=
  match Tab.find s.groups gk with
  | none => s
  | some g =>
    if g.ended || !g.todo.isEmpty || g.count == 64 then s
    else if g.members.isEmpty then { s with groups := Tab.del s.groups gk }
    else if g.members.any fun k => match Tab.find s.threads k with | some t => t.inConv | none => false then s
    else if g.closing then s.endRun gk { g with count := g.count + 1 }
    else if g.count + 1 = 64 then { s with groups := Tab.put s.groups gk { g with count := 64 } }
    else
      let h := { g with count := g.count + 1, todo := g.members, issue := s.ticket, began := s.clock, allocs := s.allocsOf g.members }
      { s with groups := Tab.put s.groups gk h, ticket := s.ticket + 1 }

/-- A thread has executed its group's current instruction; `sw` is the instruction's marker. -/
def State.groupDone (s : State) (k : Nat) (sw : Bool) : State :=
  match s.groupOf k with
  | none => s.updThread k fun t => if sw then { t with runV := [], readyAt := s.clock } else t
  | some (gk, g) =>
    ({ s with groups := Tab.put s.groups gk { g with todo := g.todo.filter (· != k), closing := sw } }).groupNext gk

/-- A thread leaves its group (R65). -/
def State.leaveGroup (s : State) (k : Nat) : State :=
  match s.groupOf k with
  | none => s
  | some (gk, g) =>
    let g := { g with members := g.members.filter (· != k), todo := g.todo.filter (· != k) }
    ({ s with groups := Tab.put s.groups gk g }).groupNext gk

/-- Retires an instruction of a thread, whose record is up to date, that goes on at a PC. -/
def State.retireAs (s : State) (k : Nat) (t : Thread) (pc : Pair) (sw : Bool) : State :=
  (s.setThread k { t with pc := pc, stall := none, order := t.order + 1 }).groupDone k sw

/-- Retires an instruction of a thread that goes on at a PC. -/
def State.retireTo (s : State) (k : Nat) (t : Thread) (pc : Pair) (sw : Bool) : State := s.retireAs k (s.current k t) pc sw

/-- Retires an instruction of a thread that goes on behind it (R43). -/
def State.retire (s : State) (k : Nat) (t : Thread) (lits : Nat) (sw : Bool) : State :=
  s.retireTo k t (nextPc t.pc lits) sw

/-- Raises status bits of a thread's home wave (R41). -/
def State.raise (s : State) (k : Nat) (flags : Word) : State :=
  if flags = 0 then s else s.updWave (waveKey k) fun w => { w with status := w.status ||| (flags &&& statusBits) }

/-- The floating-point trap that flags of an instruction at a PC make due (R42, R278). -/
def State.fpDue (s : State) (k : Nat) (t : Thread) (flags : Word) (pc : Pair) (order : Nat) : List Due :=
  let e := (s.ctxOf k).header.trapEn.zeroExtend 32 &&& flags
  if e = 0 || t.inHandler then []
  else [{ info := { cause := 0x0d, addr := 0, detail := e, kind := 0, size := 0 }, faultPc := pc, order := order }]

/-- Adds a due trap in program order (R411). -/
def addDue (l : List Due) (d : List Due) : List Due :=
  d.foldl (fun l d => l.filter (fun x => x.order ≤ d.order) ++ [d] ++ l.filter (fun x => d.order < x.order)) l

/-- Finishes a class F instruction: writes its registers, raises its flags, retires it (R41, R42, R62). -/
def State.finishF (s : State) (k : Nat) (t : Thread) (ds : List RegId) (vs : List Word) (flags : Word) (lits : Nat)
    (sw : Bool) : State :=
  let t1 := { t.putRegs ds vs with due := addDue t.due (s.fpDue k t flags t.pc t.order) }
  (s.raise k flags).retire k t1 lits sw

/-- Finishes the issue of a class V instruction whose result is written later (R64): `vals` are the values, or none while
its unit has not answered. -/
def State.finishV (s : State) (k : Nat) (t : Thread) (ds : List RegId) (vals : Option (List Word)) (flags : Word)
    (traps : Bool) (fault : Option TrapInfo) (lits : Nat) (sw : Bool) : State :=
  let p : Pend := { order := t.order, dests := ds, vals := vals, flags := flags, traps := traps, fault := fault, pc := t.pc }
  let idle := ds.isEmpty && flags == 0 && fault.isNone && vals.isSome
  let t0 := s.current k t
  let t1 := { t0 with pend := if idle then t0.pend else t0.pend ++ [p], runV := t0.runV ++ ds }
  s.retireAs k t1 (nextPc t.pc lits) sw

/-- When a thread's instruction issued: with its group, or, where the thread stalled at it in place, now that the stall is over. -/
def State.issueClock (s : State) (k : Nat) (t : Thread) : Nat :=
  match t.stall, s.groupOf k with
  | none, some (_, g) => g.began
  | _, _ => s.clock

/-- A wait that pre-emption and context stops withdraw (R283, R286). -/
def Wait.withdrawn : Wait → Bool
  | .join _ _ => true
  | .conv _ _ _ => true
  | .phend => true
  | .racq _ _ => true
  | .racqJoin _ _ try_ => !try_
  | .timeline _ _ => true
  | _ => false

/-- A stall in place that is withdrawn. -/
def StallKind.withdrawn : StallKind → Bool
  | .mck => true
  | .seval => true
  | .sst => true
  | .wcnt _ => true
  | _ => false

/-- A thread's record once its wait is withdrawn: it is ready at the instruction, outside any run. -/
def Thread.withdrawnFrom (t : Thread) (w : Option Wait) (clock : Nat) : Thread :=
  { t with status := .ready, readyAt := clock, stall := none, runV := [], run := 0
           arrivals := if w = some .phend then Tab.del t.arrivals 32 else t.arrivals }

/-- Waits that are withdrawn do not begin in a thread whose context stops or is pre-empted, unless the debugger has let it go (R283,
R286). -/
def State.waitsOff (s : State) (k : Nat) (t : Thread) : Bool :=
  match (s.ctxOf k).state with
  | .running => false
  | .debugStop => !t.freed
  | _ => true

/-- A thread stalls in place at its instruction (R65): it tries again, behind the group's other threads; `held` are the registers that the
instruction names, which it still reads or writes (R214).  In a context that stops or is pre-empted, a wait that is withdrawn does not begin
(R283, R286). -/
def State.stallAt (s : State) (k : Nat) (t : Thread) (x : StallKind) (held : List RegId := []) : State :=
  if x.withdrawn && s.waitsOff k t then (s.leaveGroup k).putThread k (t.withdrawnFrom none s.clock)
  else
    let since := match t.stall with | some (y, n) => if y = x then n else s.issueClock k t | none => s.issueClock k t
    let s := s.putThread k { t with stall := some (x, since), held := held }
    match s.groupOf k with
    | none => s
    | some (gk, g) => { s with groups := Tab.put s.groups gk { g with todo := g.todo.filter (· != k) ++ [k] } }

/-- A thread waits at its instruction; `sw` says whether its run ends there.  In a context that stops or is pre-empted, a wait that is
withdrawn does not begin: the thread is left at the instruction (R123, R198, R208, R213, R283). -/
def State.waitAt (s : State) (k : Nat) (t : Thread) (w : Wait) (lits : Nat) (sw : Bool) : State :=
  if w.withdrawn && s.waitsOff k t then (s.leaveGroup k).putThread k (t.withdrawnFrom (some w) s.clock)
  else (s.putThread k { t with status := .waiting w lits, since := s.issueClock k t, stall := none }).groupDone k sw

/-! ## Barriers (R162, R199) -/

/-- A thread's wait at a barrier has completed.  What a handler waits for there leaves the instruction that timed out to act as `wt`
after the `eret` (R162). -/
def Thread.barWaited (t : Thread) (key : Nat) : Thread :=
  { t with arrivals := Tab.del t.arrivals key, again := if t.inHandler then t.again else Tab.del t.again key }

/-- The waiters of a barrier whose phase is behind go on; an arrival that had to wait first is tried again. -/
def State.barRelease (s : State) (gang : Bool) (i phase : Nat) (ks : List (Nat × Thread)) : State :=
  let key := if gang then i + 16 else i
  ks.foldl (fun s (k, t) =>
    let t' := t.barWaited key
    match t.status with
    | .waiting (.bar j p) lits => if !gang && j == i && decide (p < phase) then s.wake k t' lits else s
    | .waiting (.gbar j p) lits => if gang && j == i && decide (p < phase) then s.wake k t' lits else s
    | .waiting (.barFirst g j p _) _ =>
      if g == gang && j == i && decide (p < phase) then s.withdraw k t' else s
    | _ => s) s

/-- Whether a barrier's phase is complete: every thread has arrived or exited, and some thread has arrived. -/
def barComplete (b : Barrier) (ts : List (Nat × Thread)) : Bool :=
  !b.arrived.isEmpty && ts.all fun (k, t) => t.status == .exited || b.arrived.contains k

/-- Acquire at gang scope of the threads that a gang barrier releases (R162). -/
def State.gangAcquire (s : State) (c : Ctx) : State :=
  c.blocks.foldl (fun s b => s.l1Invalidate (s.block b).core c.asid) s

/-- A barrier before its first use (R162, R199). -/
def Barrier.new : Barrier := { phase := 0, arrived := [] }

/-- Completes a barrier of a block if its phase is complete. -/
def State.barEnd (s : State) (b i : Nat) (ts : List (Nat × Thread)) : State :=
  let x := Tab.getD (s.block b).bars i Barrier.new
  if barComplete x ts then
    (s.updBlock b fun y => { y with bars := Tab.put y.bars i { phase := x.phase + 1, arrived := [] } }).barRelease
      false i (x.phase + 1) ts
  else s

/-- Completes every barrier of a block whose phase is complete. -/
def State.barSettle (s : State) (b : Nat) : State :=
  let ts := s.blockThreads b
  (List.range 16).foldl (fun s i => s.barEnd b i ts) s

/-- Completes a gang barrier of a context if its phase is complete. -/
def State.gbarEnd (s : State) (c i : Nat) (ts : List (Nat × Thread)) : State :=
  let x := Tab.getD (s.ctx c).gbars i Barrier.new
  if barComplete x ts then
    let s := s.updCtx c fun y => { y with gbars := Tab.put y.gbars i { phase := x.phase + 1, arrived := [] } }
    (s.gangAcquire (s.ctx c)).barRelease true i (x.phase + 1) ts
  else s

/-- Completes every gang barrier of a context whose phase is complete. -/
def State.gbarSettle (s : State) (c : Nat) : State :=
  let ts := s.ctxThreads c
  (List.range 16).foldl (fun s i => s.gbarEnd c i ts) s

/-! ## Joins (R196, R197) -/

/-- The bits of a mask as lanes that a set covers. -/
def maskWithin (mask set : BitVec 32) : Bool := (mask &&& ~~~set) == 0

/-- One lane's bit. -/
def laneBit (l : Nat) : BitVec 32 := BitVec.ofNat 32 (2 ^ l)

/-- The largest subset of waiting threads (lane, mask) that R197 releases, `d` the exited and absent lanes. -/
def joinSet (w : List (Nat × BitVec 32)) (d : BitVec 32) : Nat → List (Nat × BitVec 32)
  | 0 => w
  | n + 1 =>
    let set := w.foldl (fun m x => m ||| laneBit x.1) d
    joinSet (w.filter fun x => maskWithin x.2 (set ||| laneBit x.1)) d n

/-- Releases what R197 releases at one id of a wave. -/
def State.joinAt (s : State) (w : Nat) (id : BitVec 7) : State :=
  let ts := s.waveThreads w
  let waiting := ts.filterMap fun (k, t) => match t.status with
    | .waiting (.join i m) _ => if i = id then some (laneOf k, m) else none
    | _ => none
  let present := ts.foldl (fun m (k, t) => if t.status = .exited then m else m ||| laneBit (laneOf k)) (0 : BitVec 32)
  let r := joinSet waiting (~~~present) 32
  ts.foldl (fun s (k, t) =>
    match t.status with
    | .waiting (.join i _) lits => if i = id && r.any (fun x => x.1 == laneOf k) then s.wake k t lits else s
    | _ => s) s

/-- Ids at which threads of a wave wait. -/
def State.joinIds (s : State) (w : Nat) : List (BitVec 7) :=
  (s.waveThreads w).foldl (fun l (_, t) => match t.status with
    | .waiting (.join i _) _ => if l.contains i then l else l ++ [i]
    | _ => l) []

/-- Tests every id of a wave. -/
def State.joinSettle (s : State) (w : Nat) : State := (s.joinIds w).foldl (fun s i => s.joinAt w i) s

/-! ## Exits -/

/-- The home wave, block and gang of a key are looked at again after an exit or a withdrawal, but for its convergent
instructions. -/
def State.settle (s : State) (k : Nat) : State :=
  let s := s.joinSettle (waveKey k)
  let s := s.barSettle (blkOf k)
  let s := s.gbarSettle (s.block (blkOf k)).ctx
  s.racqGrant (s.coreOf k)

/-! ## Acquires (Table 13-3) and timelines (R132, R208) -/

/-- A scope carries cache actions. -/
def scopeWide : Scope → Bool
  | .wave => false
  | .block => false
  | _ => true

/-- The acquire action of a scope in a thread. -/
def State.acquire (s : State) (k : Nat) (f : Scope) : State :=
  if scopeWide f then s.l1Invalidate (s.coreOf k) (s.ctxOf k).asid else s

/-- The completed prefix of a set of numbers. -/
def donePrefix (l : List Nat) : Nat → Nat → Nat
  | 0, n => n
  | fuel + 1, n => if l.contains (n + 1) then donePrefix l fuel (n + 1) else n

/-- Value of a timeline for a thread (R132). -/
def State.timeline (s : State) (k : Nat) (e : Engine) : Nat :=
  let b := s.block (blkOf k)
  let asid := (s.ctx b.ctx).asid
  let die := dieOf b.core
  let full (l : List Nat) : Nat := donePrefix l l.length 0
  match e with
  | .copy => full b.copyDone
  | .matrix => b.matDone
  | .sillage => match Tab.find s.sillage (clusterOf b.core) with
    | some g => full (Tab.getD g.ended asid [])
    | none => 0
  | .ports => match Tab.find s.asids asid with | some a => full (Tab.getD a.portDone die []) | none => 0
  | .bank => match Tab.find s.asids asid with | some a => full (Tab.getD a.bankDone die []) | none => 0

/-- The acquire of a completed `wait` (R208, R271); n of 0 acquires nothing. -/
def State.waitAcquire (s : State) (k n : Nat) : State := if n = 0 then s else s.acquire k .device

/-- Waiters whose timeline value has come go on. -/
def State.timelineSettle (s : State) : State :=
  s.threads.foldl (fun s (k, t) =>
    match t.status with
    | .waiting (.timeline e n) lits => if n ≤ s.timeline k e then (s.waitAcquire k n).wake k t lits else s
    | _ => s) s

/-! ## Faults, kills and traps -/

/-- Bytes of a record of a thread's fault. -/
def State.threadRec (s : State) (k : Nat) (i : TrapInfo) (pc : Pair) (replay : Bool) : List Byte :=
  mkRecord i.addr pc (s.ctxOf k).asid i.cause i.kind replay i.size (s.coreOf k) (waveOf k) (laneOf k) i.detail

/-- Sets the outcome byte of a record that is still in its ring (R223, R224). -/
def State.setOutcome (s : State) (die n : Nat) (o : BitVec 8) : State :=
  match Tab.find s.faultQ die with
  | none => s
  | some q => if q.append - n ≤ 2 ^ q.k then s.writeMem (q.slot n + 0x1e) [o] else s

/-- Replayable records of a context that are pending (R224). -/
def State.pendingRecs (s : State) (c : Nat) : List (Nat × Nat) :=
  let ts := (s.ctxThreads c).filterMap fun (_, t) => match t.status with | .parked d n => some (d, n) | _ => none
  let es := (s.ctx c).blocks.flatMap fun b => (s.block b).copyQ.filterMap fun x => x.stalled
  let ps := (s.txs.filter fun (_, x) => (s.ctx c).blocks.contains (blkOf x.thread)).filterMap fun (_, x) => x.stalled
  ts ++ es ++ ps

/-- Requests of samples handed to threads of these blocks return to the head of their queues, oldest first (R366). -/
def Sillage.requeue (g : Sillage) (blocks : List Nat) : Sillage :=
  let back := (g.samples.filter fun (_, x) => x.request == 2 && blocks.contains (blkOf x.taker)).map Prod.fst
  { g with samples := Tab.mapVal g.samples fun i x => if back.contains i then { x with request := 1, taker := 0 } else x
           queue := back ++ g.queue }

/-- Bytes of a task in the context pool: its phase records (Table 8-2), or the 64 bytes that a spawned task takes. -/
def Task.bytes (t : Task) : Nat :=
  match t.kind with
  | .gang _ => 0
  | .phase l => l.foldl (fun n r => n + r.length) 0
  | .spawn _ => 64

/-- Bytes of a context in the context pool: its image, and the record it was placed from. -/
def Ctx.bytes (c : Ctx) : Nat := 4096 + c.blocks.length * c.part + c.origin.bytes

/-- The puts and gets of some blocks' threads that have not been sent are abandoned; their numbers count as done (R279, R332). -/
def State.dropTxs (s : State) (blocks : List Nat) : State :=
  let gone := s.txs.filter fun (_, x) => blocks.contains (blkOf x.thread) && !x.sent
  let s := { s with txs := s.txs.filter fun (_, x) => !(blocks.contains (blkOf x.thread) && !x.sent) }
  if gone.isEmpty then s
  else (gone.foldl (fun s (_, x) => s.updAsid x.asid fun a =>
    { a with portDone := Tab.put a.portDone x.die (Tab.getD a.portDone x.die [] ++ [x.n]) }) s).timelineSettle

/-! ## Performing home operations (R254) -/

/-- Answers a pending class V result. -/
def State.answer (s : State) (k order : Nat) (vals : List Word) (flags : Word) : State :=
  s.updThread k fun t => { t with pend := t.pend.map fun p =>
    if p.order = order && p.vals.isNone then { p with vals := some vals, flags := flags } else p }

/-- The core of a thread writes back and invalidates its L1 line of a place (R245). -/
def State.dropLineAt (s : State) (core : Nat) (p : Place) : State :=
  match p with
  | .mem pa => s.l1Drop (l1Key core pa)
  | _ => s

/-- A thread reads bytes at a place: global memory through its core's L1. -/
def State.plainLoad (s : State) (k : Nat) (p : Place) (n : Nat) : State × List Byte :=
  match p with
  | .mem pa => s.l1Read (s.coreOf k) (s.ctxOf k).asid pa n
  | p => (s, s.readPlace p n)

/-- A thread stores bytes at a place: in global memory, into its core's L1. -/
def State.plainStore (s : State) (k : Nat) (p : Place) (b : List Byte) : State :=
  match p with
  | .mem pa => s.l1Store (s.coreOf k) (s.ctxOf k).asid pa b (some (s.block (blkOf k)).ctx)
  | p => s.writePlace p b

/-- A `bnk` is done: its number joins those that its timeline counts (R258). -/
def State.bankEnd (s : State) (h : HomeOp) : State :=
  match h.kind with
  | .bnk _ _ =>
    let die := match h.place with | .bank d _ => d | _ => 0
    (s.updAsid h.asid fun a => { a with bankDone := Tab.put a.bankDone die (Tab.getD a.bankDone die [] ++ [h.n]) }).timelineSettle
  | _ => s

/-- The words that a home operation returns: the old value, or a `bnk`'s number. -/
def HomeOp.result (h : HomeOp) (old : List Word) : List Word :=
  match h.kind with
  | .bnk _ _ => pairWords (BitVec.ofNat 64 h.n)
  | .ldHalf upper got => if upper then got ++ old else old ++ got
  | _ => old

/-- A result that the thread awaits is answered. -/
def State.answerOp (s : State) (h : HomeOp) (old : List Word) : State :=
  match h.order with
  | some o => s.answer h.thread o (h.result old) 0
  | none => s

/-- Performs an operation: the half of an access of the thread through its core's L1, another at the home, after the issuing core's dirty
bytes of the line (R244, R245, R254). -/
def State.performOp (s : State) (h : HomeOp) : State :=
  let run : State := let (s, old) := s.homeRun h.place h.kind; (s.bankEnd h).answerOp h old
  if (Tab.find s.threads h.thread).isNone then run
  else
    match h.kind with
    | .ldHalf _ _ => let (s, b) := s.plainLoad h.thread h.place 8; s.answerOp h (wordsOf b)
    | .stHalf x => s.plainStore h.thread h.place (bytesOf 8 x)
    | _ => run

/-- Puts an operation into a list in program order. -/
def insertOp (h : HomeOp) : List HomeOp → List HomeOp
  | [] => [h]
  | x :: r => if h.prog < x.prog then h :: x :: r else x :: insertOp h r

/-- A thread's operations on their way, at homes and at bank units, in program order. -/
def State.opsOf (s : State) (k : Nat) : List HomeOp :=
  (s.bankQ.filter fun h => h.thread == k).foldl (fun l h => insertOp h l) (s.homeQ.filter fun h => h.thread == k)

/-- Every operation on its way of the threads of some blocks is performed (R171, R279): none of them consumes what it reads any more. -/
def State.finishOps (s : State) (blocks : List Nat) : State :=
  let gone (h : HomeOp) : Bool := blocks.contains (blkOf h.thread)
  let l := (dedup (((s.homeQ ++ s.bankQ).filter gone).map fun h => h.thread)).flatMap s.opsOf
  l.foldl State.performOp { s with homeQ := s.homeQ.filter fun h => !gone h, bankQ := s.bankQ.filter fun h => !gone h }

/-- Tears a context down (R279 step 3): its operations on their way are performed, L1 lines written back and invalidated, records refused,
scratchpads, registers and engine commands gone. -/
def State.dropCtx (s : State) (c : Nat) : State :=
  let x := s.ctx c
  let s := s.finishOps x.blocks
  let cores := dedup (x.blocks.map fun b => (s.block b).core)
  let s := (dedup (x.ran ++ cores)).foldl (fun s core => s.l1Invalidate core x.asid) s
  let s := (s.pendingRecs c).foldl (fun s (d, n) => s.setOutcome d n 2) s
  let gone (k : Nat) : Bool := x.blocks.contains (blkOf k)
  let s := { s with
    threads := s.threads.filter fun (k, _) => !gone k
    waves := s.waves.filter fun (w, _) => !x.blocks.contains (w / 32)
    blocks := s.blocks.filter fun (b, _) => !x.blocks.contains b
    ctxs := Tab.del s.ctxs c
    groups := (Tab.mapVal s.groups fun _ g =>
      { g with members := g.members.filter (fun k => !gone k), todo := g.todo.filter (fun k => !gone k) }).filter
        fun (_, g) => !g.members.isEmpty
    racqs := Tab.mapVal s.racqs fun _ l => l.filter fun q => !x.blocks.contains (q.wave / 32)
    ringQ := s.ringQ.filter fun r => !gone r.thread
    copyReqs := s.copyReqs.filter fun q => match q.thread with | some k => !gone k | none => true
    accordReads := s.accordReads.filter fun r => !gone r.thread
    sillage := Tab.mapVal s.sillage fun _ g => g.requeue x.blocks }
  let s := s.updAsid x.asid fun a => { a with ctxUsed := a.ctxUsed - x.bytes }
  cores.foldl State.racqGrant (s.dropTxs x.blocks)

/-- Removes a task or context from the count of what a launch still has open. -/
def State.launchDown (s : State) (l n : Nat) : State :=
  { s with launches := Tab.upd s.launches l fun x => { x with open_ := x.open_ - n } }

/-- Kills a context (R279): it is torn down, no further task of its launch is placed, and, where a record is given, the
record is appended on the context's die and firmware posts event type 2. -/
def State.killCtx (s : State) (c : Nat) (rec : Option (List Byte)) : State :=
  if !(s.ctxs.any fun e => e.1 == c) then s
  else
  let x := s.ctx c
  let s := match rec with
    | some r =>
      let s := s.pushRec x.die r
      let n := match Tab.find s.launches x.launch with | some l => l.number | none => 0
      s.postEvent 2 x.asid (r ++ bytesOf 4 n)
    | none => s
  let s := s.dropCtx c
  let dead := s.tasks.filter fun (_, t) => t.launch == x.launch
  let s := { s with tasks := s.tasks.filter fun (_, t) => !(t.launch == x.launch)
                    launches := Tab.upd s.launches x.launch fun l => { l with killed := true } }
  let s := s.updAsid x.asid fun a => { a with ctxUsed := a.ctxUsed - dead.foldl (fun n (_, t) => n + t.bytes) 0 }
  s.launchDown x.launch (dead.length + 1)

/-- Every thread of a wave in one trap event reads the event's lanes (Table 15-3, code 0x24). -/
def State.shareMask (s : State) (w ev : Nat) : State :=
  let m := (s.waveThreads w).foldl (fun m (k, t) =>
    if t.inHandler && t.trap.event == ev then m ||| laneBit (laneOf k) else m) (0 : BitVec 32)
  { s with threads := Tab.mapVal s.threads fun k t =>
      if waveKey k == w && t.inHandler && t.trap.event == ev then { t with trap := { t.trap with mask := m } } else t }

/-- Taking a trap (R277 to R279): the context is killed where it has no handler or the thread is in one; otherwise the
thread saves cause, PC, address, detail and fault PC, sets its in-handler bit, leaves its group and continues at the
handler in a new run. -/
def State.takeTrap (s : State) (k : Nat) (t : Thread) (i : TrapInfo) (pc faultPc : Pair) (ev : Nat) : State :=
  let b := s.block (blkOf k)
  let c := s.ctx b.ctx
  if c.header.handler = 0 || t.inHandler then s.killCtx b.ctx (some (s.threadRec k i pc false))
  else
    let regs : TrapRegs :=
      { cause := i.cause, pc := pc, addr := i.addr, detail := i.detail, mask := 0, faultPc := faultPc, event := ev,
        order := t.order }
    let t := { t with
      trap := regs, inHandler := true, pc := c.hdrAddr + c.header.handler.signExtend 64, status := .ready,
      readyAt := s.clock, runV := [], run := 0, stall := none }
    ((s.leaveGroup k).putThread k t).shareMask (waveKey k) ev

/-- The number of the trap event of a thread: its group's issue, or a new one. -/
def State.trapEvent (s : State) (k : Nat) : Nat × State :=
  match s.groupOf k with
  | some (_, g) => (g.issue, s)
  | none => (s.ticket, { s with ticket := s.ticket + 1 })

/-- A trap at the instruction that the thread executes (R276). -/
def State.trapAt (s : State) (k : Nat) (t : Thread) (i : TrapInfo) : State :=
  let (ev, s) := s.trapEvent k
  s.takeTrap k t i t.pc t.pc ev

/-- The due trap that a thread takes next: in a handler, faults of instructions from before its entry wait for the `eret`
(R411). -/
def Thread.dueNow (t : Thread) : Option Due := t.due.find? fun d => !t.inHandler || decide (t.trap.order ≤ d.order)

/-- An instruction that has issued waits in place (R65): a fault found meanwhile is taken when the wait ends (R411). -/
def Thread.waitsInPlace (t : Thread) : Bool :=
  match t.stall with
  | some (x, _) => x.withdrawn
  | none => false

/-- The due trap that comes before the checks of a thread's next instruction: none while an instruction waits in place. -/
def Thread.dueFirst (t : Thread) : Option Due := if t.waitsInPlace then none else t.dueNow

/-- The due trap that comes before a thread's next fetch: none while it waits for a token, whose wait ends first (R411). -/
def Thread.dueBefore (t : Thread) : Option Due :=
  match t.stall with
  | some (.token, _) => none
  | _ => t.dueFirst

/-- A due trap of a thread, taken at an instruction boundary (R42, R411): the trap PC is the next instruction. -/
def State.takeDue (s : State) (k : Nat) (t : Thread) (d : Due) : State :=
  let (ev, s) := s.trapEvent k
  s.takeTrap k { t with due := t.due.filter fun e => e.order != d.order } d.info t.pc d.faultPc ev

/-- Return from a trap (R281): the trap registers and the in-handler bit are cleared and the thread continues at the trap
PC in a new run.  A barrier instruction that has timed out is executed again where the thread goes back to it (R162). -/
def State.returnFromTrap (s : State) (k : Nat) (t : Thread) : State :=
  let s := s.updWave (waveKey k) fun w => { w with reported := w.reported.filter (· != k) }
  s.retireTo k { t with trap := TrapRegs.zero, inHandler := false, again := t.again.filter fun (_, pc) => pc == t.trap.pc.toNat } t.trap.pc true

/-- A trap that reports no access. -/
def plainTrap (cause : BitVec 8) (detail : BitVec 32) : TrapInfo :=
  { cause := cause, addr := 0, detail := detail, kind := 0, size := 0 }

/-- The illegal-instruction trap. -/
abbrev trapIllegal : TrapInfo := plainTrap 0x01 0
/-- The illegal-operand trap of a field. -/
abbrev trapOperand (field : Nat) : TrapInfo := plainTrap 0x02 (BitVec.ofNat 32 field)

/-- Poison is consumed by a context (R383): a RELAUNCH phase is discarded, another context is killed; a phase that
consumes poison for the fourth time in a row is killed (R390).  What a phase that is discarded already still meets counts no more. -/
def State.consumePoison (s : State) (c : Nat) (rec : List Byte) : State :=
  let x := s.ctx c
  if x.state == .discarded then s
  else if x.header.relaunch && decide (x.poisoned < 3) then
    let s := s.updCtx c fun y => { y with state := .discarded, poisoned := y.poisoned + 1 }
    { s with groups := (Tab.mapVal s.groups fun _ g =>
        let keep (k : Nat) : Bool := !x.blocks.contains (blkOf k)
        { g with members := g.members.filter keep, todo := g.todo.filter keep }).filter fun (_, g) => !g.members.isEmpty }
  else s.killCtx c (some rec)

/-- A record is replayable (Table 11-2). -/
def recReplay (rec : List Byte) : Bool := (valOf 8 ((rec.drop 0x13).take 1)).getLsbD 3

/-- The protection trap of a malformed entry whose record is in the queue (R235, R240). -/
def malformedTrap (rec : List Byte) : TrapInfo :=
  let access := valOf 8 ((rec.drop 0x13).take 1)
  { cause := 0x09, addr := valOf 64 (rec.take 8), detail := protDetail 0x02 (access.extractLsb' 0 3), kind := access.extractLsb' 0 3,
    size := access.extractLsb' 4 4 }

/-- A parked thread's record is appended: the thread waits for its outcome, or takes the trap of a malformed entry. -/
def State.recorded (s : State) (k : Nat) (t : Thread) (die n issue : Nat) (rec : List Byte) : State :=
  if recReplay rec then s.putThread k { t with status := .parked die n }
  else s.takeTrap k { t with status := .ready } (malformedTrap rec) t.pc t.pc issue

/-- Threads whose records belong to one issue of an instruction and are not appended yet, by wave and lane, of which a group that holds
threads of several blocks has more than one (R177, R221). -/
def State.issueRecs (s : State) (issue : Nat) : List (Nat × List Byte) :=
  let l := s.threads.filterMap fun (k, t) => match t.status with
    | .unrecorded r i => if i = issue then some (k, r) else none
    | _ => none
  (List.range 1024).flatMap fun i => l.filter fun x => tidOf x.1 == i

/-- Some thread has still to execute the instruction of an issue, be it that it stalls there in place with its group (R65). -/
def State.issueOpen (s : State) (issue : Nat) : Bool := s.groups.any fun (_, g) => !g.ended && g.issue == issue && !g.todo.isEmpty

/-- Appends records of threads in order. -/
def State.appendIssue (s : State) (die issue : Nat) (rs : List (Nat × List Byte)) : State :=
  rs.foldl (fun s (k, r) =>
    match s.appendRec die r, Tab.find s.threads k with
    | some (s, n), some t => s.recorded k t die n issue r
    | _, _ => s) s

/-- Records that a die's queue has room for. -/
def State.recRoom (s : State) (die : Nat) : Nat :=
  if !(Tab.getD s.recWait die []).isEmpty then 0
  else match Tab.find s.faultQ die with
    | none => 0
    | some q => 2 ^ q.k - (q.append - q.consumed)

/-- The records of one issue of an instruction are appended together, in ascending order of wave and lane, once all of them are known and
the queue has room (R221, R222, R239).  While it has room for some of them only, none is appended: R222 does not say so, and R221 shows them
together (log 74). -/
def State.recordIssue (s : State) (die issue : Nat) : State :=
  let rs := s.issueRecs issue
  if s.issueOpen issue || decide (s.recRoom die < rs.length) then s else s.appendIssue die issue rs

/-- Parks a thread with a record (R220 to R222, R239). -/
def State.parkWith (s : State) (k : Nat) (t : Thread) (rec : List Byte) : State :=
  let (issue, s) := s.trapEvent k
  let s := (s.leaveGroup k).putThread k { t with stall := none, runV := [], run := 0, status := .unrecorded rec issue }
  s.recordIssue (dieOf (s.coreOf k)) issue

/-- Parks a thread by a replayable fault. -/
def State.park (s : State) (k : Nat) (t : Thread) (va : Nat) (kind : BitVec 3) (n : Nat) : State :=
  s.parkWith k t (s.threadRec k (accTrap 0x08 va 0 kind n) t.pc true)

/-- A thread's access is not performed: it traps, parks, waits for a copy, or meets poison. -/
def State.stopThread (s : State) (k : Nat) (t : Thread) (x : Stop) : State :=
  match x with
  | .trap i => s.trapAt k t i
  | .malformed i =>
    if (Tab.find s.faultQ (dieOf (s.coreOf k))).isNone then s.trapAt k t i
    else s.parkWith k t (s.threadRec k { i with detail := 0x02 } t.pc false)
  | .absent va kind n => s.park k t va kind n
  | .copy va =>
    let s := (s.leaveGroup k).putThread k { t with status := .copying, stall := none, runV := [], run := 0 }
    { s with copyReqs := s.copyReqs ++ [{ asid := (s.ctxOf k).asid, va := BitVec.ofNat 64 va, thread := some k }] }
  | .poison va =>
    s.consumePoison (s.block (blkOf k)).ctx (s.threadRec k (accTrap 0x09 va 0x0a 0 1) t.pc false)
  | .fence die => s.fence die
  | .keyless va kind n => s.killCtx (s.block (blkOf k)).ctx (some (s.threadRec k (accTrap 0x09 va 0x0c kind n) t.pc false))

/-- The state engine is asked to copy a shared page of an ASID for an access that no parked thread makes (R236, R315). -/
def State.askCopy (s : State) (asid va : Nat) : State :=
  let q : CopyReq := { asid := asid, va := BitVec.ofNat 64 va, thread := none }
  if s.copyReqs.contains q then s else { s with copyReqs := s.copyReqs ++ [q] }

/-- An instruction of the thread has met a fault after its issue that is not due yet (R411): one that waits for it to be applied does not
issue before the thread has taken the trap. -/
def Thread.faulty (t : Thread) : Bool := t.pend.any fun p => p.fault.isSome

/-! ## Checks at issue (R67) -/

/-- What an instruction requires at issue: that it is legal here, a role, and the operand fields it uses in the order d, a,
b. -/
structure Req where
  illegal : Bool
  role : BitVec 3
  flds : List Fld
  /-- it comes after the thread's earlier Accord stores: a release (R248), an engine command (R265) or an operation at a home (R267) -/
  rel : Bool := false
  deriving DecidableEq, Repr

/-- A releasing instruction that is legal everywhere and needs no role. -/
def Req.release (flds : List Fld) : Req := { illegal := false, role := 0, flds := flds, rel := true }
/-- An instruction that is legal everywhere and needs no role. -/
def Req.any (flds : List Fld) : Req := { illegal := false, role := 0, flds := flds }
/-- An instruction of the floating-point group: it needs the vector role (R58). -/
def Req.vector (flds : List Fld) : Req := { illegal := false, role := 4, flds := flds }

/-- The executing thread runs a RELAUNCH kernel (R388). -/
def inRelaunch (s : State) : Bool := (s.ctxOf s.cur).header.relaunch

/-- The outcome of the checks. -/
inductive Gate where
  | pass
  /-- a register that it reads is poisoned (R383) -/
  | poison
  /-- an operation of the thread on its way meets poison at its home, which is consumed first -/
  | home
  | due (d : Due)
  | trap (i : TrapInfo)
  /-- an engine's fault is delivered through the token register pair at an index (R134) -/
  | deliver (tok : Nat) (i : TrapInfo)
  /-- it waits in place: for a token (R63), or for an Accord operation of the thread (R248, R273) -/
  | stall (x : StallKind)
  deriving DecidableEq, Repr

/-- The token pair, by its low register, that a register belongs to. -/
def tokenOf (toks : Tab Token) (r : RegId) : Option (Nat × Token) :=
  match r with
  | .v n => match Tab.find toks n with
    | some x => some (n, x)
    | none => if n = 0 then none else (Tab.find toks (n - 1)).map fun x => (n - 1, x)
  | .k _ => none

/-- Tokens that registers belong to, in order. -/
def tokensOf (toks : Tab Token) (rs : List RegId) : List (Nat × Token) := rs.filterMap (tokenOf toks)

/-- Detail of the run-hazard trap (Table 15-1, cause 0x03). -/
def hazardDetail : RegId → BitVec 32
  | .v n => BitVec.ofNat 32 n
  | .k n => BitVec.ofNat 32 (0x200 + n)

/-- An operation of a thread is on its way to poisoned memory (R382). -/
def State.doomed (s : State) (k : Nat) : Bool :=
  s.homeQ.any fun h => h.thread == k && h.order.isSome &&
    s.placeBad h.place h.kind.size

/-- Registers that an instruction's fields name. -/
def regsOf (flds : List Fld) (t : Thread) : List RegId := flds.flatMap fun f => f.regs t.wb.toNat

/-- A token that an instruction names is pending (R63). -/
def Thread.awaits (t : Thread) (q : Req) : Bool :=
  (tokensOf t.toks (q.flds.flatMap fun f => f.regs t.wb.toNat)).any fun x => x.2 == .pending

/-- The thread stalls on a token that is still pending. -/
def Thread.onToken (t : Thread) (q : Req) : Bool :=
  match t.stall with
  | some (.token, _) => t.awaits q
  | _ => false

/-- The thread's next instruction waits for its Accord operations (R248, R265, R267, R273): a release, an engine command and an operation at a
home for its stores and reads, and any instruction for an `mcas` and an `mld`, whose acquires come before every later access. -/
def State.accordHeld (s : State) (k : Nat) (q : Req) : Bool :=
  s.accordQ.any (fun o => o.thread == k && (q.rel || o.expect.isSome)) ||
    s.accordReads.any fun o => o.thread == k && (q.rel || o.datum.isSome)

/-- Fields that an instruction reads: a token field that is a quad holds a C descriptor too (R141). -/
def Fld.reads (f : Fld) : Bool :=
  match f.use with
  | .src => true
  | .old => true
  | .tok => f.w == 4
  | _ => false

/-- A register that an instruction reads is poisoned (R382). -/
def Thread.readsBad (t : Thread) (w : Wave) (q : Req) : Bool :=
  !(t.bad.isEmpty && w.kbad.isEmpty) &&
    (regsOf (q.flds.filter Fld.reads) t).any fun r => match r with | .v n => t.bad.contains n | .k n => w.kbad.contains n

/-- The checks of R67 for a thread, a fault found after an earlier issue first (R411), but not before a token wait has ended. -/
def State.gate (s : State) (k : Nat) (t : Thread) (q : Req) : Gate :=
  if s.doomed k then .home else
  if t.onToken q then .stall .token else
  match t.dueFirst with
  | some d => .due d
  | none =>
    let w := s.wave k
    if q.illegal then .trap trapIllegal
    else if q.role &&& ~~~w.roles ≠ 0 then .trap (plainTrap 0x04 (q.role.zeroExtend 32))
    else
      match firstIllegal q.flds t.wb.toNat (s.allocAt k) with
      | some f => .trap (trapOperand f)
      | none =>
        let rs := q.flds.flatMap fun f => f.regs t.wb.toNat
        let ts := tokensOf t.toks rs
        if ts.any fun x => x.2 == .pending then .stall .token
        else
          match ts with
          | (n, .faulted i _) :: _ => .deliver n i
          | _ =>
            match rs.find? fun r => t.runV.contains r with
            | some r => .trap (plainTrap 0x03 (hazardDetail r))
            | none => if s.accordHeld k q then .stall .accord else if t.readsBad w q then .poison else .pass

/-! ## Home operations (R254) -/

/-- A thread's read of a place consumes poison (R382, R383): that of its core's L1 line, or of the home. -/
def State.badAt (s : State) (k : Nat) (p : Place) (n : Nat) : Bool :=
  match p with
  | .mem pa => match Tab.find s.l1 (l1Key (s.coreOf k) pa) with
    | some l => l.badAt (pa % 64) n
    | none => s.poisoned pa n
  | p => s.placeBad p n

/-- An operation meets poison that its thread consumes (R382): a result is awaited from it. -/
def State.opBad (s : State) (h : HomeOp) : Bool := h.order.isSome && s.badAt h.thread h.place h.kind.size

/-- Performs one operation on its way, or lets its thread consume the poison that it meets (R254, R383). -/
def State.homeExec (s : State) (h : HomeOp) : State :=
  let half := match h.kind with | .ldHalf _ _ => true | .stHalf _ => true | _ => false
  let s := if half then s else s.dropLineAt (s.coreOf h.thread) h.place
  if s.opBad h && (Tab.find s.threads h.thread).isSome then
    s.consumePoison (s.block (blkOf h.thread)).ctx
      (s.threadRec h.thread { accTrap 0x09 0 0x0a (if half then 0 else 2) h.kind.size with addr := h.va } h.pc false)
  else s.performOp h

/-- Every access that a thread performed earlier is performed at its place, in program order (R245, R248). -/
def State.drain (s : State) (k : Nat) : State :=
  (s.opsOf k).foldl State.homeExec
    { s with homeQ := s.homeQ.filter fun h => !(h.thread == k), bankQ := s.bankQ.filter fun h => !(h.thread == k) }

/-- Every operation on its way of an ASID is performed (R238). -/
def State.drainAsid (s : State) (asid : Nat) : State :=
  (dedup (((s.homeQ ++ s.bankQ).filter fun h => h.asid == asid).map fun h => h.thread)).foldl State.drain s

/-- Issues an instruction in the executing thread: the checks of R67, then its own effect. -/
def State.issue (s : State) (q : Req) (body : Nat → Thread → State) : Out :=
  match s.runner with
  | none => .fault .noThread
  | some t =>
    match s.gate s.cur t q with
    | .pass => .next (body s.cur t)
    | .home => .next (s.drain s.cur)
    | .poison => .next (s.consumePoison (s.block (blkOf s.cur)).ctx (s.threadRec s.cur (accTrap 0x09 0 0x0a 0 1) t.pc false))
    | .due d => .next (s.takeDue s.cur t d)
    | .trap i => .next (s.trapAt s.cur t i)
    | .deliver n i => .next (s.trapAt s.cur { t with toks := Tab.del t.toks n } i)
    | .stall x => .next (s.stallAt s.cur t x (regsOf q.flds t))

/-! ## Releases (Table 13-3) -/

/-- The release action of a scope in a thread. -/
def State.release (s : State) (k : Nat) (f : Scope) : State :=
  let s := s.drain k
  if scopeWide f then s.l1Flush (s.coreOf k) (s.ctxOf k).asid else s

/-- Promotion (R251): every core in reach writes back its dirty bytes of the ASID. -/
def State.promote (s : State) (k : Nat) (f : Scope) : State :=
  match f with
  | .diepro => s.l1FlushCores (s.ctxOf k).asid fun c => dieOf c == dieOf (s.coreOf k)
  | .devpro => s.l1FlushCores (s.ctxOf k).asid fun _ => true
  | _ => s

/-! ## Buffered phases (R388) -/

/-- One entry of a relaunch buffer applied to a line. -/
def BufEntry.apply (at_ : Place) (l : Line) (e : BufEntry) : Line :=
  match e with
  | .store p _ b => if p.line.1 = at_ then Line.put l p.line.2 b else l
  | .op p _ k _ => if p.line.1 = at_ then (k.run l p.line.2).1 else l
  | _ => l

/-- A line as a block's phase sees it: its buffered entries in issue order over the line. -/
def bufView (es : List BufEntry) (at_ : Place) (l : Line) : Line := es.foldl (fun l e => e.apply at_ l) l

/-- Entries that a buffer holds: one for each line stored to and one for each deferred operation. -/
def bufCount (es : List BufEntry) : Nat :=
  let ls := es.foldl (fun (l : List Place) e => match e with
    | .store p _ _ => if l.contains p.line.1 then l else p.line.1 :: l
    | _ => l) []
  ls.length + (es.filter fun e => match e with | .store _ _ _ => false | _ => true).length

/-- Bytes that a buffer spills beyond the 64 KiB on chip. -/
def bufSpill (es : List BufEntry) : Nat := (bufCount es - 1024) * 64

/-- A block's buffer takes entries, none where the relaunch pool of its ASID is exhausted. -/
def State.buffer (s : State) (b : Nat) (es : List BufEntry) : Option State :=
  let asid := (s.ctx (s.block b).ctx).asid
  let others := (s.blocks.filter fun (k, x) => k != b && (s.ctx x.ctx).asid == asid).foldl (fun n (_, x) => n + bufSpill x.buffer) 0
  let new := (s.block b).buffer ++ es
  let pool := match Tab.find s.asids asid with | some a => a.relaunchPool | none => 0
  if bufSpill new = 0 || others + bufSpill new ≤ pool then some (s.updBlock b fun x => { x with buffer := new }) else none

/-- A phase's writes to a place are buffered: global and bank memory in a RELAUNCH kernel. -/
def State.buffers (s : State) (b : Nat) (p : Place) : Bool :=
  (s.ctx (s.block b).ctx).header.relaunch && (match p with | .spad _ _ => false | _ => true)

/-- Where an entry of a buffer goes: its place and the address that its writer gave. -/
def BufEntry.target : BufEntry → Option (Place × Nat)
  | .store p va _ => some (p, va)
  | .op p va _ _ => some (p, va)
  | _ => none

/-- A phase of an ASID holds a buffered write to an address of a kind: it has been translated and is not performed (R238, R388). -/
def State.bufferedAt (s : State) (asid : Nat) (f : Nat → Bool) : Bool :=
  s.blocks.any fun (_, x) => (s.ctx x.ctx).asid == asid && x.buffer.any fun e => match e.target with
    | some (.mem _, a) => f a
    | _ => false

/-- A phase of an ASID holds buffered writes to a range of addresses. -/
def State.bufferUses (s : State) (asid va len : Nat) : Bool := s.bufferedAt asid fun a => decide (va ≤ a ∧ a < va + len)

/-- A page of an ASID goes without another in its place: what phases have buffered for it is lost with it (log 86). -/
def State.dropBuffers (s : State) (asid va n : Nat) : State :=
  if s.bufferUses asid va n then
    let lost (e : BufEntry) : Bool := match e.target with
      | some (.mem _, a) => decide (va ≤ a ∧ a < va + n)
      | _ => false
    { s with blocks := Tab.mapVal s.blocks fun _ x =>
        if (s.ctx x.ctx).asid = asid then { x with buffer := x.buffer.filter fun e => !lost e } else x }
  else s

/-- A place in a frame of `n` bytes that has moved. -/
def Place.moved (p : Place) (old new n : Nat) : Place :=
  match p with
  | .mem pa => if old ≤ pa ∧ pa < old + n then .mem (pa - old + new) else p
  | _ => p

/-- An entry for a page of `n` bytes at `va` goes where the page has moved. -/
def BufEntry.moved (e : BufEntry) (va old new n : Nat) : BufEntry :=
  match e with
  | .store p a b => if va ≤ a ∧ a < va + n then .store (p.moved old new n) a b else e
  | .op p a k m => if va ≤ a ∧ a < va + n then .op (p.moved old new n) a k m else e
  | _ => e

/-- A page of an ASID of `n` bytes has moved to another frame: buffered writes to it go there (R238, R388). -/
def State.moveBuffers (s : State) (asid va old new n : Nat) : State :=
  if s.bufferUses asid va n then
    { s with blocks := Tab.mapVal s.blocks fun _ x =>
        if (s.ctx x.ctx).asid = asid then
          { x with buffer := x.buffer.map fun e => e.moved va old new n
                   firstRead := x.firstRead.map fun (p, l, m) => (p.moved old new n, l, m) }
        else x }
  else s

/-- The trap of an exhausted relaunch pool (R388). -/
def poolTrap (addr : Nat) (d : Need) (n : Nat) : TrapInfo := accTrap 0x09 addr (protDetail 0x09 d.kind) d.kind n

/-- A phase reads bytes of memory for the first time (R388): bytes of a line that it has not read yet are kept as they are now. -/
def State.noteRead (s : State) (b : Nat) (p : Place) (n : Nat) (now : Line) : State :=
  let (l, o) := p.line
  let (d, seen) := match (s.block b).firstRead.find? fun x => x.1 = l with | some (_, d, m) => (d, m) | none => (now, 0)
  let fresh (i : Nat) : Bool := decide (o ≤ i ∧ i < o + n) && !seen.getLsbD i
  let d := (List.range 64).foldl (fun d i => if fresh i then Line.put d i (Line.get now i 1) else d) d
  s.updBlock b fun x => { x with firstRead := x.firstRead.filter (fun y => y.1 ≠ l) ++ [(l, d, seen ||| dirtyMask o n)] }

/-- The line that holds a location, its bytes as first read by a phase (R388). -/
def State.firstLine (s : State) (b : Nat) (p : Place) (n : Nat) : State × Line :=
  let now := Line.of (s.readPlace p.line.1 64)
  let s := s.noteRead b p n now
  match (s.block b).firstRead.find? fun x => x.1 = p.line.1 with
  | some (_, d, _) => (s, d)
  | none => (s, now)

/-! ## Loads and stores of threads at their places -/

/-- A thread reads bytes at a place, after its own operations on their way (R245): global memory through its core's L1, its
phase's buffered entries over it. -/
def State.loadAt (s : State) (k : Nat) (p : Place) (n : Nat) : State × List Byte :=
  let s := s.drain k
  if s.buffers (blkOf k) p then
    let (s, b) := match p with
      | .mem pa => s.l1Read (s.coreOf k) (s.ctxOf k).asid (pa / 64 * 64) 64
      | p => (s, s.readPlace p.line.1 64)
    let s := s.noteRead (blkOf k) p n (Line.of b)
    (s, Line.get (bufView (s.block (blkOf k)).buffer p.line.1 (Line.of b)) p.line.2 n)
  else s.plainLoad k p n

/-- A thread stores bytes at a place that it has addressed at `va`, none where its relaunch pool is exhausted. -/
def State.storeAt (s : State) (k : Nat) (p : Place) (va : Nat) (b : List Byte) : Option State :=
  let s := s.drain k
  if s.buffers (blkOf k) p then s.buffer (blkOf k) [.store p va b] else some (s.plainStore k p b)

end Sys2Proof.Machine
end

