-- ==== Sys2Proof/Machine/FloatOps.lean ====
section
/-!
DEFINITION. The floating-point group, opcodes 0x10 to 0x1F (R101 to R111), with the lanes' shadows (R384 to R386).
-/
namespace Sys2Proof.Machine

/-! ## Shadow lanes -/

/-- The sign and the 12-bit key of an FP32 result (R384). -/
def key32 (w : Word) : Bool × Nat := (w.getLsbD 31, (w.extractLsb' 19 12).toNat)

/-- The sign and the key of a BF16 element. -/
def key16 (w : BitVec 16) : Bool × Nat := (w.getLsbD 15, (w.extractLsb' 3 12).toNat)

/-- Signs are equal and keys differ by at most 1. -/
def keysAgree (x y : Bool × Nat) : Bool := x.1 == y.1 && decide (x.2 ≤ y.2 + 1 ∧ y.2 ≤ x.2 + 1)

/-- Two FP32 results agree (R384). -/
def agree32 (x y : Word) : Bool :=
  ((fp32 x).isNan && (fp32 y).isNan) ||
    ((fp32 x).isInf && (fp32 y).isInf && (fp32 x).sign == (fp32 y).sign) || keysAgree (key32 x) (key32 y)

/-- Two BF16 elements agree. -/
def agree16 (x y : BitVec 16) : Bool :=
  ((bf16 x).isNan && (bf16 y).isNan) ||
    ((bf16 x).isInf && (bf16 y).isInf && (bf16 x).sign == (bf16 y).sign) || keysAgree (key16 x) (key16 y)

/-- Two results agree, as FP32 or element by element. -/
def lanesAgree (packed : Bool) (x y : Word) : Bool :=
  if packed then agree16 (x.extractLsb' 0 16) (y.extractLsb' 0 16) && agree16 (x.extractLsb' 16 16) (y.extractLsb' 16 16)
  else agree32 x y

/-- Issue partition of a thread (R175), numbered by core. -/
def State.partOf (s : State) (k : Nat) : Nat := s.coreOf k * 4 + (s.wave k).slot % 4

/-- Firmware logs an error (R382, R385). -/
def State.logError (s : State) (kind place : Nat) : State :=
  { s with power := { s.power with errors := s.power.errors ++ [(kind, place)] } }

/-- The ASID of firmware, beyond those of clients, in which test kernels run with firmware's key (R393). -/
def fwAsid : Nat := 1024

/-- A test kernel loses its wave slot at once (R393): what it has done is dropped, and it starts again where it finds a slot (log 87). -/
def State.stopTest (s : State) (r : TestRun) : State :=
  let ln := (s.ctx r.ctx).launch
  let s := if s.ctxs.any (fun e => e.1 == r.ctx) then { s.dropCtx r.ctx with launches := Tab.del s.launches ln } else s
  { s with tests := s.tests.map fun x => if x.core == r.core then { x with slot := none } else x }

/-- The test kernels whose wave slots are among some of a core's are stopped. -/
def State.stopTests (s : State) (core : Nat) (slot : Nat → Bool) : State :=
  (s.tests.filter fun r => r.core == core && r.slot.any slot).foldl State.stopTest s

/-- Quarantines a partition (R386): firmware pre-empts the core's contexts. -/
def State.quarantinePart (s : State) (part : Nat) : State :=
  let core := part / 4
  let cs := s.ctxs.filter fun (_, c) => c.asid != fwAsid && c.blocks.any fun b => (s.block b).core == core
  let q := Tab.getD s.power.quarantine core 0 ||| BitVec.ofNat 4 (2 ^ (part % 4))
  let s := s.stopTests core fun n => n % 4 == part % 4
  { s with power := { s.power with quarantine := Tab.put s.power.quarantine core q }
           agenda := cs.map (fun (c, _) => Turn.event (.preemptRequest c)) ++ s.agenda }

/-- The lane's result after the comparison with its shadow (R385), none where the die is fenced.  Without a glitch the
lanes agree. -/
def State.shadow (s : State) (k : Nat) (packed : Bool) (bits : Word) : State × Option Word :=
  let p := s.partOf k
  match Tab.find s.glitches p with
  | none => (s, some bits)
  | some g =>
    let s := { s with glitches := Tab.del s.glitches p }
    let mn (i : Nat) : Word := g.main.getD i bits
    let ok (i : Nat) : Bool := lanesAgree packed (mn i) (g.shadow.getD i bits)
    let off : BitVec 32 := Tab.getD s.power.shadowOff p 0
    if off.getLsbD (laneOf k) then (s, some (mn 0))
    else if ok 0 then (s, some (mn 0))
    else if ok 1 then (s.logError 1 p, some (mn 1))
    else if ok 2 then ((s.logError 2 p).quarantinePart p, some (mn 2))
    else if mn 1 = mn 2 then
      (({ s with power := { s.power with shadowOff := Tab.put s.power.shadowOff p (off ||| BitVec.ofNat 32 (2 ^ laneOf k)) } }).logError 3 p,
        some (mn 2))
    else ({ s with agenda := .event (.dieFence (dieOf (p / 4))) :: s.agenda }, none)

/-! ## Forms -/

/-- A class F instruction of the group: `f` of the old d and the two sources gives the result and its flags. -/
def fpF (d : Dst) (a b : Src) (flds : List Fld) (lits : Nat) (m packed : Bool) (f : Word → Word → Word → FOut) (s : State) : Out :=
  s.issue (Req.vector flds) fun k t =>
    let r := f (d.get32 t) (a.get32 s k t) (b.get32 s k t)
    match s.shadow k packed (BitVec.ofNat 32 r.bits) with
    | (s, some w) => s.finishF k t (d.dests t.wb.toNat 1) [w] r.flags lits m
    | (s, none) => s

/-- A class V instruction of the group. -/
def fpV (d : Dst) (a b : Src) (flds : List Fld) (lits : Nat) (m : Bool) (f : Word → Word → FOut) (s : State) : Out :=
  s.issue (Req.vector flds) fun k t =>
    let r := f (a.get32 s k t) (b.get32 s k t)
    match s.shadow k false (BitVec.ofNat 32 r.bits) with
    | (s, some w) => s.finishV k t (d.dests t.wb.toNat 1) (some [w]) r.flags true none lits m
    | (s, none) => s

/-- Two sources. -/
def fp2 (d : Dst) (a b : Src) (m packed : Bool) (f : Word → Word → Word → FOut) (s : State) : Out :=
  fpF d a b [fd d 1, fa a 1, fb b 1] (lits2 a b) m packed f s

/-- Two sources and the old d. -/
def fp3 (d : Dst) (a b : Src) (m packed : Bool) (f : Word → Word → Word → FOut) (s : State) : Out :=
  fpF d a b [fdr d 1, fa a 1, fb b 1] (lits2 a b) m packed f s

/-- One source. -/
def fp1 (d : Dst) (a : Src) (m : Bool) (f : Word → FOut) (s : State) : Out :=
  fpF d a .z [fd d 1, fa a 1] (lits1 a) m false (fun _ x _ => f x) s

/-- An element-wise operation on packed BF16 words (R108). -/
def bfEach (f : FVal → FVal → FVal → FOut) (o x y : Word) : FOut :=
  packed2 (f (lo16 o) (lo16 x) (lo16 y)) (f (hi16 o) (hi16 x) (hi16 y))

/-! ## Instructions -/

/-- R102: `fadd`. -/
def execFadd (d : Dst) (a b : Src) (f : Rnd) (m : Bool) (s : State) : Out :=
  fp2 d a b m false (fun _ x y => fadd Fmt.fp32 f (fp32 x) (fp32 y)) s

/-- R102: `fsub`. -/
def execFsub (d : Dst) (a b : Src) (f : Rnd) (m : Bool) (s : State) : Out :=
  fp2 d a b m false (fun _ x y => fsub Fmt.fp32 f (fp32 x) (fp32 y)) s

/-- R102: `fmul`. -/
def execFmul (d : Dst) (a b : Src) (f : Rnd) (m : Bool) (s : State) : Out :=
  fp2 d a b m false (fun _ x y => fmul Fmt.fp32 f (fp32 x) (fp32 y)) s

/-- R102: `ffma`. -/
def execFfma (d : Dst) (a b : Src) (f : Rnd) (m : Bool) (s : State) : Out :=
  fp3 d a b m false (fun o x y => ffma Fmt.fp32 f (fp32 x) (fp32 y) (fp32 o)) s

/-- R103: `fmnx`. -/
def execFmnx (d : Dst) (a b : Src) (f : FmnxF) (m : Bool) (s : State) : Out :=
  fp2 d a b m false (fun _ x y => fmnx f x y) s

/-- R104: `frcp`, of class V. -/
def execFrcp (d : Dst) (a : Src) (f : FrcpF) (m : Bool) (s : State) : Out :=
  fpV d a .z [fd d 1, fa a 1] (lits1 a) m (fun x _ => frcp f (fp32 x)) s

/-- R105: `fex`, of class V. -/
def execFex (d : Dst) (a : Src) (f : FexF) (m : Bool) (s : State) : Out :=
  fpV d a .z [fd d 1, fa a 1] (lits1 a) m (fun x _ => fex f (fp32 x)) s

/-- R106: `fscl`, its b read as s32. -/
def execFscl (d : Dst) (a b : Src) (f : Rnd) (m : Bool) (s : State) : Out :=
  fp2 d a b m false (fun _ x y => fscl f (fp32 x) y.toInt) s

/-- R107: `fcls`. -/
def execFcls (d : Dst) (a : Src) (m : Bool) (s : State) : Out := fp1 d a m (fun x => ⟨(fcls x).toNat, 0⟩) s

/-- R108: `bfadd`. -/
def execBfadd (d : Dst) (a b : Src) (f : Rnd) (m : Bool) (s : State) : Out :=
  fp2 d a b m true (bfEach fun _ x y => fadd Fmt.bf16 f x y) s

/-- R108: `bfmul`. -/
def execBfmul (d : Dst) (a b : Src) (f : Rnd) (m : Bool) (s : State) : Out :=
  fp2 d a b m true (bfEach fun _ x y => fmul Fmt.bf16 f x y) s

/-- R108: `bffma`. -/
def execBffma (d : Dst) (a b : Src) (f : Rnd) (m : Bool) (s : State) : Out :=
  fp3 d a b m true (bfEach fun o x y => ffma Fmt.bf16 f x y o) s

/-- R109: `fdot2`. -/
def execFdot2 (d : Dst) (a b : Src) (f : Rnd) (m : Bool) (s : State) : Out :=
  fp3 d a b m false (fun o x y => fdot Fmt.fp32 f (lo16 x) (lo16 y) (hi16 x) (hi16 y) (fp32 o)) s

/-- R102: `fdiv`, of class V. -/
def execFdiv (d : Dst) (a b : Src) (f : Rnd) (m : Bool) (s : State) : Out :=
  fpV d a b [fd d 1, fa a 1, fb b 1] (lits2 a b) m (fun x y => fdiv Fmt.fp32 f (fp32 x) (fp32 y)) s

/-- R110: `fsgn`; only copysign uses b. -/
def execFsgn (d : Dst) (a b : Src) (f : FsgnF) (m : Bool) (s : State) : Out :=
  fpF d a b (if f = .copysign then [fd d 1, fa a 1, fb b 1] else [fd d 1, fa a 1]) (lits2 a b) m false
    (fun _ x y => ⟨(fsgn f x y).toNat, 0⟩) s

/-- R111: `frnd`. -/
def execFrnd (d : Dst) (a : Src) (f : FrndF) (m : Bool) (s : State) : Out := fp1 d a m (fun x => frnd f (fp32 x)) s

end Sys2Proof.Machine
end

