-- ==== Sys2Proof/Machine/Integer.lean ====
section
/-!
DEFINITION. Integer instructions: opcodes 0x00 to 0x0F, `idiv` and `iabs` (R91 to R100, R57).
-/
namespace Sys2Proof.Machine

/-! ## Results -/

/-- `imul` (R92). -/
def imulVal (f : ImulF) (a b : Word) : Word :=
  match f with
  | .lo => a * b
  | .hi => (a.signExtend 64 * b.signExtend 64).extractLsb' 32 32
  | .hin => (a.zeroExtend 64 * b.zeroExtend 64).extractLsb' 32 32

/-- The product that `imad` adds to a pair (R92). -/
def imadProduct (signed : Bool) (a b : Word) : Pair :=
  if signed then a.signExtend 64 * b.signExtend 64 else a.zeroExtend 64 * b.zeroExtend 64

/-- `imnx` (Table 5-1). -/
def imnxVal (f : ImnxF) (a b : Word) : Word :=
  match f with
  | .smin => if b.slt a then b else a
  | .smax => if a.slt b then b else a
  | .nmin => if b.ult a then b else a
  | .nmax => if a.ult b then b else a

/-- b′ of R100. -/
def notIf (n : Bool) (b : Word) : Word := if n then ~~~b else b

/-- `shl` (R93). -/
def shlVal (a b : Word) : Word := a <<< b.toNat

/-- `shr` (R93). -/
def shrVal (ari : Bool) (a b : Word) : Word := if ari then a.sshiftRight b.toNat else a >>> b.toNat

/-- pos of R94. -/
def bfPos (b : Word) : Nat := (b.extractLsb' 0 5).toNat
/-- wid of R94. -/
def bfWid (b : Word) : Nat := min (b.extractLsb' 8 6).toNat (32 - bfPos b)
/-- `wid` low one bits. -/
def lowMask (wid : Nat) : Word := BitVec.ofNat 32 (2 ^ wid - 1)

/-- `bfx` (R94). -/
def bfxVal (sx : Bool) (a b : Word) : Word :=
  let wid := bfWid b
  let x := (a >>> bfPos b) &&& lowMask wid
  if wid = 0 then 0 else if sx && x.getLsbD (wid - 1) then x ||| ~~~(lowMask wid) else x

/-- `bfi` (R94). -/
def bfiVal (old a b : Word) : Word :=
  let mask := lowMask (bfWid b) <<< bfPos b
  (old &&& ~~~mask) ||| ((a <<< bfPos b) &&& mask)

/-- One bits among the low `n`. -/
def popc (a : Word) : Nat → Nat
  | 0 => 0
  | n + 1 => popc a n + if a.getLsbD n then 1 else 0

/-- Zero bits from bit `n - 1` down. -/
def clzFrom (a : Word) : Nat → Nat
  | 0 => 0
  | n + 1 => if a.getLsbD n then 0 else clzFrom a n + 1

/-- Zero bits from bit `32 - n` up. -/
def ctzFrom (a : Word) : Nat → Nat
  | 0 => 0
  | n + 1 => if a.getLsbD (31 - n) then 0 else ctzFrom a n + 1

/-- `bits` (R95). -/
def bitsVal (f : BitsF) (a : Word) : Word :=
  match f with
  | .popc => BitVec.ofNat 32 (popc a 32)
  | .clz => BitVec.ofNat 32 (clzFrom a 32)
  | .ctz => BitVec.ofNat 32 (ctzFrom a 32)
  | .brev => a.reverse

/-- `add64` (R96). -/
def add64Val (f : Add64F) (a b : Pair) : Pair :=
  match f with
  | .add => a + b
  | .sub => a - b
  | .x4 => a + b <<< 2
  | .x8 => a + b <<< 3
  | .x16 => a + b <<< 4

/-- `idiv` (R98). -/
def idivVal (f : IdivF) (a b : Word) : Word :=
  match f with
  | .sq => if b = 0 then 0xffffffff else a.sdiv b
  | .sr => if b = 0 then a else a.srem b
  | .nq => if b = 0 then 0xffffffff else a.udiv b
  | .nr => if b = 0 then a else a.umod b

/-- `iabs` (R99). -/
def iabsVal (f : IabsF) (a : Word) : Word :=
  match f with
  | .abs => if a.slt 0 then -a else a
  | .neg => -a
  | .sgn => if a = 0 then 0 else if a.slt 0 then 0xffffffff else 1

/-! ## Forms -/

/-- A class F instruction with a 32-bit result of two 32-bit sources. -/
def alu2 (d : Dst) (a b : Src) (m : Bool) (f : Word → Word → Word) (s : State) : Out :=
  s.issue (Req.any [fd d 1, fa a 1, fb b 1]) fun k t =>
    s.finishF k t (d.dests t.wb.toNat 1) [f (a.get32 s k t) (b.get32 s k t)] 0 (lits2 a b) m

/-- A class F instruction with a 32-bit result of one 32-bit source. -/
def alu1 (d : Dst) (a : Src) (m : Bool) (f : Word → Word) (s : State) : Out :=
  s.issue (Req.any [fd d 1, fa a 1]) fun k t =>
    s.finishF k t (d.dests t.wb.toNat 1) [f (a.get32 s k t)] 0 (lits1 a) m

/-- A class F instruction with a 32-bit result of the old d and two 32-bit sources. -/
def alu3 (d : Dst) (a b : Src) (m : Bool) (f : Word → Word → Word → Word) (s : State) : Out :=
  s.issue (Req.any [fdr d 1, fa a 1, fb b 1]) fun k t =>
    s.finishF k t (d.dests t.wb.toNat 1) [f (d.get32 t) (a.get32 s k t) (b.get32 s k t)] 0 (lits2 a b) m

/-! ## Instructions -/

/-- R57: `nop` has no effect other than its marker. -/
def execNop (m : Bool) (s : State) : Out := s.issue (Req.any []) fun k t => s.retire k t 0 m

/-- R91: `iadd`. -/
def execIadd (d : Dst) (a b : Src) (m : Bool) (s : State) : Out := alu2 d a b m (fun x y => x + y) s

/-- R91: `isub`. -/
def execIsub (d : Dst) (a b : Src) (m : Bool) (s : State) : Out := alu2 d a b m (fun x y => x - y) s

/-- R92: `imul`. -/
def execImul (d : Dst) (a b : Src) (f : ImulF) (m : Bool) (s : State) : Out := alu2 d a b m (imulVal f) s

/-- R92: `imad`; with f = 1 and 2 d is a pair. -/
def execImad (d : Dst) (a b : Src) (f : ImadF) (m : Bool) (s : State) : Out :=
  match f with
  | .w32 => alu3 d a b m (fun o x y => o + x * y) s
  | .w64 =>
    s.issue (Req.any [fdr d 2, fa a 1, fb b 1]) fun k t =>
      s.finishF k t (d.dests t.wb.toNat 2) (pairWords (d.get64 t + imadProduct true (a.get32 s k t) (b.get32 s k t))) 0
        (lits2 a b) m
  | .w64n =>
    s.issue (Req.any [fdr d 2, fa a 1, fb b 1]) fun k t =>
      s.finishF k t (d.dests t.wb.toNat 2) (pairWords (d.get64 t + imadProduct false (a.get32 s k t) (b.get32 s k t))) 0
        (lits2 a b) m

/-- Table 5-1: `imnx`. -/
def execImnx (d : Dst) (a b : Src) (f : ImnxF) (m : Bool) (s : State) : Out := alu2 d a b m (imnxVal f) s

/-- R91, R100: `and`. -/
def execAnd (d : Dst) (a b : Src) (notb : Bool) (m : Bool) (s : State) : Out :=
  alu2 d a b m (fun x y => x &&& notIf notb y) s

/-- R91, R100: `or`. -/
def execOr (d : Dst) (a b : Src) (notb : Bool) (m : Bool) (s : State) : Out :=
  alu2 d a b m (fun x y => x ||| notIf notb y) s

/-- R91, R100: `xor`. -/
def execXor (d : Dst) (a b : Src) (notb : Bool) (m : Bool) (s : State) : Out :=
  alu2 d a b m (fun x y => x ^^^ notIf notb y) s

/-- R93: `shl`. -/
def execShl (d : Dst) (a b : Src) (m : Bool) (s : State) : Out := alu2 d a b m shlVal s

/-- R93: `shr`. -/
def execShr (d : Dst) (a b : Src) (ari : Bool) (m : Bool) (s : State) : Out := alu2 d a b m (shrVal ari) s

/-- R94: `bfx`. -/
def execBfx (d : Dst) (a b : Src) (sx : Bool) (m : Bool) (s : State) : Out := alu2 d a b m (bfxVal sx) s

/-- R94: `bfi`. -/
def execBfi (d : Dst) (a b : Src) (m : Bool) (s : State) : Out := alu3 d a b m bfiVal s

/-- R95: `bits`. -/
def execBits (d : Dst) (a : Src) (f : BitsF) (m : Bool) (s : State) : Out := alu1 d a m (bitsVal f) s

/-- R96: `add64`. -/
def execAdd64 (d : Dst) (a b : Src) (f : Add64F) (m : Bool) (s : State) : Out :=
  s.issue (Req.any [fd d 2, fa a 2, fb b 2]) fun k t =>
    s.finishF k t (d.dests t.wb.toNat 2) (pairWords (add64Val f (a.get64 s k t) (b.get64 s k t))) 0 (lits2 a b) m

/-- R97: `movi`. -/
def execMovi (c : Dst) (i : BitVec 17) (m : Bool) (s : State) : Out :=
  s.issue (Req.any [fc c 1]) fun k t => s.finishF k t (c.dests t.wb.toNat 1) [i.signExtend 32] 0 0 m

/-- R98: `idiv`, of class V. -/
def execIdiv (d : Dst) (a b : Src) (f : IdivF) (m : Bool) (s : State) : Out :=
  s.issue (Req.any [fd d 1, fa a 1, fb b 1]) fun k t =>
    s.finishV k t (d.dests t.wb.toNat 1) (some [idivVal f (a.get32 s k t) (b.get32 s k t)]) 0 false none (lits2 a b) m

/-- R99: `iabs`. -/
def execIabs (d : Dst) (a : Src) (f : IabsF) (m : Bool) (s : State) : Out := alu1 d a m (iabsVal f) s

end Sys2Proof.Machine
end

