-- ==== Sys2Proof/Machine/Lane.lean ====
section
/-!
DEFINITION. Conversions, compares, selects, moves, special registers and the wave-convergent instructions (R112 to R129,
R180).
-/
namespace Sys2Proof.Machine

/-! ## Conversions -/

/-- Registers of d and of a that a conversion uses (Table 5-3). -/
def CvtWidth (c : CvtC) : Nat × Nat :=
  match c with
  | .s64f32 | .n64f32 => (1, 2)
  | .f32s64 | .f32n64 => (2, 1)
  | .bf16f32 => (2, 1)
  | .f32bf16 => (1, 2)
  | .f32e4m3 | .f32e5m2 => (1, 4)
  | .e4m3f32 | .e5m2f32 => (4, 1)
  | _ => (1, 1)

/-- The words of a number. -/
def natWordsOf (n x : Nat) : List Word := (List.range n).map fun i => BitVec.ofNat 32 (x / 2 ^ (32 * i))

/-- Four 8-bit results as one word. -/
def bytes4 (l : List FOut) : Nat := (l.zipIdx).foldl (fun n (o, i) => n + o.bits % 256 * 2 ^ (8 * i)) 0

/-- The flags of several results ORed. -/
def orFlags (l : List FOut) : Word := l.foldl (fun f o => f ||| o.flags) 0

/-- The result of a conversion (R112 to R115): the words written and the flags. -/
def cvtVal (c : CvtC) (f : Rnd) (a : List Word) : List Word × Word :=
  let a0 := a.getD 0 0
  let v := fp32 a0
  let p : Pair := a.getD 1 0 ++ a0
  let one (o : FOut) : List Word × Word := ([BitVec.ofNat 32 o.bits], o.flags)
  let many (l : List FOut) : List Word × Word := (l.map fun o => BitVec.ofNat 32 o.bits, orFlags l)
  let byte (j : Nat) : BitVec 8 := a0.extractLsb' (8 * j) 8
  match c with
  | .f32s32 => let (x, g) := toInteger f 32 true v; (natWordsOf 1 x, g)
  | .f32n32 => let (x, g) := toInteger f 32 false v; (natWordsOf 1 x, g)
  | .f32s64 => let (x, g) := toInteger f 64 true v; (natWordsOf 2 x, g)
  | .f32n64 => let (x, g) := toInteger f 64 false v; (natWordsOf 2 x, g)
  | .s32f32 => one (fromInteger f a0.toInt)
  | .n32f32 => one (fromInteger f a0.toNat)
  | .s64f32 => one (fromInteger f p.toInt)
  | .n64f32 => one (fromInteger f p.toNat)
  | .f32bf16 => one (packed2 (toBf16 f v) (toBf16 f (fp32 (a.getD 1 0))))
  | .bf16f32 => many [fromBf16 (a0.extractLsb' 0 16), fromBf16 (a0.extractLsb' 16 16)]
  | .f32e4m3 => let l := a.map fun x => toE4m3 f (fp32 x); (natWordsOf 1 (bytes4 l), orFlags l)
  | .e4m3f32 => many ((List.range 4).map fun j => fromE4m3 (byte j))
  | .f32e5m2 => let l := a.map fun x => toE5m2 f (fp32 x); (natWordsOf 1 (bytes4 l), orFlags l)
  | .e5m2f32 => many ((List.range 4).map fun j => fromE5m2 (byte j))

/-- The words of a source of 1, 2 or 4 registers. -/
def srcWords (s : State) (k : Nat) (t : Thread) (a : Src) (w : Nat) : List Word :=
  match w with
  | 1 => [a.get32 s k t]
  | 2 => pairWords (a.get64 s k t)
  | _ => a.get128 t

/-- R112: `cvt`. -/
def execCvt (d : Dst) (a : Src) (code : CvtC) (f : Rnd) (m : Bool) (s : State) : Out :=
  let (wd, wa) := CvtWidth code
  s.issue (Req.any [fd d wd, fa a wa]) fun k t =>
    let (vs, fl) := cvtVal code f (srcWords s k t a wa)
    s.finishF k t (d.dests t.wb.toNat wd) vs fl (lits1 a) m

/-! ## Compares, selects and moves -/

/-- Whether an integer relation holds (Table 5-5). -/
def icmpVal (f : IcmpF) (a b : Word) : Bool :=
  match f with
  | .eq => a == b
  | .ne => a != b
  | .lt => a.slt b
  | .le => a.sle b
  | .gt => b.slt a
  | .ge => b.sle a
  | .ltn => a.ult b
  | .len => a.ule b

/-- 1 or 0. -/
def bool32 (b : Bool) : Word := if b then 1 else 0

/-- R116: `icmp`. -/
def execIcmp (d : Dst) (a b : Src) (f : IcmpF) (m : Bool) (s : State) : Out :=
  s.issue (Req.any [fd d 1, fa a 1, fb b 1]) fun k t =>
    s.finishF k t (d.dests t.wb.toNat 1) [bool32 (icmpVal f (a.get32 s k t) (b.get32 s k t))] 0 (lits2 a b) m

/-- R116: `fcmp`; it needs no role. -/
def execFcmp (d : Dst) (a b : Src) (f : FcmpF) (m : Bool) (s : State) : Out :=
  s.issue (Req.any [fd d 1, fa a 1, fb b 1]) fun k t =>
    s.finishF k t (d.dests t.wb.toNat 1) [bool32 (fcmp f (a.get32 s k t) (b.get32 s k t))]
      (fcmpFlags (a.get32 s k t) (b.get32 s k t)) (lits2 a b) m

/-- R117: `sel`. -/
def execSel (d : Dst) (a b : Src) (w64 : Bool) (m : Bool) (s : State) : Out :=
  if w64 then
    s.issue (Req.any [fdr d 2, fa a 2, fb b 2]) fun k t =>
      s.finishF k t (d.dests t.wb.toNat 2) (pairWords (if d.get64 t = 0 then b.get64 s k t else a.get64 s k t)) 0
        (lits2 a b) m
  else
    s.issue (Req.any [fdr d 1, fa a 1, fb b 1]) fun k t =>
      s.finishF k t (d.dests t.wb.toNat 1) [if d.get32 t = 0 then b.get32 s k t else a.get32 s k t] 0 (lits2 a b) m

/-- Registers that a form of `mov` moves. -/
def movWidth : MovF → Nat
  | .w32 => 1
  | .w64 => 2
  | .w128 => 4

/-- R118: `mov`. -/
def execMov (d : Dst) (a : Src) (f : MovF) (m : Bool) (s : State) : Out :=
  s.issue (Req.any [fd d (movWidth f), fa a (movWidth f)]) fun k t =>
    s.finishF k t (d.dests t.wb.toNat (movWidth f)) (srcWords s k t a (movWidth f)) 0 (lits1 a) m

/-- One byte of `prm` (R119). -/
def prmByte (old : Word) (src : Pair) (j : Nat) : BitVec 8 :=
  let sel := old.extractLsb' (4 * j) 4
  let b := src.extractLsb' (8 * (sel.extractLsb' 0 3).toNat) 8
  if sel.getLsbD 3 then (if b.getLsbD 7 then 0xff else 0) else b

/-- `prm` (R119). -/
def prmVal (old a b : Word) : Word :=
  let src : Pair := b ++ a
  prmByte old src 3 ++ prmByte old src 2 ++ prmByte old src 1 ++ prmByte old src 0

/-- R119: `prm`. -/
def execPrm (d : Dst) (a b : Src) (m : Bool) (s : State) : Out :=
  s.issue (Req.any [fdr d 1, fa a 1, fb b 1]) fun k t =>
    s.finishF k t (d.dests t.wb.toNat 1) [prmVal (d.get32 t) (a.get32 s k t) (b.get32 s k t)] 0 (lits2 a b) m

/-! ## Special registers (R120, R180) -/

/-- Registers that a special register's value fills (Table 5-6). -/
def spWidth (c : SpReg) : Nat :=
  match c with
  | .workId | .f0 | .f1 | .f2 | .f3 | .f4 | .f5 | .args | .cycles | .trapPc | .trapAddr => 2
  | _ => 1

/-- The launch of a context. -/
def State.launchOf (s : State) (c : Ctx) : Option Launch := Tab.find s.launches c.launch

/-- Field `i` of an identifier under a launch's widths (R164). -/
def idField (widths : List Nat) (x : Nat) (i : Nat) : Nat := x / 2 ^ ((widths.take i).foldl (· + ·) 0) % 2 ^ (widths.getD i 0)

/-- The value of a special register in a thread. -/
def State.special (s : State) (k : Nat) (t : Thread) (c : SpReg) : Pair :=
  let b := s.block (blkOf k)
  let x := s.ctx b.ctx
  let w := s.wave k
  let field (i : Nat) : Pair := match s.launchOf x with
    | some l => BitVec.ofNat 64 (idField l.widths t.workId.toNat i)
    | none => 0
  match c with
  | .workId => t.workId
  | .f0 => field 0
  | .f1 => field 1
  | .f2 => field 2
  | .f3 => field 3
  | .f4 => field 4
  | .f5 => field 5
  | .threadInBlock => BitVec.ofNat 64 (tidOf k)
  | .waveInBlock => BitVec.ofNat 64 (waveOf k)
  | .lane => BitVec.ofNat 64 (laneOf k)
  | .waves => BitVec.ofNat 64 x.header.waves
  | .gangIndex => BitVec.ofNat 64 b.gidx
  | .coreNo => BitVec.ofNat 64 b.core
  | .asid => BitVec.ofNat 64 x.asid
  | .scratch => BitVec.ofNat 64 x.header.scratch
  | .status => w.status.zeroExtend 64
  | .wb => t.wb.zeroExtend 64
  | .alloc => BitVec.ofNat 64 w.alloc
  | .args => match s.launchOf x with | some l => l.args | none => 0
  | .cycles => BitVec.ofNat 64 s.clock
  | .trapCause => t.trap.cause.zeroExtend 64
  | .trapPc => t.trap.pc
  | .trapAddr => t.trap.addr
  | .trapDetail => t.trap.detail.zeroExtend 64

/-- The words of a value of 1 or 2 registers. -/
def valWords (w : Nat) (x : Pair) : List Word := (pairWords x).take w

/-- R120, R180: `rdsr`; with `clr` it clears the status bits that it returns (R41). -/
def execRdsr (d : Dst) (code : SpReg) (clr : Bool) (m : Bool) (s : State) : Out :=
  s.issue (Req.any [fd d (spWidth code)]) fun k t =>
    let v := s.special k t code
    let s := if clr then s.updWave (waveKey k) fun w => { w with status := w.status &&& ~~~(v.extractLsb' 0 32) } else s
    s.finishF k t (d.dests t.wb.toNat (spWidth code)) (valWords (spWidth code) v) 0 0 m

/-! ## Wave-convergent instructions (R121 to R129) -/

/-- A participant: its key, its thread, what it arrived with, and its literal words and marker. -/
structure Part where
  k : Nat
  t : Thread
  op : ConvOp
  ds : List RegId
  sw : Bool
  lits : Nat
  deriving DecidableEq, Repr

/-- The participant that a thread is, none where it does not wait at a convergent instruction. -/
def asPart (k : Nat) (t : Thread) : Option Part :=
  match t.status with
  | .waiting (.conv op ds sw) lits => some { k := k, t := t, op := op, ds := ds, sw := sw, lits := lits }
  | _ => none

/-- The a operand of a participant. -/
def ConvOp.a : ConvOp → Word
  | .shfl _ a _ => a
  | .vote _ a => a
  | .wred _ a => a
  | .fwred _ a => a
  | .wscn _ a => a
  | .kset _ a => a.extractLsb' 0 32
  | .ldk _ _ => 0

/-- Source lane of a `shfl` (R125). -/
def shflLane (f : ShflF) (l : Nat) (b : Word) : Option Nat :=
  match f with
  | .idx => some (b.toNat % 32)
  | .up => if b.toNat ≤ l then some (l - b.toNat) else none
  | .down => if l + b.toNat ≤ 31 then some (l + b.toNat) else none
  | .xor => some (l ^^^ (b.toNat % 32))

/-- The a of a lane among the participants. -/
def laneVal (ps : List Part) (l : Nat) : Option Word := (ps.find? fun p => laneOf p.k == l).map fun p => p.op.a

/-- Result of a `shfl` in a participant. -/
def shflVal (ps : List Part) (p : Part) (f : ShflF) (b : Word) : Word :=
  match shflLane f (laneOf p.k) b with
  | some l => (laneVal ps l).getD p.op.a
  | none => p.op.a

/-- Result of a `vote` (R126). -/
def voteVal (ps : List Part) (p : Part) (f : VoteF) : Word :=
  match f with
  | .any => bool32 (ps.any fun q => q.op.a != 0)
  | .all => bool32 (ps.all fun q => q.op.a != 0)
  | .ballot => ps.foldl (fun m q => if q.op.a = 0 then m else m ||| laneBit (laneOf q.k)) 0
  | .elect => bool32 (ps.head?.map (fun q => q.k) == some p.k)

/-- One combination of `wred` (R127). -/
def wred2 (f : WredF) (x y : Word) : Word :=
  match f with
  | .add => x + y
  | .smin => imnxVal .smin x y
  | .smax => imnxVal .smax x y
  | .nmin => imnxVal .nmin x y
  | .nmax => imnxVal .nmax x y
  | .and => x &&& y
  | .or => x ||| y
  | .xor => x ^^^ y

/-- The reduction of a list that is not empty. -/
def reduce {α : Type} (f : α → α → α) (d : α) : List α → α
  | [] => d
  | x :: r => r.foldl f x

/-- The smallest or largest of FP32 values that are no NaN, -0 below +0 (R103). -/
def fpExtreme (low : Bool) (l : List Word) : Word :=
  reduce (fun x y => if low then (if FVal.below (fp32 y) (fp32 x) then y else x)
    else (if FVal.below (fp32 x) (fp32 y) then y else x)) 0 l

/-- Result and flags of an `fwred` (R127): the operations of R103 across the values, or their exact sum rounded once. -/
def fwredVal (f : FwredF) (l : List Word) : FOut :=
  let nums := l.filter fun x => !(fp32 x).isNan
  let fl := flagIf (l.any fun x => (fp32 x).isSig) flagIV
  let strict (low : Bool) : FOut :=
    if nums.length = l.length then ⟨(fpExtreme low l).toNat, fl⟩ else ⟨Fmt.fp32.qnan, fl⟩
  let loose (low : Bool) : FOut := if nums.isEmpty then ⟨Fmt.fp32.qnan, fl⟩ else ⟨(fpExtreme low nums).toNat, fl⟩
  match f with
  | .sum => fsum Fmt.fp32 .rn false (l.map fp32)
  | .min => strict true
  | .max => strict false
  | .minnum => loose true
  | .maxnum => loose false

/-- The a values of the participants at lanes below one, in lane order. -/
def valsBelow (ps : List Part) (l : Nat) (incl : Bool) : List Word :=
  (ps.filter fun q => decide (laneOf q.k < l) || (incl && laneOf q.k == l)).map fun q => q.op.a

/-- Result of a `wscn` in a participant (R128). -/
def wscnVal (ps : List Part) (p : Part) (f : WscnF) : Word :=
  let l := laneOf p.k
  match f with
  | .incadd => (valsBelow ps l true).foldl (· + ·) 0
  | .excadd => (valsBelow ps l false).foldl (· + ·) 0
  | .incor => (valsBelow ps l true).foldl (· ||| ·) 0
  | .excor => (valsBelow ps l false).foldl (· ||| ·) 0

/-- A participant goes on with a class F result. -/
def State.convF (s : State) (p : Part) (vs : List Word) : State :=
  s.wake p.k (p.t.putRegs p.ds vs) p.lits

/-- A participant goes on while its class V result comes (R64). -/
def State.convV (s : State) (p : Part) (vs : List Word) (flags : Word) : State :=
  let r : Pend := { order := p.t.order, dests := p.ds, vals := some vs, flags := flags, traps := true, fault := none, pc := p.t.pc }
  let idle := p.ds.isEmpty && flags == 0
  s.wake p.k { p.t with pend := if idle then p.t.pend else p.t.pend ++ [r]
                        runV := if p.sw then p.t.runV else p.t.runV ++ p.ds } p.lits

/-- Groups of the participants go on. -/
def State.partsNext (s : State) (ps : List Part) : State :=
  ps.foldl (fun s p => match s.groupOf p.k with | some (g, _) => s.groupNext g | none => s) s

/-- A participant's effect once the instruction completes. -/
def State.convOne (s : State) (ps : List Part) (p : Part) : State :=
  match p.op with
  | .shfl f _ b => s.convF p [shflVal ps p f b]
  | .vote f _ => s.convF p [voteVal ps p f]
  | .wred f _ => s.convV p [reduce (wred2 f) 0 (ps.map fun q => q.op.a)] 0
  | .fwred f _ => let o := fwredVal f (ps.map fun q => q.op.a); s.convV p [BitVec.ofNat 32 o.bits] o.flags
  | .wscn f _ => s.convV p [wscnVal ps p f] 0
  | .kset _ _ => s.convF p []
  | .ldk _ _ => s

/-- The read of an `ldk` by its lowest-numbered participant (R260, R261): a fault is that thread's alone. -/
def State.ldkRead (s : State) (ps : List Part) (p : Part) (w64 : Bool) (addr : Pair) : State :=
  let n := if w64 then 8 else 4
  match s.locate (s.agent p.k) addr.toNat n n Need.load true with
  | (s, .error x) => s.stopThread p.k { p.t with status := .ready } x
  | (s, .ok pl) =>
    if s.badAt p.k pl n then s.stopThread p.k { p.t with status := .ready } (.poison addr.toNat)
    else
      let (s, b) := s.loadAt p.k pl n
      ps.foldl (fun s q => s.convV q (wordsOf b) 0) s

/-- Completes a convergent instruction of a wave when each of its threads has arrived at one PC or has exited (R121). -/
def State.convSettle (s : State) (w : Nat) : State :=
  let live := (s.waveThreads w).filter fun (_, t) => t.status != .exited
  let ps := live.filterMap fun (k, t) => asPart k t
  match ps with
  | [] => s
  | p :: _ =>
    if ps.length = live.length && ps.all (fun q => q.t.pc == p.t.pc) then
      match p.op with
      | .ldk w64 addr => (s.ldkRead ps p w64 addr).partsNext ps
      | .kset w64 a =>
        let vs := if w64 then pairWords a else [a.extractLsb' 0 32]
        let s := s.updWave w fun v => { v with kregs := writeKregs v.kregs p.ds vs, kbad := v.kbad.filter fun n => !p.ds.contains (.k n) }
        (ps.foldl (fun s q => s.convOne ps q) s).partsNext ps
      | _ => (ps.foldl (fun s q => s.convOne ps q) s).partsNext ps
    else s

/-- A thread arrives at a convergent instruction. -/
def State.convArrive (s : State) (k : Nat) (t : Thread) (op : ConvOp) (ds : List RegId) (lits : Nat) (m : Bool) : State :=
  let w := waveKey k
  let others := (s.waveThreads w).any fun (_, u) => u.inConv && u.pc == t.pc
  let first := if others then Tab.getD (s.wave k).conv t.pc.toNat (s.issueClock k t) else s.issueClock k t
  let s := s.updWave w fun v => { v with conv := Tab.put v.conv t.pc.toNat first }
  (s.waitAt k t (.conv op ds m) lits m).convSettle w

/-- Everything that waited for a thread is looked at again after its exit or withdrawal. -/
def State.settleAll (s : State) (k : Nat) : State := (s.convSettle (waveKey k)).settle k

/-- R125: `shfl`. -/
def execShfl (d : Dst) (a b : Src) (f : ShflF) (m : Bool) (s : State) : Out :=
  s.issue (Req.any [fd d 1, fa a 1, fb b 1]) fun k t =>
    s.convArrive k t (.shfl f (a.get32 s k t) (b.get32 s k t)) (d.dests t.wb.toNat 1) (lits2 a b) m

/-- R126: `vote`; elect does not use a. -/
def execVote (d : Dst) (a : Src) (f : VoteF) (m : Bool) (s : State) : Out :=
  s.issue (Req.any (if f = .elect then [fd d 1] else [fd d 1, fa a 1])) fun k t =>
    s.convArrive k t (.vote f (a.get32 s k t)) (d.dests t.wb.toNat 1) (lits1 a) m

/-- R127: `wred`. -/
def execWred (d : Dst) (a : Src) (f : WredF) (m : Bool) (s : State) : Out :=
  s.issue (Req.any [fd d 1, fa a 1]) fun k t =>
    s.convArrive k t (.wred f (a.get32 s k t)) (d.dests t.wb.toNat 1) (lits1 a) m

/-- R127: `fwred`, of the vector role. -/
def execFwred (d : Dst) (a : Src) (f : FwredF) (m : Bool) (s : State) : Out :=
  s.issue (Req.vector [fd d 1, fa a 1]) fun k t =>
    s.convArrive k t (.fwred f (a.get32 s k t)) (d.dests t.wb.toNat 1) (lits1 a) m

/-- R128: `wscn`. -/
def execWscn (d : Dst) (a : Src) (f : WscnF) (m : Bool) (s : State) : Out :=
  s.issue (Req.any [fd d 1, fa a 1]) fun k t =>
    s.convArrive k t (.wscn f (a.get32 s k t)) (d.dests t.wb.toNat 1) (lits1 a) m

/-- R129: `kset`. -/
def execKset (d : Dst) (a : Src) (w64 : Bool) (m : Bool) (s : State) : Out :=
  let w := if w64 then 2 else 1
  s.issue (Req.any [fkd d w, fa a w]) fun k t =>
    let v := if w64 then a.get64 s k t else (a.get32 s k t).zeroExtend 64
    s.convArrive k t (.kset w64 v) (d.dests t.wb.toNat w) (lits1 a) m

/-- R260: `ldk`. -/
def execLdk (d : Dst) (a b : Src) (w64 : Bool) (m : Bool) (s : State) : Out :=
  s.issue (Req.any [fkd d (if w64 then 2 else 1), fa a 2, fb b 1]) fun k t =>
    let addr := a.get64 s k t + (b.get32 s k t).signExtend 64
    s.convArrive k t (.ldk w64 addr) (d.dests t.wb.toNat (if w64 then 2 else 1)) (lits2 a b) m

end Sys2Proof.Machine
end

