-- ==== Sys2Proof/Machine/MemOps.lean ====
section
/-!
DEFINITION. The memory instructions: loads, stores, scoped accesses, the fence, atomics, cells, bank lines, cache control
and `ldb` (R161, R241 to R259).
-/
namespace Sys2Proof.Machine

/-! ## Forms -/

/-- An access at issue (R243): the instruction stops, or goes on with the place. -/
def State.reach (s : State) (k : Nat) (t : Thread) (addr : Pair) (n align : Nat) (d : Need) (host : Bool)
    (go : State → Place → State) : State :=
  match s.locate (s.agent k) addr.toNat n align d host with
  | (s, .error x) => s.stopThread k t x
  | (s, .ok p) => go s p

/-- A read at issue of `n` bytes aligned to `n`, as a load. -/
def State.loadAccess (s : State) (k : Nat) (t : Thread) (addr : Pair) (n : Nat) (go : State → List Byte → State) : State :=
  s.reach k t addr n n Need.load true fun s p =>
    if s.badAt k p n then s.stopThread k t (.poison addr.toNat)
    else
      let (s, b) := s.loadAt k p n
      go s b

/-- The address of the instructions with an offset (R242). -/
def offsetAddr (s : State) (k : Nat) (t : Thread) (a b : Src) : Pair := a.get64 s k t + (b.get32 s k t).signExtend 64

/-- A home operation is issued (R254), or buffered in a RELAUNCH phase (R388), where its value comes from the line as the
phase first read it. -/
def State.homeIssue (s : State) (k : Nat) (t : Thread) (addr : Pair) (p : Place) (kind : HomeKind) (ds : List RegId)
    (lits : Nat) (m : Bool) : State :=
  if s.buffers (blkOf k) p then
    if s.placeBad p kind.size && !ds.isEmpty then s.stopThread k t (.poison addr.toNat) else
    let (s, l) := s.firstLine (blkOf k) p kind.size
    let seen := bufView (s.block (blkOf k)).buffer p.line.1 l
    match s.buffer (blkOf k) [.op p addr.toNat kind 0] with
    | none => s.trapAt k t (poolTrap addr.toNat Need.atomic kind.size)
    | some s => s.finishV k t ds (some (kind.run seen p.line.2).2) 0 false none lits m
  else
    let h : HomeOp := { thread := k, prog := t.order, order := if ds.isEmpty then none else some t.order, place := p, kind := kind,
                        asid := (s.ctxOf k).asid, n := 0, va := addr, pc := t.pc }
    ({ s with homeQ := s.homeQ ++ [h] }).finishV k t ds (if ds.isEmpty then some [] else none) 0 false none lits m

/-! ## Loads and stores -/

/-- Bytes of a load (R246). -/
def ldSize : LdF → Nat
  | .b8z | .b8s => 1
  | .b16z | .b16s => 2
  | .b32 => 4
  | .b64 => 8
  | .b128 => 16

/-- Registers of a load. -/
def ldWidth : LdF → Nat
  | .b64 => 2
  | .b128 => 4
  | _ => 1

/-- The words that a load writes. -/
def ldVal (f : LdF) (b : List Byte) : List Word :=
  match f with
  | .b8s => [(valOf 8 b).signExtend 32]
  | .b16s => [(valOf 16 b).signExtend 32]
  | .b8z | .b16z => [valOf 32 b]
  | _ => wordsOf b

/-- Which half of a 16-byte access is performed first (R244): none where both are performed together; a phase's buffered access is whole. -/
def State.firstHalf (s : State) (k : Nat) (p : Place) (quad : Bool) : State × Option Bool :=
  if quad && !s.buffers (blkOf k) p then
    match s.pick 3 with
    | (0, s) => (s, none)
    | (i, s) => (s, some (i == 2))
  else (s, none)

/-- Offset of the half, upper or lower, of a 16-byte access. -/
def halfOffset (upper : Bool) : Nat := if upper then 8 else 0

/-- The second half of a 16-byte access goes its own way (R244). -/
def State.sendHalf (s : State) (k : Nat) (t : Thread) (addr : Pair) (p : Place) (upper : Bool) (order : Option Nat) (kind : HomeKind) : State :=
  let h : HomeOp := { thread := k, prog := t.order, order := order, place := p.add (halfOffset upper), kind := kind,
                      asid := (s.ctxOf k).asid, n := 0, va := addr + BitVec.ofNat 64 (halfOffset upper), pc := t.pc }
  { s with homeQ := s.homeQ ++ [h] }

/-- R246: `ld`. -/
def execLd (d : Dst) (a b : Src) (f : LdF) (m : Bool) (s : State) : Out :=
  s.issue (Req.any [fd d (ldWidth f), fa a 2, fb b 1]) fun k t =>
    let addr := offsetAddr s k t a b
    let ds := d.dests t.wb.toNat (ldWidth f)
    s.reach k t addr (ldSize f) (ldSize f) Need.load true fun s p =>
      if s.badAt k p (ldSize f) then s.stopThread k t (.poison addr.toNat)
      else
        match s.firstHalf k p (f == .b128) with
        | (s, none) => let (s, x) := s.loadAt k p (ldSize f); s.finishV k t ds (some (ldVal f x)) 0 false none (lits2 a b) m
        | (s, some upper) =>
          let (s, x) := s.loadAt k (p.add (halfOffset upper)) 8
          (s.sendHalf k t addr p (!upper) (some t.order) (.ldHalf (!upper) (wordsOf x))).finishV k t ds none 0 false none (lits2 a b) m

/-- Bytes of a store (R247). -/
def stSize : StF → Nat
  | .b8 => 1
  | .b16 => 2
  | .b32 => 4
  | .b64 => 8
  | .b128 => 16

/-- Registers of a store. -/
def stWidth : StF → Nat
  | .b64 => 2
  | .b128 => 4
  | _ => 1

/-- R247: `st`. -/
def execSt (d : Dst) (a b : Src) (f : StF) (m : Bool) (s : State) : Out :=
  s.issue (Req.any [fdr d (stWidth f), fa a 2, fb b 1]) fun k t =>
    let addr := offsetAddr s k t a b
    let bytes := (bytesOfWords (d.gets t (stWidth f))).take (stSize f)
    s.reach k t addr (stSize f) (stSize f) Need.store true fun s p =>
      match s.firstHalf k p (f == .b128) with
      | (s, none) =>
        match s.storeAt k p addr.toNat bytes with
        | some s => s.finishV k t [] (some []) 0 false none (lits2 a b) m
        | none => s.trapAt k t (poolTrap addr.toNat Need.store (stSize f))
      | (s, some upper) =>
        let first := (bytes.drop (halfOffset upper)).take 8
        let rest := (bytes.drop (halfOffset (!upper))).take 8
        let s := (s.drain k).plainStore k (p.add (halfOffset upper)) first
        (s.sendHalf k t addr p (!upper) none (.stHalf (valOf 64 rest))).finishV k t [] (some []) 0 false none (lits2 a b) m

/-- R249: `lda`; a promotion comes before the read, the acquire after it.  At gang scope and above the read is made at the
home. -/
def execLda (d : Dst) (a b : Src) (f : Scope) (m : Bool) (s : State) : Out :=
  s.issue (Req.any [fd d 2, fa a 2, fb b 1]) fun k t =>
    let addr := offsetAddr s k t a b
    s.reach k t addr 8 8 Need.load true fun s p =>
      let s := s.promote k f
      let s := if scopeWide f then s.dropLineAt (s.coreOf k) p else s
      if s.badAt k p 8 then s.stopThread k t (.poison addr.toNat)
      else
        let (s, x) := s.loadAt k p 8
        (s.acquire k f).finishV k t (d.dests t.wb.toNat 2) (some (wordsOf x)) 0 false none (lits2 a b) m

/-- R249: `stl`: the release, then the store, which is written through to the home. -/
def execStl (d : Dst) (a b : Src) (f : Scope) (m : Bool) (s : State) : Out :=
  s.issue { illegal := !f.releasable, role := 0, flds := [fdr d 2, fa a 2, fb b 1], rel := true } fun k t =>
    let addr := offsetAddr s k t a b
    s.reach k t addr 8 8 Need.store true fun s p =>
      match (s.release k f).storeAt k p addr.toNat (bytesOfWords (d.gets t 2)) with
      | some s => (s.dropLineAt (s.coreOf k) p).finishV k t [] (some []) 0 false none (lits2 a b) m
      | none => s.trapAt k t (poolTrap addr.toNat Need.store 8)

/-! ## The fence (R250) -/

/-- The scope is die scope or wider. -/
def scopeDie : Scope → Bool
  | .wave => false
  | .block => false
  | .gang => false
  | _ => true

/-- A die's bank units perform every `bnk` of an ASID that is on its way (R258). -/
def State.drainBanks (s : State) (asid die : Nat) : State :=
  let here (h : HomeOp) : Bool := h.asid == asid && (match h.place with | .bank d _ => d == die | _ => false)
  (dedup ((s.bankQ.filter here).map fun h => h.thread)).foldl State.drain s

/-- The acquire of a fence (R250): what the thread's earlier reads observed, among them the numbers of bank operations, which stand for all
those before them (R258), comes first. -/
def State.fenceAcquire (s : State) (k : Nat) (f : Scope) : State :=
  let s := s.drain k
  let s := if scopeDie f then s.drainBanks (s.ctxOf k).asid (dieOf (s.coreOf k)) else s
  (s.promote k f).acquire k f

/-- R250: `fence` kind 0, a release, then an acquire. -/
def execFenceAcqrel (f : Scope) (m : Bool) (s : State) : Out :=
  s.issue (Req.release []) fun k t => ((s.release k f).fenceAcquire k f).finishV k t [] (some []) 0 false none 0 m

/-- R250: `fence` kind 1, an acquire. -/
def execFenceAcq (f : Scope) (m : Bool) (s : State) : Out :=
  s.issue (Req.any []) fun k t => (s.fenceAcquire k f).finishV k t [] (some []) 0 false none 0 m

/-- R250: `fence` kind 2, a release; f = 6 and 7 are reserved with it. -/
def execFenceRel (f : Scope) (m : Bool) (s : State) : Out :=
  s.issue { illegal := !f.releasable, role := 0, flds := [], rel := true } fun k t =>
    (s.release k f).finishV k t [] (some []) 0 false none 0 m

/-! ## Atomics (R252, R253) -/

/-- R252: `atom`. -/
def execAtom (d : Dst) (a b : Src) (f : AtomF) (m : Bool) (s : State) : Out :=
  s.issue (Req.release [fd d 1, fa a 2, fb b 1]) fun k t =>
    let addr := a.get64 s k t
    let x := (b.get32 s k t).zeroExtend 64
    s.reach k t addr 4 4 Need.atomic false fun s p =>
      s.homeIssue k t addr p (.atom f false x) (d.dests t.wb.toNat 1) (lits2 a b) m

/-- R252: `atom64`. -/
def execAtom64 (d : Dst) (a b : Src) (f : AtomF) (m : Bool) (s : State) : Out :=
  s.issue (Req.release [fd d 2, fa a 2, fb b 2]) fun k t =>
    let addr := a.get64 s k t
    let x := b.get64 s k t
    s.reach k t addr 8 8 Need.atomic false fun s p =>
      s.homeIssue k t addr p (.atom f true x) (d.dests t.wb.toNat 2) (lits2 a b) m

/-- R253: `cas`. -/
def execCas (d : Dst) (a b : Src) (w64 : Bool) (m : Bool) (s : State) : Out :=
  let w := if w64 then 2 else 1
  s.issue (Req.release [fdr d w, fa a 2, fb b w]) fun k t =>
    let addr := a.get64 s k t
    let e := if w64 then d.get64 t else (d.get32 t).zeroExtend 64
    let x := if w64 then b.get64 s k t else (b.get32 s k t).zeroExtend 64
    s.reach k t addr (4 * w) (4 * w) Need.atomic false fun s p =>
      s.homeIssue k t addr p (.cas w64 e x) (d.dests t.wb.toNat w) (lits2 a b) m

/-! ## Cells (R255, R256) -/

/-- R255: `fxadd`. -/
def execFxadd (a b : Src) (m : Bool) (s : State) : Out :=
  s.issue (Req.release [fa a 2, fb b 1]) fun k t =>
    let addr := a.get64 s k t
    let x := b.get32 s k t
    s.reach k t addr 16 16 Need.atomic false fun s p => s.homeIssue k t addr p (.cellAdd x) [] (lits2 a b) m

/-- The bytes of a cell, read whole at its home (R256). -/
def State.readCell (s : State) (k : Nat) (p : Place) : State × List Byte :=
  let s := (s.drain k).dropLineAt (s.coreOf k) p
  let l := Line.of (s.readPlace p.line.1 64)
  if s.buffers (blkOf k) p then
    (s.noteRead (blkOf k) p 16 l, Line.get (bufView (s.block (blkOf k)).buffer p.line.1 l) p.line.2 16)
  else (s, Line.get l p.line.2 16)

/-- R256: `fxrd`. -/
def execFxrd (d : Dst) (a : Src) (raw : Bool) (m : Bool) (s : State) : Out :=
  let w := if raw then 4 else 1
  s.issue (Req.any [fd d w, fa a 2]) fun k t =>
    let addr := a.get64 s k t
    s.reach k t addr 16 16 Need.cellRead false fun s p =>
      if s.badAt k p 16 then s.stopThread k t (.poison addr.toNat)
      else
        let (s, b) := s.readCell k p
        let o := cellRead (valOf 128 b)
        let vs := if raw then wordsOf b else [BitVec.ofNat 32 o.bits]
        s.finishV k t (d.dests t.wb.toNat w) (some vs) (if raw then 0 else o.flags) false none (lits1 a) m

/-! ## Bank lines (R257, R258) -/

/-- Number that a bank unit gives the next operation of an ASID. -/
def State.bankNext (s : State) (asid die : Nat) : Nat :=
  match Tab.find s.asids asid with
  | some a => Tab.getD a.bankN die 0 + 1
  | none => 1

/-- The places of a `bnk`'s bank line and source line, or the trap of its first failing check (R243, Table 13-2). -/
def State.bnkPlaces (s : State) (k : Nat) (a b : Pair) : Except TrapInfo (Place × Place) :=
  let g := s.agent k
  let bank := match s.window g a.toNat 64 with | some (.place (.bank d o)) => some (Place.bank d o) | _ => none
  let own := if b.toNat / 2 ^ 56 = 0xF0 then
      match s.window g b.toNat 64 with | some (.place p) => some p | _ => none
    else none
  match bank, own with
  | none, _ => .error (accTrap 0x07 a.toNat 0 2 64)
  | _, none => .error (accTrap 0x07 b.toNat 0 0 64)
  | some p, some q =>
    if a.toNat % 64 ≠ 0 then .error (accTrap 0x06 a.toNat 0 2 64)
    else if b.toNat % 64 ≠ 0 then .error (accTrap 0x06 b.toNat 0 0 64)
    else .ok (p, q)

/-- R257: `bnk`.  In a RELAUNCH phase it takes its number, which d receives, at issue: R388 has the operation performed at the commit alone and
does not say when it is numbered (log 86). -/
def execBnk (d : Dst) (a b : Src) (f : BnkF) (m : Bool) (s : State) : Out :=
  s.issue (Req.release [fd d 2, fa a 2, fb b 2]) fun k t =>
    match s.bnkPlaces k (a.get64 s k t) (b.get64 s k t) with
    | .error i => s.trapAt k t i
    | .ok (p, q) =>
      let s := s.drain k
      if s.placeBad q 64 then s.stopThread k t (.poison (b.get64 s k t).toNat) else
      let src := Line.of (s.readPlace q 64)
      let asid := (s.ctxOf k).asid
      let die := dieOf (s.coreOf k)
      let n := s.bankNext asid die
      let ds := d.dests t.wb.toNat 2
      let s1 := s.updAsid asid fun x => { x with bankN := Tab.put x.bankN die n }
      if s.buffers (blkOf k) p then
        match s1.buffer (blkOf k) [.op p (a.get64 s k t).toNat (.bnk f src) n] with
        | none => s.trapAt k t (poolTrap (a.get64 s k t).toNat Need.store 64)
        | some s => s.finishV k t ds (some (pairWords (BitVec.ofNat 64 n))) 0 false none (lits2 a b) m
      else
        let h : HomeOp := { thread := k, prog := t.order, order := if ds.isEmpty then none else some t.order, place := p,
                            kind := .bnk f src, asid := asid, n := n, va := a.get64 s k t, pc := t.pc }
        ({ s1 with bankQ := s1.bankQ ++ [h] }).finishV k t ds (if ds.isEmpty then some [] else none) 0 false none (lits2 a b) m

/-! ## Cache and cell control (R259) -/

/-- A `cctl` on the line that holds its address: the checks of a load of one byte (Table 13-2), then, for a global address, what it does at
the thread's core, behind the thread's own earlier accesses (R245); outside the global window it has no effect. -/
def cctlLine (a : Src) (m : Bool) (go : State → Nat → State) (s : State) : Out :=
  s.issue (Req.any [fa a 2]) fun k t =>
    s.reach k t (a.get64 s k t) 1 1 Need.load true fun s p =>
      let s := match p with | .mem pa => go (s.drain k) (l1Key (s.coreOf k) pa) | _ => s
      s.finishV k t [] (some []) 0 false none (lits1 a) m

/-- A `cctl` on every line of the ASID, behind the thread's own earlier accesses (R245): of its address R259 asks the window check, which
address 0 passes, and no walk (log 85); outside the global window nothing is written back (Table 13-2). -/
def cctlAll (a : Src) (m : Bool) (go : State → Nat → Nat → State) (s : State) : Out :=
  s.issue (Req.any [fa a 2]) fun k t =>
    match s.window (s.agent k) (a.get64 s k t).toNat 1 with
    | none => s.trapAt k t (accTrap 0x07 (a.get64 s k t).toNat 0 0 1)
    | some w =>
      let s := match w with | .glob _ => go (s.drain k) (s.coreOf k) (s.ctxOf k).asid | .place _ => s
      s.finishV k t [] (some []) 0 false none (lits1 a) m

/-- R259 code 0x00: write the line's dirty bytes back. -/
def execCctlWb (a : Src) (m : Bool) (s : State) : Out := cctlLine a m State.l1Write s

/-- R259 code 0x01: write back, then invalidate the line. -/
def execCctlWbinv (a : Src) (m : Bool) (s : State) : Out := cctlLine a m State.l1Drop s

/-- R259 code 0x02: write back every line of the ASID. -/
def execCctlWball (a : Src) (m : Bool) (s : State) : Out := cctlAll a m State.l1Flush s

/-- R259 code 0x03: write back and invalidate every line of the ASID. -/
def execCctlWbinvall (a : Src) (m : Bool) (s : State) : Out := cctlAll a m State.l1Invalidate s

/-- A prefetch: the line comes into the L1 when its walk finds no fault, and nothing happens otherwise. -/
def cctlPrefetch (a : Src) (m l1 : Bool) (s : State) : Out :=
  s.issue (Req.any [fa a 2]) fun k t =>
    let s1 := match s.locate (s.agent k) (a.get64 s k t).toNat 1 1 Need.load true with
      | (s1, .ok (.mem pa)) =>
        if l1 then (s1.l1Read (s1.coreOf k) (s1.ctxOf k).asid pa 1).1 else s1
      | _ => s
    s1.finishV k t [] (some []) 0 false none (lits1 a) m

/-- R259 code 0x08: fetch the line into the L1. -/
def execCctlPf1 (a : Src) (m : Bool) (s : State) : Out := cctlPrefetch a m true s

/-- R259 code 0x09: fetch the line into its home L2, which changes nothing that a program can see but A of its entry. -/
def execCctlPf2 (a : Src) (m : Bool) (s : State) : Out := cctlPrefetch a m false s

/-- R259 code 0x10: reset the cell at its home. -/
def execCctlCreset (d : Dst) (a : Src) (m : Bool) (s : State) : Out :=
  s.issue (Req.release [fdr d 1, fa a 2]) fun k t =>
    let addr := a.get64 s k t
    let x := (d.get32 t).extractLsb' 0 8
    s.reach k t addr 16 16 Need.atomic false fun s p => s.homeIssue k t addr p (.creset x) [] (lits1 a) m

/-! ## ldb (R161) -/

/-- The value or the late fault of an `ldb` of a line at an address. -/
def ldbResult (l : Line) (addr : Pair) (i : Nat) : Except TrapInfo Word :=
  match checkBlock l false with
  | .error r =>
    .error { cause := 0x0e, addr := addr, detail := r.zeroExtend 32 ||| 0xf00, kind := 0, size := 6 }
  | .ok b =>
    let n := match b with | .zero => 128 | .nan f => f.count | .data f => f.count
    if n ≤ i then .error (trapOperand 2)
    else
      match b with
      | .zero => .ok 0
      | .nan _ => .ok 0x7fc00000
      | .data f => .ok (BitVec.ofNat 32 (Fmt.fp32.ofVal .rn (blockElem l (.data f) i)).bits)

/-- R161: `ldb`. -/
def execLdb (d : Dst) (a b : Src) (m : Bool) (s : State) : Out :=
  s.issue (Req.any [fd d 1, fa a 2, fb b 1]) fun k t =>
    let addr := a.get64 s k t
    let i := (b.get32 s k t).toNat
    s.loadAccess k t addr 64 fun s x =>
      match ldbResult (Line.of x) addr i with
      | .ok w => s.finishV k t (d.dests t.wb.toNat 1) (some [w]) 0 false none (lits2 a b) m
      | .error e => s.finishV k t (d.dests t.wb.toNat 1) (some []) 0 false (some e) (lits2 a b) m

end Sys2Proof.Machine
end

