-- ==== Sys2Proof/Machine/Control.lean ====
section
/-!
DEFINITION. Transfers of control, joins, barriers, traps by instruction, exits, yields, timelines and waits on them (R130 to
R136, R162, R181, R192 to R208).
-/
namespace Sys2Proof.Machine

/-! ## Direct transfers (R193) -/

/-- Branch offset in bytes (R47). -/
def off17 (i : BitVec 17) : Pair := i.signExtend 64 <<< 2
/-- Jump offset in bytes. -/
def off24 (i : BitVec 24) : Pair := i.signExtend 64 <<< 2

/-- R193: `bnz`. -/
def execBnz (c : Dst) (i : BitVec 17) (s : State) : Out :=
  s.issue (Req.any [fcr c 1]) fun k t =>
    if c.get32 t = 0 then s.retire k t 0 true else s.retireTo k t (t.pc + off17 i) true

/-- R193: `bz`. -/
def execBz (c : Dst) (i : BitVec 17) (s : State) : Out :=
  s.issue (Req.any [fcr c 1]) fun k t =>
    if c.get32 t = 0 then s.retireTo k t (t.pc + off17 i) true else s.retire k t 0 true

/-- R193: `jmp`. -/
def execJmp (i : BitVec 24) (s : State) : Out := s.issue (Req.any []) fun k t => s.retireTo k t (t.pc + off24 i) true

/-- R193: `call`: the return address is written before the transfer. -/
def execCall (c : Dst) (i : BitVec 17) (s : State) : Out :=
  s.issue (Req.any [fc c 2]) fun k t =>
    s.retireTo k (t.putRegs (c.dests t.wb.toNat 2) (pairWords (t.pc + 4))) (t.pc + off17 i) true

/-! ## Register transfers (R194) -/

/-- A fetched word at an address (R44): where it lies, or why it is not fetched; no context image is fetched from (R285). -/
def State.fetchPlace (s : State) (g : Agent) (va n : Nat) : State × Except Stop Nat :=
  if 2 ^ 57 < va + n then (s, .error (.trap (accTrap 0x07 va 0 3 4)))
  else if (s.imageAt g.asid va).isSome then (s, .error (.trap (accTrap 0x09 va (protDetail 0x03 3) 3 4)))
  else
    match s.translate g va Need.fetch with
    | (s, .ok pa) => (s, .ok pa)
    | (s, x) =>
      match placeOf va 4 Need.fetch x with
      | .error e => (s, .error e)
      | .ok _ => (s, .error (.trap (accTrap 0x09 va (protDetail 0x04 3) 3 4)))

/-- The word at an instruction address; a poisoned one is consumed (R383). -/
def State.fetchWord (s : State) (k : Nat) (va : Nat) : State × Except Stop Word :=
  match s.fetchPlace (s.agent k) va 4 with
  | (s, .error e) => (s, .error e)
  | (s, .ok pa) => if s.poisoned pa 4 then (s, .error (.poison va)) else (s, .ok (BitVec.ofNat 32 (s.memNat pa 4)))

/-- Whether a word is `land`, whatever its marker (R194). -/
def isLand (w : Word) : Bool := (w ||| 1) == 0x8ff3e7c1

/-- The landing check of `jind` and `calli`: the state after the fetch, and why there is no transfer. -/
def State.landing (s : State) (k : Nat) (target : Pair) : State × Option Stop :=
  let at_ (cause : BitVec 8) : Stop := .trap { accTrap cause 0 0 3 4 with addr := target }
  if 2 ^ 57 ≤ target.toNat then (s, some (at_ 0x07))
  else if target.toNat % 4 ≠ 0 then (s, some (at_ 0x06))
  else
    match s.fetchWord k target.toNat with
    | (s, .error e) => (s, some e)
    | (s, .ok w) => if isLand w then (s, none) else (s, some (at_ 0x05))

/-- R194: `jind`. -/
def execJind (a : Src) (s : State) : Out :=
  s.issue (Req.any [fa a 2]) fun k t =>
    let target := a.get64 s k t
    match s.landing k target with
    | (s, some x) => s.stopThread k t x
    | (s, none) => s.retireTo k t target true

/-- R194: `calli`: d receives the address behind the instruction and its literals. -/
def execCalli (d : Dst) (a : Src) (s : State) : Out :=
  s.issue (Req.any [fd d 2, fa a 2]) fun k t =>
    let target := a.get64 s k t
    match s.landing k target with
    | (s, some x) => s.stopThread k t x
    | (s, none) =>
      s.retireTo k (t.putRegs (d.dests t.wb.toNat 2) (pairWords (nextPc t.pc (lits1 a)))) target true

/-- R194: `ret`: only alignment is checked.  Its trap names the fetch of the word at the target, as that of `jind` does (R279; log 72). -/
def execRet (a : Src) (s : State) : Out :=
  s.issue (Req.any [fa a 2]) fun k t =>
    let target := a.get64 s k t
    if target.toNat % 4 ≠ 0 then s.trapAt k t { accTrap 0x06 0 0 3 4 with addr := target }
    else s.retireTo k t target true

/-- R195: `land` is a no-op when it is reached in sequence. -/
def execLand (m : Bool) (s : State) : Out := s.issue (Req.any []) fun k t => s.retire k t 0 m

/-! ## join (R196 to R198) -/

/-- R196: `join`: a wave-scope release, the arrival, and the test of R197. -/
def execJoin (a : Src) (id : BitVec 7) (s : State) : Out :=
  s.issue (Req.release [fa a 1]) fun k t =>
    let mask := a.get32 s k t
    ((s.release k .wave).waitAt k t (.join id mask) (lits1 a) true).joinAt (waveKey k) id

/-! ## bar and gbar (R162, R199) -/

/-- The barrier of a thread's block or gang at an index. -/
def State.barrier (s : State) (k : Nat) (gang : Bool) (i : Nat) : Barrier :=
  let b := s.block (blkOf k)
  Tab.getD (if gang then (s.ctx b.ctx).gbars else b.bars) i Barrier.new

/-- A thread arrives in the current phase. -/
def State.barArrive (s : State) (k : Nat) (gang : Bool) (i : Nat) : State :=
  let x := s.barrier k gang i
  let x : Barrier := { x with arrived := x.arrived ++ [k] }
  if gang then s.updCtx (s.block (blkOf k)).ctx fun c => { c with gbars := Tab.put c.gbars i x }
  else s.updBlock (blkOf k) fun b => { b with bars := Tab.put b.bars i x }

/-- Barriers of a thread's block or gang are looked at. -/
def State.barCheck (s : State) (k : Nat) (gang : Bool) : State :=
  if gang then s.gbarSettle (s.block (blkOf k)).ctx else s.barSettle (blkOf k)

/-- A wait on an arrival's phase: it completes at once when the phase has. -/
def State.barWait (s : State) (k : Nat) (t : Thread) (gang : Bool) (i phase : Nat) : State :=
  let key := if gang then i + 16 else i
  if phase < (s.barrier k gang i).phase then
    (if gang then s.acquire k .gang else s).retire k
      (t.barWaited key) 0 true
  else s.waitAt k t (if gang then .gbar i phase else .bar i phase) 0 true

/-- `wt`. -/
def State.barWt (s : State) (k : Nat) (t : Thread) (gang : Bool) (i : Nat) : State :=
  match Tab.find t.arrivals (if gang then i + 16 else i) with
  | none => s.retire k (t.barWaited (if gang then i + 16 else i)) 0 true
  | some p => s.barWait k t gang i p

/-- `arr`, and `sync` which then waits.  An arrival not waited for is waited for first, as `wt` does; the instruction
that timed out after its arrival acts as `wt` when it is executed again after the `eret` (R162). -/
def State.barArr (s : State) (k : Nat) (t : Thread) (gang : Bool) (i : Nat) (sync : Bool) : State :=
  let key := if gang then i + 16 else i
  let fresh (s : State) : State :=
    let s := s.release k (if gang then .gang else .block)
    let p := (s.barrier k gang i).phase
    let t := { t.barWaited key with arrivals := Tab.put t.arrivals key p }
    let s := s.barArrive k gang i
    (if sync then s.waitAt k t (if gang then .gbar i p else .bar i p) 0 true else s.retire k t 0 true).barCheck k gang
  if !t.inHandler && Tab.find t.again key == some t.pc.toNat then s.barWt k t gang i
  else match Tab.find t.arrivals key with
  | none => fresh s
  | some p =>
    if p < (s.barrier k gang i).phase then fresh (if gang then s.acquire k .gang else s)
    else s.waitAt k t (.barFirst gang i p sync) 0 true

/-- R199: `bar` sync. -/
def execBarSync (i : Fin 16) (s : State) : Out := s.issue (Req.release []) fun k t => s.barArr k t false i.val true
/-- R199: `bar` arr. -/
def execBarArr (i : Fin 16) (s : State) : Out := s.issue (Req.release []) fun k t => s.barArr k t false i.val false
/-- R199: `bar` wt. -/
def execBarWt (i : Fin 16) (s : State) : Out := s.issue (Req.any []) fun k t => s.barWt k t false i.val
/-- R162: `gbar` sync. -/
def execGbarSync (i : Fin 16) (s : State) : Out := s.issue (Req.release []) fun k t => s.barArr k t true i.val true
/-- R162: `gbar` arr. -/
def execGbarArr (i : Fin 16) (s : State) : Out := s.issue (Req.release []) fun k t => s.barArr k t true i.val false
/-- R162: `gbar` wt. -/
def execGbarWt (i : Fin 16) (s : State) : Out := s.issue (Req.any []) fun k t => s.barWt k t true i.val

/-! ## Ending, trapping and yielding (R204 to R207) -/

/-- Engine faults in tokens that nobody has touched become records (R134). -/
def State.tokenRecs (s : State) (k : Nat) (t : Thread) : State :=
  t.toks.foldl (fun s (_, x) =>
    match x with
    | .faulted i pc => s.pushRec (dieOf (s.coreOf k)) (s.threadRec k i pc false)
    | .pending => s) s

/-- Engine faults that a thread leaves untouched find no room in its die's fault record queue (R134, R239). -/
def State.recsWait (s : State) (k : Nat) (t : Thread) : Bool :=
  let n := (t.toks.filter fun (_, x) => x != .pending).length
  let die := dieOf (s.coreOf k)
  (Tab.find s.faultQ die).isSome && decide (s.recRoom die < n)

/-- A thread ends (R204): faults that it leaves in tokens become records, and what waited for it is looked at again. -/
def State.endThread (s : State) (k : Nat) (t : Thread) : State :=
  let s := s.tokenRecs k t
  let s := s.updWave (waveKey k) fun w => { w with reported := w.reported.filter (· != k) }
  let s := s.leaveGroup k
  let keep := t.toks.filter fun (_, x) => x == .pending
  (s.putThread k { t with status := .exited, stall := none, runV := [], toks := keep }).settleAll k

/-- R204: `exit`: the thread ends once the class V results of its run are written. -/
def execExit (s : State) : Out :=
  s.issue (Req.any []) fun k t =>
    if t.busy || s.recsWait k t then s.stallAt k t .results else s.endThread k t

/-- R205: `trap`: the trap PC is the word behind it. -/
def execTrap (code : BitVec 7) (s : State) : Out :=
  s.issue (Req.any []) fun k t =>
    let (ev, s) := s.trapEvent k
    s.takeTrap k { t with order := t.order + 1 } (plainTrap 0x11 (code.zeroExtend 32)) (t.pc + 4) t.pc ev

/-- A debug session is attached to a context's ASID (R283). -/
def State.debugged (s : State) (k : Nat) : Bool :=
  match Tab.find s.asids (s.ctxOf k).asid with
  | some a => a.debug
  | none => false

/-- Payload of a debugger's event (Table 23-10, type 6). -/
def debugPayload (core wave lane : Nat) (a : Word) (kind : Nat) : List Byte :=
  natBytes 2 core ++ natBytes 1 wave ++ natBytes 1 lane ++ bytesOf 4 a ++ natBytes 1 kind

/-- R206: `brk`: under a debug session the thread stops at it and the debugger is told; otherwise the breakpoint trap. -/
def execBrk (s : State) : Out :=
  s.issue (Req.any []) fun k t =>
    if s.debugged k then
      let s := s.postEvent 6 (s.ctxOf k).asid (debugPayload (s.coreOf k) (waveOf k) (laneOf k) 0 1)
      (s.leaveGroup k).putThread k { t with status := .stopped, stall := none, runV := [], run := 0 }
    else s.trapAt k t (plainTrap 0x12 0)

/-- R207: `yld`: the group's run ends, which sets its members' readiness, and the group yields. -/
def execYld (s : State) : Out :=
  s.issue (Req.any []) fun k t =>
    let s := match s.groupOf k with
      | some (g, x) => { s with groups := Tab.put s.groups g { x with runs := 16 } }
      | none => s
    s.retire k { t with yielded := true } 0 true

/-- Number under which a thread keeps the PC of the `phend` at which it has arrived, beside its barrier arrivals. -/
def phendKey : Nat := 32

/-- R181: `phend`: illegal in a kernel that is not PHASED; the thread arrives at this PC and waits.  The arrival stands across
a time-out (R182). -/
def execPhend (s : State) : Out :=
  s.issue { illegal := !(s.ctxOf s.cur).header.phased, role := 0, flds := [] } fun k t =>
    s.waitAt k { t with arrivals := Tab.put t.arrivals phendKey t.pc.toNat } .phend 0 true

/-! ## Timelines (R132, R133, R136, R208) -/

/-- Number of the last command issued on a timeline. -/
def State.issued (s : State) (k : Nat) (e : Engine) : Nat :=
  let b := s.block (blkOf k)
  let asid := (s.ctx b.ctx).asid
  let die := dieOf b.core
  match e with
  | .copy => b.copyN
  | .matrix => b.matN
  | .sillage => match Tab.find s.sillage (clusterOf b.core) with | some g => Tab.getD g.started asid 0 | none => 0
  | .ports => match Tab.find s.asids asid with | some a => Tab.getD a.portN die 0 | none => 0
  | .bank => match Tab.find s.asids asid with | some a => Tab.getD a.bankN die 0 | none => 0

/-- A wait for a timeline value. -/
def State.waitFor (s : State) (k : Nat) (t : Thread) (e : Engine) (n lits : Nat) : State :=
  if n ≤ s.timeline k e then (s.waitAcquire k n).retire k t lits true
  else s.waitAt k t (.timeline e n) lits true

/-- R208: `wait` f = 0: every command issued on the timeline. -/
def execWaitAll (e : Engine) (s : State) : Out :=
  s.issue (Req.any []) fun k t => s.waitFor k t e (s.issued k e) 0

/-- R208: `wait` f = 1: a value; beyond the commands issued by the block's contexts it traps. -/
def execWaitGe (a : Src) (e : Engine) (s : State) : Out :=
  s.issue (Req.any [fa a 2]) fun k t =>
    let n := (a.get64 s k t).toNat
    let part : Option (BitVec 32) := match e with | .copy => some 0x30e | .matrix => some 0x80e | _ => none
    match part with
    | some d => if s.issued k e < n then s.trapAt k t (plainTrap 0x13 d) else s.waitFor k t e n (lits1 a)
    | none => s.waitFor k t e n (lits1 a)

/-- R136: `tlrd`: the timeline's current value. -/
def execTlrd (d : Dst) (e : Engine) (m : Bool) (s : State) : Out :=
  s.issue (Req.any [fd d 2]) fun k t =>
    s.finishV k t (d.dests t.wb.toNat 2) (some (pairWords (BitVec.ofNat 64 (s.timeline k e)))) 0 false none 0 m

end Sys2Proof.Machine
end

