-- ==== Sys2Proof/Machine/Frames.lean ====
section
/-!
DEFINITION. Firmware's frames, page tables and the state engine: frames of HBM (R231), tables and leaves (R232 to R234),
pages made resident (R223), and shared state pages (R236, R314, R315).
-/
namespace Sys2Proof.Machine

/-! ## Frames -/

/-- Rounds up to a multiple of `n`. -/
def roundUp (x n : Nat) : Nat := (x + n - 1) / n * n

/-- Stacks on dies that are not fenced. -/
def State.liveStacks (s : State) : List Nat := (List.range 16).filter fun k => !s.fenced.contains (k / 4)

/-- End of the Accord region and of the tag area behind it, as a stack offset (R368). -/
def State.accordEnd (s : State) : Nat := s.accordBase + s.accordLen + s.accordLen / 8

/-- The first unit from `u` on where `n` aligned frames keep clear of the Accord region and its tag area (R231, R368). -/
def State.frameFrom (s : State) (u n : Nat) : Nat :=
  let u := roundUp u n
  if 0 < s.accordLen ∧ u * 65536 < s.accordEnd ∧ s.accordBase < (u + n) * 65536 then roundUp ((s.accordEnd + 65535) / 65536) n else u

/-- Takes `n` adjacent frames, aligned to their size and cleared, on a stack or on the lowest live stack with room. -/
def State.allocFrames (s : State) (stack : Option Nat) (n : Nat) : Option (State × Nat) :=
  let onStacks := match stack with | some k => s.liveStacks.filter (· == k) | none => s.liveStacks
  match (if n = 1 then s.freeFrames.find? (fun f => onStacks.contains (stackOf (f * 65536))) else none) with
  | some f => some (({ s with freeFrames := s.freeFrames.filter (· != f) }).clearMem (f * 65536) 65536, f * 65536)
  | none =>
    match onStacks.find? (fun k => decide ((s.frameFrom (Tab.getD s.frames k 0) n + n) * 65536 ≤ stackBytes)) with
    | none => none
    | some k =>
      let u := s.frameFrom (Tab.getD s.frames k 0) n
      let pa := k * 2 ^ 36 + u * 65536
      some (({ s with frames := Tab.put s.frames k (u + n) }).clearMem pa (n * 65536), pa)

/-- Returns `n` frames, once every store to them has been performed (R238). -/
def State.freeFrom (s : State) (pa n : Nat) : State :=
  let s := s.dropEverywhere pa (n * 65536)
  { s with freeFrames := (List.range n).foldl (fun l i => insertNat (pa / 65536 + i) l) s.freeFrames }

/-! ## Page tables -/

/-- The table of level `t` that holds the entry of an address, tables that are missing built (R232, R233). -/
def State.walkMake (s : State) (va t : Nat) (level table : Nat) : Option (State × Nat) :=
  match level with
  | 0 => if t = 0 then some (s, table) else none
  | l + 1 =>
    if l + 1 = t then some (s, table)
    else
      let at_ := table + 8 * walkIndex va (l + 1)
      let e := BitVec.ofNat 64 (s.memNat at_ 8)
      if !bit e 0 then
        match s.allocFrames none 1 with
        | none => none
        | some (s, pa) => (s.writeMem at_ (natBytes 8 (pa + 1))).walkMake va t l pa
      else if bit e 2 then none
      else s.walkMake va t l ((e.extractLsb' 8 33).toNat * 256)

/-- Root table of an ASID. -/
def State.rootOf (s : State) (asid : Nat) : Nat := match Tab.find s.asids asid with | some a => a.root | none => 0

/-- What a walk finds for an address. -/
def State.leafOf (s : State) (asid va : Nat) : Walk := s.walkFrom va 3 (s.rootOf asid)

/-- The die that holds a poisoned entry which firmware's walk for an address meets: it is to be fenced (R383). -/
def State.walkBad (s : State) (asid va : Nat) : Option Nat :=
  match s.leafOf asid va with
  | .poison at_ => some (stackOf at_ / 4)
  | _ => none

/-- Level of a page size. -/
def levelOf (bits : Nat) : Nat := if bits = 16 then 0 else if bits = 21 then 1 else 2

/-- Writes a leaf entry for a page of `2 ^ bits` bytes. -/
def State.setLeaf (s : State) (asid va bits : Nat) (e : BitVec 64) : Option State :=
  match s.walkMake va (levelOf bits) 3 (s.rootOf asid) with
  | none => none
  | some (s, table) => some (s.writeMem (table + 8 * walkIndex va (levelOf bits)) (bytesOf 8 e))

/-- A leaf entry (Table 12-4) without A and D: rights are read, write and execute from bit 0. -/
def mkLeaf (frame : Nat) (rights : BitVec 3) (res acc : Bool) (aset : Nat) : BitVec 64 :=
  BitVec.ofNat 64 (frame / 65536 * 2 ^ 16 + aset * 2 ^ 41) ||| 5 ||| (rights.zeroExtend 64 <<< 3) |||
    (if res then 2 else 0) ||| (if acc then 0x40 else 0)

/-- Frames of a page of `2 ^ bits` bytes. -/
def pageFrames (bits : Nat) : Nat := 2 ^ (bits - 16)

/-- Charges an ASID for memory. -/
def State.charge (s : State) (asid n : Nat) : State := s.updAsid asid fun a => { a with used := a.used + n }

/-- Firmware makes the page of an address resident (R223), none where it cannot: its contents come from the backing store,
or are zero. -/
def State.makeResident (s : State) (asid va : Nat) : Option State :=
  match s.leafOf asid va with
  | .leaf at_ e bits =>
    if bit e 1 then some s
    else
      let stack := (e.extractLsb' 8 5).toNat
      match s.allocFrames (if stack = 0 then none else some (stack - 1)) (pageFrames bits) with
      | none => none
      | some (s, pa) =>
        let page := va / 2 ^ bits * 2 ^ bits
        let e2 := (e &&& 0xff) ||| 2 ||| BitVec.ofNat 64 pa
        let s := s.writeMem at_ (bytesOf 8 e2)
        match s.backing.find? (fun x => x.1 == asid && x.2.1 == page) with
        | none => some s
        | some (_, _, b) =>
          some { (b.foldl (fun s (o, x) => s.writeMem (pa + o) [x]) s) with
            backing := s.backing.filter fun x => !(x.1 == asid && x.2.1 == page) }
  | _ => none

/-! ## Firmware's own reads and writes of a program's memory -/

/-- The physical address of a resident page's byte for firmware, which looks at no right. -/
def State.fwPlace (s : State) (asid va : Nat) : Option Nat :=
  match s.leafOf asid va with
  | .leaf _ e bits => if bit e 1 && !bit e 6 && !s.lost (leafFrame e) then some (leafFrame e + va % 2 ^ bits) else none
  | _ => none

/-! ## State pages (R314, R315) -/

/-- The population, slot and page whose state range holds an address. -/
def State.stateOwner (s : State) (asid va : Nat) : Option (Nat × Nat × Nat) :=
  match s.pops.find? (fun (_, p) => p.asid == asid && p.state != .free && decide (p.base.toNat ≤ va) &&
      decide (va < p.base.toNat + 65536 * p.k * p.n)) with
  | none => none
  | some (h, p) =>
    let j := (va - p.base.toNat) / 65536
    some (h, j / p.k, j % p.k)

/-- VA of a page of a slot. -/
def Population.pageVa (p : Population) (slot page : Nat) : Nat := p.base.toNat + 65536 * (p.k * slot + page)

/-- Particles whose roots name a frame: (population, slot, page). -/
def State.sharers (s : State) (frame : Nat) : List (Nat × Nat × Nat) :=
  s.pops.flatMap fun (h, p) => p.parts.flatMap fun (i, x) =>
    (x.root.zipIdx).filterMap fun (e, j) => if bit e 1 && leafFrame e == frame then some (h, i, j) else none

/-- Sets one leaf of a particle's root. -/
def State.setRoot (s : State) (h slot page : Nat) (e : BitVec 64) : State :=
  { s with pops := Tab.upd s.pops h fun p => { p with parts := Tab.upd p.parts slot fun x => { x with root := x.root.set page e } } }

/-- The entry without A and D, as a particle's root keeps it. -/
def rootEntry (e : BitVec 64) : BitVec 64 := e &&& ~~~0x300

/-- Clears SHR of the leaf of a particle's page, in the page table and the root. -/
def State.unshare (s : State) (h slot page : Nat) : State :=
  match Tab.find s.pops h with
  | none => s
  | some p =>
    let va := p.pageVa slot page
    match s.leafOf p.asid va with
    | .leaf at_ e _ =>
      let e2 := e &&& ~~~0x80
      ((s.writeMem at_ (bytesOf 8 e2)).setRoot h slot page (rootEntry e2)).tlbDrop p.asid va 65536
    | _ => s

/-- A frame from an ASID's state pool. -/
def State.stateFrame (s : State) (asid : Nat) : Option (State × Nat) :=
  match Tab.find s.asids asid with
  | none => none
  | some a =>
    if a.statePool < a.stateUsed + 65536 then none
    else
      match s.allocFrames none 1 with
      | none => none
      | some (s, pa) => some (s.updAsid asid fun a => { a with stateUsed := a.stateUsed + 65536 }, pa)

/-- Returns a state frame to its pool. -/
def State.dropStateFrame (s : State) (asid pa : Nat) : State :=
  (s.freeFrom pa 1).updAsid asid fun a => { a with stateUsed := a.stateUsed - 65536 }

/-- The state engine's handling of a write to the shared page of an address (R236, R315): none while the pool has no frame. -/
def State.copyShared (s : State) (asid va : Nat) : Option State :=
  match s.leafOf asid va with
  | .leaf at_ e bits =>
    if !bit e 7 then some s
    else
      let page := va / 2 ^ bits * 2 ^ bits
      let old := leafFrame e
      let clear : State := (s.writeMem at_ (bytesOf 8 (e &&& ~~~0x80))).tlbDrop asid page (2 ^ bits)
      match s.stateOwner asid va with
      | none => some clear
      | some (h, slot, j) =>
        if (s.sharers old).length < 2 then some (s.unshare h slot j)
        else
          match s.stateFrame asid with
          | none => none
          | some (s, pa) =>
            let s := (s.drainAsid asid).dropEverywhere old 65536
            let s := (s.writeMem pa (s.readMem old 65536)).carryPoison old pa 65536
            let e2 := (e &&& 0x37f) ||| BitVec.ofNat 64 pa
            let s := ((s.writeMem at_ (bytesOf 8 e2)).setRoot h slot j (rootEntry e2)).tlbDrop asid page (2 ^ bits)
            let s := s.moveBuffers asid page old pa (2 ^ bits)
            match s.sharers old with
            | [(h, i, j)] => some (s.unshare h i j)
            | _ => some s
  | .poison at_ => some (s.fence (stackOf at_ / 4))
  | _ => some s

end Sys2Proof.Machine
end

