-- ==== Sys2Proof/Machine/Engines.lean ====
section
/-!
DEFINITION. The matrix engine, the copy engine and stage rings (R8 to R11, R130 to R160): the instructions that command
them and what the engines do.
-/
namespace Sys2Proof

/-- Complex modes. -/
def MmaF.complex : MmaF → Bool
  | .cacc => true
  | .cset => true
  | _ => false

/-- Modes with a C term. -/
def MmaF.accumulates : MmaF → Bool
  | .set => false
  | .cset => false
  | _ => true

/-- The mode of a code, none where it is reserved. -/
def MmaF.ofCode : Nat → Option MmaF
  | 0 => some .acc
  | 1 => some .set
  | 2 => some .cacc
  | 3 => some .cset
  | 4 => some .ck
  | _ => none

end Sys2Proof

namespace Sys2Proof.Machine

/-! ## Tokens (R131, R134) -/

/-- A fault that an engine finds: cause, address, reason and part (R135). -/
def engTrap (cause : BitVec 8) (addr reason part : Nat) : TrapInfo :=
  { cause := cause, addr := BitVec.ofNat 64 addr, detail := BitVec.ofNat 32 (reason + 256 * part), kind := 4, size := 6 }

/-- The trap of an engine instruction at issue: it reports no access (R135, R279). -/
def issueTrap (addr reason part : Nat) : TrapInfo := { engTrap 0x13 addr reason part with kind := 0, size := 0 }

/-- An engine completes a thread's token with a value: without a fault the flags go to status (R41), with one the value has
bit 63 set and the fault waits in the token; a thread that has exited leaves it as a record (R134). -/
def State.writeToken (s : State) (k tok n : Nat) (pc : Pair) (fault : Option TrapInfo) (flags : Word) : State :=
  match Tab.find s.threads k with
  | none => s
  | some t =>
    let v : Pair := BitVec.ofNat 64 n ||| (if fault.isSome then 0x8000_0000_0000_0000 else 0)
    let live := t.status != .exited
    let s := if fault.isNone then s.raise k flags else s
    let s := match fault, live with
      | some i, false => s.pushRec (dieOf (s.coreOf k)) (s.threadRec k i pc false)
      | _, _ => s
    let toks := match fault, live with
      | some i, true => Tab.put t.toks tok (.faulted i pc)
      | _, _ => Tab.del t.toks tok
    s.putThread k { t.putRegs [.v tok, .v (tok + 1)] (pairWords v) with toks := toks }

/-- The token register that a d field names, none for z. -/
def tokReg (d : Dst) (wb : Nat) : Option Nat :=
  match d with
  | .v n => some (wb + n.val)
  | _ => none

/-- Marks a token pending (R131). -/
def pendTok (t : Thread) (tok : Option Nat) : Thread :=
  match tok with
  | some n => { t with toks := Tab.put t.toks n .pending }
  | none => t

/-- Adds one to a set of completed numbers. -/
def addDone (l : List Nat) (n : Nat) : List Nat := if n = 0 then l else l ++ [n]

/-! ## Tile descriptors (R138, R140) -/

/-- A tile descriptor (Table 6-3). -/
structure Desc where
  reserved : Nat
  verify : Bool
  remote : Bool
  kind : Nat
  stride : Nat
  kext : Nat
  rows : Nat
  addr : Nat
  deriving DecidableEq, Repr

/-- The fields of a descriptor. -/
def Desc.of (x : BitVec 128) : Desc :=
  { reserved := (x.extractLsb' 126 2).toNat, verify := x.getLsbD 125, remote := x.getLsbD 124,
    kind := (x.extractLsb' 120 4).toNat, stride := (x.extractLsb' 96 24).toNat, kext := (x.extractLsb' 80 16).toNat,
    rows := (x.extractLsb' 64 16).toNat, addr := (x.extractLsb' 0 64).toNat }

/-- A command record's C descriptor: its address has bits [5:0] cleared (R8). -/
def Desc.ofRecord (x : BitVec 128) : Desc :=
  let d := Desc.of x
  { d with addr := d.addr / 64 * 64 }

/-- Bytes of a tile's region. -/
def Desc.region (d : Desc) : Nat := d.rows * d.stride * 64

/-- The block and offset that a scratchpad address selects: own window, or gang window when `remote`. -/
def State.spadOf (s : State) (blk : Nat) (addr : Nat) (remote : Bool) : Option (Nat × Nat) :=
  if !remote then some (blk, addr % 2 ^ 56)
  else ((s.ctx (s.block blk).ctx).blocks[addr % 2 ^ 56 / 2 ^ 20]?).map fun b => (b, addr % 2 ^ 20)

/-- `n` bytes at a scratchpad address lie within the allocation and the gang. -/
def State.spadFits (s : State) (blk addr n : Nat) (remote : Bool) : Bool :=
  match s.spadOf blk addr remote with
  | some (_, o) => decide (o + n ≤ (s.ctx (s.block blk).ctx).header.scratch)
  | none => false

/-- The first of several checks that fails: reason and part. -/
def firstFail (l : List (Bool × Nat × Nat)) : Option (Nat × Nat) := (l.find? fun x => x.1).map fun x => x.2

/-- Two scratchpad regions of one block overlap. -/
def State.overlaps (s : State) (blk : Nat) (c d : Desc) : Bool :=
  match s.spadOf blk c.addr false, s.spadOf blk d.addr d.remote with
  | some (b, o), some (b2, o2) => b == b2 && decide (o2 < o + c.region ∧ o < o2 + d.region)
  | _, _ => false

/-- The smallest row of an operand in bytes (check 7 of R140). -/
def Desc.rowBytes (d : Desc) : Nat := if d.kind = 1 then 2 * d.kext else d.kext / 2

/-- R140 for C, A and B (a C descriptor with REMOTE set meets check 1, log 71): the reason and part (0 C, 1 A, 2 B) of the first failure; `low`
is bits [5:3] of a command record's byte 0, and no mode stands for a reserved one. -/
def State.checkTiles (s : State) (blk : Nat) (mode : Option MmaF) (low : Nat) (c a b : Desc) : Option (Nat × Nat) :=
  let cplx := match mode with | some m => m.complex | none => false
  let cols := if cplx then 32 else 64
  let kOk (d : Desc) : Bool := decide (128 ≤ d.kext ∧ d.kext ≤ 4096 ∧ d.kext % 128 = 0)
  let inSpad (d : Desc) : Bool := d.addr / 2 ^ 56 == (if d.remote then 0xF1 else 0xF0)
  firstFail
    [(c.reserved != 0 || c.verify || c.remote || decide (3 ≤ c.kind) || low != 0, 0x01, 0),
     (a.reserved != 0 || decide (3 ≤ a.kind), 0x01, 1),
     (b.reserved != 0 || decide (3 ≤ b.kind), 0x01, 2),
     (mode.isNone, 0x0A, 0),
     (c.kind != 2, 0x02, 0),
     (a.kind == 2, 0x02, 1),
     (b.kind == 2, 0x02, 2),
     (!decide (1 ≤ c.rows ∧ c.rows ≤ 64 ∧ 1 ≤ c.kext ∧ c.kext ≤ cols), 0x03, 0),
     (!(decide (1 ≤ a.rows ∧ a.rows ≤ 64) && kOk a), 0x03, 1),
     (!(decide (1 ≤ b.rows ∧ b.rows ≤ cols) && kOk b), 0x03, 2),
     (a.kext != b.kext, 0x04, 2),
     (c.rows != a.rows, 0x04, 0),
     (c.kext != b.rows, 0x04, 0),
     (c.addr % 64 != 0, 0x05, 0),
     (a.addr % 64 != 0, 0x05, 1),
     (b.addr % 64 != 0, 0x05, 2),
     (!inSpad c, 0x06, 0),
     (!inSpad a, 0x06, 1),
     (!inSpad b, 0x06, 2),
     (!s.spadFits blk c.addr c.region false, 0x07, 0),
     (!s.spadFits blk a.addr a.region a.remote, 0x07, 1),
     (!s.spadFits blk b.addr b.region b.remote, 0x07, 2),
     (decide (c.stride * 64 < (if cplx then 8 else 4) * c.kext), 0x08, 0),
     (decide (a.stride * 64 < a.rowBytes), 0x08, 1),
     (decide (b.stride * 64 < b.rowBytes), 0x08, 2),
     (s.overlaps blk c a || s.overlaps blk c b, 0x09, 0)]

/-- Checks 1 to 7 of R140 for the C tile of an `mfill` (R148). -/
def State.checkFill (s : State) (blk : Nat) (c : Desc) : Option (Nat × Nat) :=
  firstFail
    [(c.reserved != 0 || c.verify || c.remote || decide (3 ≤ c.kind), 0x01, 0),
     (c.kind != 2, 0x02, 0),
     (!decide (1 ≤ c.rows ∧ c.rows ≤ 64 ∧ 1 ≤ c.kext ∧ c.kext ≤ 64), 0x03, 0),
     (c.addr % 64 != 0, 0x05, 0),
     (c.addr / 2 ^ 56 != 0xF0, 0x06, 0),
     (!s.spadFits blk c.addr c.region false, 0x07, 0),
     (decide (c.stride * 64 < 4 * c.kext), 0x08, 0)]

/-! ## mma, mfill and mck -/

/-- The 128-bit value of four words. -/
def quadVal (l : List Word) : BitVec 128 := valOf 128 (bytesOfWords l)

/-- A matrix command enters its context (R11, R131). -/
def State.issueMatrix (s : State) (k : Nat) (t : Thread) (d : Dst) (mode : MmaF ⊕ Word) (c a b : BitVec 128) (lits : Nat)
    (m : Bool) : State :=
  let n := (s.block (blkOf k)).matN + 1
  let tok := tokReg d t.wb.toNat
  let cmd : MatCmd := { n := n, follow := 0, owner := k, tok := tok.getD 0, pc := t.pc, mode := mode, cd := c, ad := a, bd := b,
                        chunks := 0, offA := [], offB := [], part := none, flags := 0 }
  (s.updBlock (blkOf k) fun x => { x with matN := n, matQ := x.matQ ++ [cmd] }).retire k (pendTok t tok) lits m

/-- R141, R142: `mma`. -/
def execMma (d : Dst) (a b : Src) (f : MmaF) (m : Bool) (s : State) : Out :=
  s.issue { illegal := false, role := 2, flds := [ftok d 4, fa a 4, fb b 4], rel := true } fun k t =>
    let c := quadVal (d.gets t 4)
    let x := quadVal (a.get128 t)
    let y := quadVal (b.get128 t)
    match s.checkTiles (blkOf k) (some f) 0 (Desc.of c) (Desc.of x) (Desc.of y) with
    | some (r, p) => s.trapAt k t (issueTrap 0 r p)
    | none => (s.drain k).issueMatrix k t d (.inl f) c x y (lits2 a b) m

/-- `mfill` with a value for each word (R148).  The manual names code 124 in d for `mma` alone; here it is the illegal operand of `mfill`
too (log 71). -/
def fillWith (d : Dst) (flds : List Fld) (value : State → Nat → Thread → Word) (lits : Nat) (m : Bool) (s : State) : Out :=
  s.issue { illegal := false, role := 2, flds := ftok d 4 :: flds, rel := true } fun k t =>
    let c := quadVal (d.gets t 4)
    match s.checkFill (blkOf k) (Desc.of c) with
    | some (r, p) => s.trapAt k t (issueTrap 0 r p)
    | none => (s.drain k).issueMatrix k t d (.inr (value s k t)) c 0 0 lits m

/-- R148: `mfill` f = 0. -/
def execMfillZero (d : Dst) (m : Bool) (s : State) : Out := fillWith d [] (fun _ _ _ => 0) 0 m s

/-- R148: `mfill` f = 1. -/
def execMfillSet (d : Dst) (a : Src) (m : Bool) (s : State) : Out :=
  fillWith d [fa a 1] (fun s k t => a.get32 s k t) (lits1 a) m s

/-- R147: `mck`: it stalls in place until the context's timeline is at its number. -/
def execMck (d : Dst) (a : Src) (clr : Bool) (m : Bool) (s : State) : Out :=
  s.issue { illegal := false, role := 2, flds := [fd d 2, fa a 2] } fun k t =>
    let n := (a.get64 s k t).toNat
    let b := s.block (blkOf k)
    if b.matN < n then s.trapAt k t (issueTrap 0 0x0E 8)
    else if b.matDone < n then s.stallAt k t .mck (regsOf [fd d 2, fa a 2] t)
    else
      let s := if clr then s.updBlock (blkOf k) fun x => { x with checksum := 0 } else s
      s.finishV k t (d.dests t.wb.toNat 2) (some (pairWords b.checksum)) 0 false none (lits1 a) m

/-! ## The matrix engine (R139, R142, R146) -/

/-- The scratchpad bytes of an operand's row. -/
def State.rowAt (s : State) (blk : Nat) (d : Desc) (i n : Nat) : List Byte :=
  match s.spadOf blk d.addr d.remote with
  | some (b, o) => s.readPlace (.spad b (o + 64 * d.stride * i)) n
  | none => []

/-- A block-integrity failure of an operand: K position, reason and address. -/
structure RowFault where
  pos : Nat
  reason : Nat
  addr : Nat
  deriving DecidableEq, Repr

/-- The elements of a blocked row from the block at an offset on, up to K position `stop` (R139): the elements, the offset behind them, and
where the row fails.  The manual gives no order between R23 and the placement of R139: a block that fails R23 and lies at a wrong position
reports its R23 reason (log 86). -/
def walkRow (bytes : List Byte) (stop : Nat) (verify : Bool) (addr : Nat) : Nat → Nat → Nat → List FVal × Nat × Option RowFault
  | 0, off, _ => ([], off, none)
  | fuel + 1, off, pos =>
    if stop ≤ pos then ([], off, none)
    else if bytes.length < off + 64 then ([], off, some ⟨pos, 0x05, addr + off⟩)
    else
      let l := Line.of ((bytes.drop off).take 64)
      match checkBlock l verify with
      | .error r => ([], off, some ⟨pos, r.toNat, addr + off⟩)
      | .ok k =>
        if pos % k.span ≠ 0 then ([], off, some ⟨pos, 0x04, addr + off⟩)
        else
          let (r, f) := walkRow bytes stop verify addr fuel (off + 64) (pos + k.span)
          ((List.range k.span).map (blockElem l k) ++ r, f)

/-- Chunk `n` of row `i` of A, or of column `i` of B, which begins at an offset in the row: its elements, the offset of the next chunk, and
where it fails. -/
def State.operandChunk (s : State) (blk : Nat) (d : Desc) (n i off : Nat) : List FVal × Nat × Option RowFault :=
  if d.kind = 1 then
    let b := (s.rowAt blk d i (2 * d.kext)).drop (256 * n)
    ((chunksOf 2 128 (b.take 256)).map fun x => bf16 (valOf 16 x), 0, none)
  else walkRow (s.rowAt blk d i (64 * d.stride)) (128 * (n + 1)) d.verify (d.addr + 64 * d.stride * i) 4 off (128 * n)

/-- One chunk of every element: the new C values with what the adder gave; a complex element has two. -/
def chunkStep (cplx : Bool) (as bs : List (List FVal)) (c : Option (List Word)) : List ChunkOut :=
  let one (i : Nat) (ps : List (FVal × FVal)) : ChunkOut := chunk (c.map fun l => l.getD i 0) ps
  ((as.flatMap fun a => bs.map fun b => (a, b)).zipIdx).flatMap fun ((a, b), i) =>
    if cplx then
      let (re, im) := complexPairs a b
      [one (2 * i) re, one (2 * i + 1) im]
    else [one i (realPairs a b)]

/-- The comparison of a chunk (R146, R387): skipped, or whether it passes. -/
def checkChunk (as bs : List (List FVal)) (c : List Word) (outs : List ChunkOut) : Option Bool :=
  let odd := as.any (fun l => l.any fun v => !v.isFin) || bs.any (fun l => l.any fun v => !v.isFin) ||
    c.any (fun w => !(fp32 w).isFin) || outs.any fun o => o.special
  if odd then none
  else
    let n := bs.length
    some ((bs.zipIdx).all fun (b, j) =>
      checksumPass as b ((List.range as.length).map fun i => (c.getD (i * n + j) 0, outs.getD (i * n + j) ⟨0, 0, none, false⟩)))

/-- Records a skipped chunk (R147). -/
def ckSkip (x : BitVec 64) : BitVec 64 :=
  if x.extractLsb' 16 16 = 0xffff then x else x + 0x1_0000

/-- Records a chunk that mismatched twice.  A follow-on takes no matrix number: FIRST receives 0 for it, as before any (log 71). -/
def ckMism (x : BitVec 64) (n : Nat) : BitVec 64 :=
  let x := if x.extractLsb' 0 16 = 0xffff then x else x + 1
  if x.extractLsb' 32 32 = 0 then x ||| (BitVec.ofNat 64 (n % 2 ^ 32) <<< 32) else x

/-- The results of a chunk with wrong bits. -/
def spoil (outs : List ChunkOut) (xs : List Word) : List ChunkOut :=
  (outs.zipIdx).map fun (o, i) => { o with bits := o.bits ^^^ xs.getD i 0 }

/-- What a checked chunk comes to (R146): its values, its flag, the checksum state, and whether an error was transient.  `again` are its
values when it is computed once more. -/
def checkedChunk (n : Nat) (as bs : List (List FVal)) (c : List Word) (outs again : List ChunkOut) (ck : BitVec 64) :
    List ChunkOut × Word × BitVec 64 × Bool :=
  match checkChunk as bs c outs with
  | none => (outs, flagCKSKIP, ckSkip ck, false)
  | some true => (outs, 0, ck, false)
  | some false =>
    match checkChunk as bs c again with
    | some true => (again, 0, ck, true)
    | _ => (again, 0, ckMism ck n, false)

/-- The words of the C tile, row by row. -/
def State.readTile (s : State) (blk : Nat) (d : Desc) (perRow : Nat) : List Word :=
  (List.range d.rows).flatMap fun i => wordsOf (s.rowAt blk d i (4 * perRow))

/-- Writes the C tile, row by row. -/
def State.writeTile (s : State) (blk : Nat) (d : Desc) (perRow : Nat) (l : List Word) : State :=
  (List.range d.rows).foldl (fun s i =>
    s.writePlace (.spad blk (d.addr % 2 ^ 56 + 64 * d.stride * i)) (bytesOfWords ((l.drop (perRow * i)).take perRow))) s

/-- The C descriptor of a command. -/
def MatCmd.c (cmd : MatCmd) : Desc := if cmd.follow = 0 then Desc.of cmd.cd else Desc.ofRecord cmd.cd

/-- The C values that a command's next chunk starts from, none where it has no C term: those of its last chunk, or for the first chunk what
its mode reads (R142).  In an overwriting mode the carried values are C terms from the second chunk on, but a -0 among them gives +0 where no
term exists: -0 stays in an accumulating mode alone (R30). -/
def State.chunkStart (s : State) (blk : Nat) (cmd : MatCmd) (f : MmaF) (perRow : Nat) : Option (List Word) :=
  match cmd.part with
  | some l => some (if f.accumulates then l else l.map fun w => if w = 0x80000000 then 0 else w)
  | none => if f.accumulates then some (s.readTile blk cmd.c perRow) else none

/-- The next chunk of an `mma` command (R142, R146): the state and what the command has come to, or its fault, A's before B's. -/
def State.runChunk (s : State) (blk : Nat) (cmd : MatCmd) (f : MmaF) : State × Except TrapInfo MatCmd :=
  let base := if cmd.follow = 0 then 0 else 4
  let a := Desc.of cmd.ad
  let b := Desc.of cmd.bd
  let as := (List.range a.rows).map fun i => s.operandChunk blk a cmd.chunks i (cmd.offA.getD i 0)
  let bs := (List.range b.rows).map fun i => s.operandChunk blk b cmd.chunks i (cmd.offB.getD i 0)
  let faults := as.filterMap (fun r => r.2.2.map fun x => (1, x)) ++ bs.filterMap fun r => r.2.2.map fun x => (2, x)
  match faults with
  | (p, x) :: _ => (s, .error (engTrap 0x0E x.addr x.reason (base + p)))
  | [] =>
    let perRow := if f.complex then 2 * cmd.c.kext else cmd.c.kext
    let c0 := s.chunkStart blk cmd f perRow
    let core := (s.block blk).core
    let (av, bv) := (as.map Prod.fst, bs.map Prod.fst)
    let true_ := chunkStep f.complex av bv c0
    let err := (Tab.find s.chunkErrs core).getD { first := [], again := [] }
    let (outs, flag, ck, transient) :=
      if f = .ck then checkedChunk cmd.n av bv (c0.getD []) (spoil true_ err.first) (spoil true_ err.again) (s.block blk).checksum
      else (spoil true_ err.first, 0, (s.block blk).checksum, false)
    let s := { s with chunkErrs := Tab.del s.chunkErrs core }
    let s := if transient then s.logError 4 core else s
    (s.updBlock blk fun x => { x with checksum := ck },
      .ok { cmd with chunks := cmd.chunks + 1, offA := as.map fun r => r.2.1, offB := bs.map fun r => r.2.1,
                     part := some (outs.map fun o => o.bits), flags := outs.foldl (fun g o => g ||| o.flags) (cmd.flags ||| flag) })

/-- Every chunk of a command is completed: its C tile is written, once (R144). -/
def State.writeC (s : State) (blk : Nat) (cmd : MatCmd) (f : MmaF) : State :=
  s.writeTile blk cmd.c (if f.complex then 2 * cmd.c.kext else cmd.c.kext) (cmd.part.getD [])

/-- The effect of an `mfill` command (R148). -/
def State.runFill (s : State) (blk : Nat) (cmd : MatCmd) (w : Word) : State :=
  let c := Desc.of cmd.cd
  s.writeTile blk c c.kext (List.replicate (c.rows * c.kext) w)

/-! ## Conversions (Table 6-7) -/

/-- What a conversion does. -/
inductive Conv where
  | bytes
  | pack (f : BlkFmt) (size : Nat)
  | narrow
  | widen
  deriving DecidableEq, Repr

/-- The conversion of a code (Table 6-7), none where it is reserved. -/
def Conv.ofCode (c : Nat) : Option Conv :=
  match c with
  | 0x00 => some .bytes
  | 0x01 => some (.pack .s3 4)
  | 0x02 => some (.pack .s6 4)
  | 0x03 => some (.pack .s12 4)
  | 0x11 => some (.pack .s3 2)
  | 0x12 => some (.pack .s6 2)
  | 0x13 => some (.pack .s12 2)
  | 0x20 => some .narrow
  | 0x21 => some .widen
  | _ => none

/-- Alignments of source, row bytes and of destination, destination stride (Table 6-7). -/
def Conv.aligns : Conv → Nat × Nat
  | .bytes => (1, 1)
  | .pack _ n => (n, 64)
  | .narrow => (4, 2)
  | .widen => (2, 4)

/-- It packs. -/
def Conv.packs : Conv → Bool
  | .pack _ _ => true
  | _ => false

/-- Length of a destination row (R150). -/
def Conv.rowLen (c : Conv) (n : Nat) : Nat :=
  match c with
  | .bytes => n
  | .pack f size => 64 * ((n + size * f.count - 1) / (size * f.count))
  | .narrow => n / 2
  | .widen => 2 * n

/-! ## The end of a copy command (R10, R131, R154) -/

/-- A copy command completes: its token is written and it counts on its timeline. -/
def State.endCopy (s : State) (blk : Nat) (cmd : CopyCmd) (fault : Option TrapInfo) : State :=
  let s := s.updBlock blk fun x => { x with copyQ := x.copyQ.filter (fun y => y.n != cmd.n), copyDone := addDone x.copyDone cmd.n }
  (s.writeToken cmd.owner cmd.tok cmd.n cmd.pc fault cmd.flags).timelineSettle

/-- Length of a record's destination rows. -/
def CopyRec.rowLen (r : CopyRec) : Nat := ((Conv.ofCode r.conv.toNat).getD .bytes).rowLen r.rowBytes

/-- Destination bytes of a copy for each target. -/
def CopyRec.total (r : CopyRec) : Nat := r.rows * r.rowLen

/-- Pieces of a copy for each target (R158). -/
def CopyRec.pieces (r : CopyRec) : Nat := (r.total + 4095) / 4096

/-- Gang indices that a `cpym` mask names. -/
def maskIndices (m : Pair) : List Nat := (List.range 64).filter fun i => m.getLsbD i

/-- Target gang indices of a copy: those of its mask, or the issuing block alone. -/
def State.targets (s : State) (blk : Nat) (cmd : CopyCmd) : List Nat :=
  match cmd.mask with
  | some m => maskIndices m
  | none => [(s.block blk).gidx]

/-- Every piece of a copy has been delivered to every target, and credited where RING is set (R158). -/
def State.copyWhole (s : State) (blk : Nat) (cmd : CopyCmd) : Bool :=
  match cmd.record with
  | some r => (s.targets blk cmd).all fun t => (List.range r.pieces).all fun p => cmd.done.contains (t, p)
  | none => false

/-- Changes a copy command. -/
def State.setCopy (s : State) (blk n : Nat) (cmd : CopyCmd) : State :=
  s.updBlock blk fun x => { x with copyQ := x.copyQ.map fun y => if y.n = n then cmd else y }

/-- An engine of a block runs: its context is in its run, or stopped by the debugger alone. -/
def State.enginesRun (s : State) (blk : Nat) : Bool :=
  (Tab.find s.blocks blk).isSome && ((s.ctx (s.block blk).ctx).state == .running || (s.ctx (s.block blk).ctx).state == .debugStop)

/-- An engine's fault of a thread that has exited becomes a record, and the die's queue has no room for it: the command stalls (R134, R239). -/
def State.tokenWaits (s : State) (k : Nat) (fault : Option TrapInfo) : Bool :=
  let die := dieOf (s.coreOf k)
  fault.isSome && (match Tab.find s.threads k with | some t => t.status == .exited | none => false) &&
    (Tab.find s.faultQ die).isSome && s.recRoom die == 0

/-- A copy command that has a fault cannot end yet: its follow-on is in the matrix context, whose C comes before the token (R10), or the fault
finds no room for its record. -/
def State.copyHeldUp (s : State) (c : CopyCmd) : Bool := (c.entered && c.follow.isSome) || s.tokenWaits c.owner c.fault

/-- A copy command ends with a fault, as soon as it may. -/
def State.failCopy (s : State) (blk : Nat) (cmd : CopyCmd) (i : TrapInfo) : State :=
  let c := { cmd with fault := some (cmd.fault.getD i), uncredited := [], stalled := none }
  if s.copyHeldUp c then s.setCopy blk c.n c else s.endCopy blk c c.fault

/-- A matrix command of a context ends: it counts on its timeline and its token is written; a follow-on ends its copy, where no piece is
still to be credited (R154, R158).  Where the copy has met a fault before its follow-on did, the token carries the copy's: the manual does not
say which (log 86). -/
def State.endMatrix (s : State) (blk : Nat) (cmd : MatCmd) (fault : Option TrapInfo) (flags : Word) : State :=
  let s := s.updBlock blk fun x => { x with matQ := x.matQ.drop 1, matDone := if cmd.n = 0 then x.matDone else cmd.n }
  if cmd.follow = 0 then (s.writeToken cmd.owner cmd.tok cmd.n cmd.pc fault flags).timelineSettle
  else
    match (s.block blk).copyQ.find? fun y => y.n == cmd.follow with
    | none => s
    | some y =>
      let f := if y.fault.isSome then y.fault else fault
      let y := { y with flags := y.flags ||| flags, follow := none, fault := f }
      if (f.isSome && !s.tokenWaits y.owner f) || (f.isNone && s.copyWhole blk y) then s.endCopy blk y f else s.setCopy blk y.n y

/-- An engine context consumes poison at an address of its scratchpad (R383). -/
def State.enginePoison (s : State) (blk owner : Nat) (pc : Pair) (addr : Nat) : State :=
  s.consumePoison (s.block blk).ctx (s.threadRec owner { accTrap 0x09 addr 0x0a 4 64 with size := 6 } pc false)

/-- The offset in a scratchpad of the first poisoned row of a tile among the bytes that are read of each row: row `i` from `o i` on,
`n i` bytes. -/
def State.tileBad (s : State) (blk : Nat) (d : Desc) (o n : Nat → Nat) : Option Nat :=
  if s.badWords.isEmpty then none
  else
    ((List.range d.rows).find? fun i => match s.spadOf blk d.addr d.remote with
      | some (b, x) => s.placeBad (.spad b (x + 64 * d.stride * i + o i)) (n i)
      | none => false).map fun i => d.addr + 64 * d.stride * i + o i

/-- The address of poison that the next chunk of a command takes as an operand (R382): in A, in B, or in C where it reads it. -/
def State.chunkBad (s : State) (blk : Nat) (cmd : MatCmd) (f : MmaF) : Option Nat :=
  let a := Desc.of cmd.ad
  let b := Desc.of cmd.bd
  let start (d : Desc) (offs : List Nat) (i : Nat) : Nat := if d.kind = 1 then 256 * cmd.chunks else offs.getD i 0
  let len (d : Desc) (offs : List Nat) (i : Nat) : Nat :=
    if d.kind = 1 then 256 else (s.operandChunk blk d cmd.chunks i (offs.getD i 0)).2.1 - offs.getD i 0
  let perRow := if f.complex then 2 * cmd.c.kext else cmd.c.kext
  s.tileBad blk a (start a cmd.offA) (len a cmd.offA) <|> s.tileBad blk b (start b cmd.offB) (len b cmd.offB) <|>
    (if cmd.part.isNone && f.accumulates then s.tileBad blk cmd.c (fun _ => 0) (fun _ => 4 * perRow) else none)

/-- R142: MATRIX_COMMAND_RUN: the engine runs one chunk of the context's oldest command, and ends the command after the last one. -/
def execMatrixCommandRun (blk : Nat) (s : State) : Out :=
  match (s.block blk).matQ with
  | [] => .next s
  | cmd :: r =>
    if !s.enginesRun blk then .next s
    else
      match cmd.mode with
      | .inr w => .next ((s.runFill blk cmd w).endMatrix blk cmd none 0)
      | .inl f =>
        match s.chunkBad blk cmd f with
        | some addr => .next (s.enginePoison blk cmd.owner cmd.pc addr)
        | none =>
        match s.runChunk blk cmd f with
        | (t, .error i) =>
          if cmd.follow = 0 && s.tokenWaits cmd.owner (some i) then .next s else .next (t.endMatrix blk cmd (some i) 0)
        | (s, .ok cmd) =>
          if (Desc.of cmd.ad).kext ≤ 128 * cmd.chunks then .next ((s.writeC blk cmd f).endMatrix blk cmd none cmd.flags)
          else .next (s.updBlock blk fun x => { x with matQ := cmd :: r })

/-! ## cpy and cpym (R153, R155) -/

/-- The checks at issue of a record in the own scratchpad: window, alignment, allocation. -/
def State.checkRecord (s : State) (k addr n align part : Nat) : Option TrapInfo :=
  if addr / 2 ^ 56 ≠ 0xF0 then some (issueTrap addr 0x06 part)
  else if addr % align ≠ 0 then some (issueTrap addr 0x05 part)
  else if !s.spadFits (blkOf k) addr n false then some (issueTrap addr 0x07 part)
  else none

/-- A copy command enters its context. -/
def State.issueCopy (s : State) (k : Nat) (t : Thread) (d : Dst) (rec : Pair) (follow mask : Option Pair) (lits : Nat)
    (m : Bool) : State :=
  let n := (s.block (blkOf k)).copyN + 1
  let tok := tokReg d t.wb.toNat
  let cmd : CopyCmd :=
    { n := n, owner := k, tok := tok.getD 0, pc := t.pc, recAddr := rec, follow := follow, mask := mask, record := none,
      followDesc := none, done := [], uncredited := [], pos := 0, flags := 0, entered := false, stalled := none, fault := none }
  (s.updBlock (blkOf k) fun x => { x with copyN := n, copyQ := x.copyQ ++ [cmd] }).retire k (pendTok t tok) lits m

/-- R153: `cpy`. -/
def execCpy (d : Dst) (a b : Src) (m : Bool) (s : State) : Out :=
  s.issue { illegal := false, role := 1, flds := [ftok d 2, fa a 2, fb b 2], rel := true } fun k t =>
    let rec_ := a.get64 s k t
    let follow := if b = .z then none else some (b.get64 s k t)
    let bad := match s.checkRecord k rec_.toNat 64 64 3 with
      | some i => some i
      | none => match follow with
        | some f => s.checkRecord k f.toNat 48 16 4
        | none => none
    match bad with
    | some i => s.trapAt k t i
    | none => (s.drain k).issueCopy k t d rec_ follow none (lits2 a b) m

/-- R155: `cpym`: b is the gang block mask. -/
def execCpym (d : Dst) (a b : Src) (m : Bool) (s : State) : Out :=
  s.issue { illegal := false, role := 1, flds := [ftok d 2, fa a 2, fb b 2], rel := true } fun k t =>
    match s.checkRecord k (a.get64 s k t).toNat 64 64 3 with
    | some i => s.trapAt k t i
    | none => (s.drain k).issueCopy k t d (a.get64 s k t) none (some (b.get64 s k t)) (lits2 a b) m

/-! ## The copy record (R149, R150, R152) -/

/-- The record that 64 bytes hold (Table 6-5). -/
def CopyRec.of (b : List Byte) : CopyRec :=
  { src := BitVec.ofNat 64 (field b 0 8), dst := BitVec.ofNat 64 (field b 8 8), rowBytes := field b 16 4, rows := field b 20 4,
    srcStride := field b 24 8, dstStride := field b 32 8, conv := BitVec.ofNat 8 (field b 40 1),
    flags := BitVec.ofNat 8 (field b 41 1), slot := field b 42 2, ring := field b 44 4, bad := !zeroField b 48 16 }

/-- An address selects a window of Table 12-1. -/
def inWindow (a : Nat) : Bool := decide (a < 2 ^ 57) || a / 2 ^ 56 == 0xF0 || a / 2 ^ 56 == 0xF1 || a / 2 ^ 56 == 0xF2

/-- Rows that start in a scratchpad window lie within the allocation of the block concerned. -/
def State.rowsFit (s : State) (blk base rows stride n : Nat) : Bool :=
  if base / 2 ^ 56 = 0xF0 then
    (List.range rows).all fun i => decide (base % 2 ^ 56 + i * stride + n ≤ (s.ctx (s.block blk).ctx).header.scratch)
  else if base / 2 ^ 56 = 0xF1 then
    (List.range rows).all fun i =>
      let o := base % 2 ^ 56 + i * stride
      decide (o / 2 ^ 20 < (s.ctx (s.block blk).ctx).blocks.length) &&
        decide (o % 2 ^ 20 + n ≤ (s.ctx (s.block blk).ctx).header.scratch)
  else true

/-- Block of a gang index. -/
def State.gangBlock (s : State) (blk g : Nat) : Nat := ((s.ctx (s.block blk).ctx).blocks[g]?).getD blk

/-- The copy record's checks in ascending order of their reasons (R152); a ring whose slot lies beyond the allocation is reason 0x0C as its
header would be (log 71). -/
def State.checkCopy (s : State) (blk : Nat) (cmd : CopyCmd) (r : CopyRec) : Option Nat :=
  let conv := (Conv.ofCode r.conv.toNat).getD .bytes
  let (x, y) := conv.aligns
  let count := (s.ctx (s.block blk).ctx).blocks.length
  let scratch := (s.ctx (s.block blk).ctx).header.scratch
  let ringBad : Bool := r.flags.getLsbD 0 &&
    (decide (63 < r.slot ∨ r.ring % 16 ≠ 0 ∨ scratch < r.ring + 32 + 16 * r.slot) ||
      (s.targets blk cmd).any fun g =>
        decide (natOf (s.readPlace (.spad (s.gangBlock blk g) r.ring) 4) % 128 ≤ r.slot))
  (firstFail
    [(r.bad || decide (8 ≤ r.flags.toNat) || (Conv.ofCode r.conv.toNat).isNone, 0x01, 3),
     (decide (r.rowBytes = 0 ∨ 2 ^ 24 < r.rowBytes ∨ r.rows = 0 ∨ 2 ^ 20 < r.rows), 0x03, 3),
     (decide (r.src.toNat % x ≠ 0 ∨ r.rowBytes % x ≠ 0 ∨ r.dst.toNat % y ≠ 0 ∨ r.dstStride % y ≠ 0), 0x05, 3),
     (!inWindow r.src.toNat || !inWindow r.dst.toNat || (cmd.mask.isSome && r.dst.toNat / 2 ^ 56 != 0xF0), 0x06, 3),
     (!s.rowsFit blk r.src.toNat r.rows r.srcStride r.rowBytes || !s.rowsFit blk r.dst.toNat r.rows r.dstStride r.rowLen ||
        (match cmd.mask with | some m => (maskIndices m).any (fun g => decide (count ≤ g)) | none => false), 0x07, 3),
     (decide (1 < r.rows ∧ r.dstStride < r.rowLen), 0x08, 3),
     ((r.flags.getLsbD 1 || r.flags.getLsbD 2) && !conv.packs, 0x0B, 3),
     (ringBad, 0x0C, 3),
     (cmd.mask == some 0, 0x0F, 3)]).map Prod.fst

/-- The follow-on record's descriptors and its check (R8, R140). -/
def State.checkFollow (s : State) (blk addr : Nat) : (BitVec 128 × BitVec 128 × BitVec 128) × Option (Nat × Nat) :=
  let b := s.readPlace (.spad blk (addr % 2 ^ 56)) 48
  let c : BitVec 128 := valOf 128 (b.take 16)
  let x : BitVec 128 := valOf 128 ((b.drop 16).take 16)
  let y : BitVec 128 := valOf 128 ((b.drop 32).take 16)
  ((c, x, y), s.checkTiles blk (MmaF.ofCode (c.extractLsb' 0 3).toNat) (c.extractLsb' 3 3).toNat (Desc.ofRecord c) (Desc.of x)
    (Desc.of y))

/-! ## The copy engine's accesses (R151, R271) -/

/-- Bytes of a place as the phase of a block sees them at their home. -/
def State.homeView (s : State) (blk : Nat) (p : Place) (n : Nat) : List Byte :=
  if s.buffers blk p then
    Line.get (bufView (s.block blk).buffer p.line.1 (Line.of (s.readPlace p.line.1 64))) p.line.2 n
  else s.readPlace p n

/-- Reads bytes of a generic address line by line, at their homes, the issuing core's dirty bytes written back first. -/
def State.engRead (s : State) (blk : Nat) : Nat → Nat → Nat → State × Except Stop (List Byte)
  | 0, _, _ => (s, .ok [])
  | fuel + 1, addr, n =>
    if n = 0 then (s, .ok [])
    else
      let m := min n (64 - addr % 64)
      match s.locate (s.engine blk) addr m 1 Need.engineRead true with
      | (s, .error x) => (s, .error x)
      | (s, .ok p) =>
        let s := match p with | .mem pa => s.l1Write (l1Key (s.block blk).core pa) | _ => s
        if s.placeBad p m then (s, .error (.poison addr))
        else
          let b := s.homeView blk p m
          let s := if s.buffers blk p then s.noteRead blk p m (Line.of (s.readPlace p.line.1 64)) else s
          match State.engRead s blk fuel (addr + m) (n - m) with
          | (s, .ok r) => (s, .ok (b ++ r))
          | x => x

/-- Writes bytes within a line of a generic address: the issuing core's line goes (R271); a shared page is copied first
(R236); a RELAUNCH phase's write is buffered (R388). -/
def State.engWrite (s : State) (blk addr : Nat) (b : List Byte) : State × Option Stop :=
  let put (s : State) (p : Place) : State × Option Stop :=
    if s.buffers blk p then
      match s.buffer blk [.store p addr b] with
      | some s => (s, none)
      | none => (s, some (.trap (poolTrap addr Need.engineWrite b.length)))
    else
      let s := s.dropLineAt (s.block blk).core p
      (s.writePlace p b (some (s.block blk).ctx), none)
  let go (s : State) : State × Except Stop Place := s.locate (s.engine blk) addr b.length 1 Need.engineWrite true
  match go s with
  | (s, .ok p) => put s p
  | (s, .error (.copy va)) =>
    match s.copyShared (s.engine blk).asid va with
    | none => (s, some (.copy va))
    | some s =>
      match go s with
      | (s, .ok p) => put s p
      | (s, .error x) => (s, some x)
  | (s, .error x) => (s, some x)

/-! ## Conversions of the copy engine (R150) -/

/-- Source offset and length in a row for `n` destination bytes at offset `o`. -/
def Conv.source (c : Conv) (rowBytes o n : Nat) : Nat × Nat :=
  match c with
  | .bytes => (o, n)
  | .pack f size =>
    let k := f.count * size
    (o / 64 * k, min k (rowBytes - o / 64 * k))
  | .narrow => (2 * o, 2 * n)
  | .widen => (o / 2, n / 2)

/-- The destination bytes of source bytes, with the flags. -/
def Conv.apply (c : Conv) (check : Bool) (b : List Byte) : List Byte × Word :=
  match c with
  | .bytes => (b, 0)
  | .pack f size =>
    let vs := (chunksOf size f.count b).map fun x => if size = 4 then fp32 (valOf 32 x) else bf16 (valOf 16 x)
    let vs := vs ++ List.replicate (f.count - vs.length) (.fin false 0 0)
    let (l, g) := packGroup f vs check
    (Line.get l 0 64, g)
  | .narrow =>
    let os := (chunksOf 4 b.length b).map fun x => toBf16 .rn (fp32 (valOf 32 x))
    (os.flatMap fun o => natBytes 2 o.bits, orFlags os)
  | .widen =>
    let os := (chunksOf 2 b.length b).map fun x => fromBf16 (valOf 16 x)
    (os.flatMap fun o => natBytes 4 o.bits, orFlags os)

/-- The parts, as row, offset and length, of the destination's aligned 64-byte unit from byte `x` on in row order, of which `room` bytes are
left: rows that follow one another without a gap share units (R151). -/
def CopyRec.unit (r : CopyRec) : Nat → Nat → Nat → List (Nat × Nat × Nat)
  | 0, _, _ => []
  | fuel + 1, x, room =>
    if room = 0 || decide (r.total ≤ x) then []
    else
      let i := x / r.rowLen
      let o := x % r.rowLen
      let n := min (r.rowLen - o) room
      (i, o, n) :: (if o + n = r.rowLen && r.dstStride == r.rowLen then r.unit fuel (x + n) (room - n) else [])

/-- Reads and converts the parts of a unit. -/
def State.readUnit (s : State) (blk : Nat) (r : CopyRec) : List (Nat × Nat × Nat) → State × Except Stop (List Byte × Word)
  | [] => (s, .ok ([], 0))
  | (i, o, n) :: l =>
    let conv := (Conv.ofCode r.conv.toNat).getD .bytes
    let (so, sn) := conv.source r.rowBytes o n
    match s.engRead blk (sn / 64 + 2) ((r.src.toNat + i * r.srcStride + so) % 2 ^ 64) sn with
    | (s, .error x) => (s, .error x)
    | (s, .ok b) =>
      let (out, g) := conv.apply (r.flags.getLsbD 1) b
      match State.readUnit s blk r l with
      | (s, .ok (b, h)) => (s, .ok (out ++ b, g ||| h))
      | x => x

/-- VERIFY (Table 6-6): a block that has been written is read again at an address and checked under R23, whose step 3 is for matrix operands
alone. -/
def State.verifyUnit (s : State) (blk : Nat) (r : CopyRec) (addr : Nat) : State × Option Stop :=
  if !r.flags.getLsbD 2 then (s, none)
  else
    match s.engRead blk 2 addr 64 with
    | (s, .error x) => (s, some x)
    | (s, .ok b) =>
      match checkBlock (Line.of b) false with
      | .ok _ => (s, none)
      | .error e => (s, some (.trap (engTrap 0x0E addr e.toNat 3)))

/-- Moves one unit to every target. -/
def State.moveUnit (s : State) (blk : Nat) (cmd : CopyCmd) (r : CopyRec) (l : List (Nat × Nat × Nat)) : State × Except Stop Word :=
  let dstAt := match l with | (i, o, _) :: _ => (r.dst.toNat + i * r.dstStride + o) % 2 ^ 64 | [] => 0
  match s.readUnit blk r l with
  | (s, .error x) => (s, .error x)
  | (s, .ok (out, g)) =>
    match cmd.mask with
    | some m =>
      let gs := maskIndices m
      let s := gs.foldl (fun s g => s.writePlace (.spad (s.gangBlock blk g) (dstAt % 2 ^ 56)) out) s
      match gs.findSome? fun g => (s.verifyUnit blk r (0xF1 * 2 ^ 56 + 2 ^ 20 * g + dstAt % 2 ^ 20)).2 with
      | some x => (s, .error x)
      | none => (s, .ok g)
    | none =>
      match s.engWrite blk dstAt out with
      | (s, some x) => (s, .error x)
      | (s, none) =>
        match s.verifyUnit blk r dstAt with
        | (s, some x) => (s, .error x)
        | (s, none) => (s, .ok g)

/-- Moves the destination units from byte `x` on, in row order, until byte `e` has been moved: how far it came, with the flags, and why it
stopped. -/
def State.moveRange (s : State) (blk : Nat) (cmd : CopyCmd) (r : CopyRec) (e : Nat) : Nat → Nat → Word → State × Nat × Word × Option Stop
  | 0, x, g => (s, x, g, none)
  | fuel + 1, x, g =>
    if e ≤ x then (s, x, g, none)
    else
      let i := x / r.rowLen
      let l := r.unit 65 x (64 - (r.dst.toNat + i * r.dstStride + x % r.rowLen) % 64)
      match s.moveUnit blk cmd r l with
      | (s, .error y) => (s, x, g, some y)
      | (s, .ok f) => State.moveRange s blk cmd r e fuel (x + l.foldl (fun n p => n + p.2.2) 0) (g ||| f)

/-- Records that piece `p` has landed at every target: it waits for its credits where RING is set. -/
def CopyCmd.landed (cmd : CopyCmd) (r : CopyRec) (ts : List Nat) (p : Nat) : CopyCmd :=
  let l := ts.filterMap fun t => if cmd.done.contains (t, p) || cmd.uncredited.contains (t, p) then none else some (t, p)
  if r.flags.getLsbD 0 then { cmd with uncredited := cmd.uncredited ++ l } else { cmd with done := cmd.done ++ l }

/-- Moves the pieces that have not landed, in order, until all have or the engine stops; the piece under way goes on at the unit at which
the engine stopped (R151). -/
def State.movePieces (s : State) (blk : Nat) (r : CopyRec) (ts : List Nat) : List Nat → CopyCmd → State × CopyCmd × Option Stop
  | [], cmd => (s, { cmd with pos := 0 }, none)
  | p :: ps, cmd =>
    if ts.all fun t => cmd.done.contains (t, p) || cmd.uncredited.contains (t, p) then s.movePieces blk r ts ps cmd
    else
      match s.moveRange blk cmd r (min r.total (4096 * (p + 1))) 4097 (max (4096 * p) cmd.pos) 0 with
      | (s, x, g, some y) => (s, { cmd with pos := x, flags := cmd.flags ||| g }, some y)
      | (s, x, g, none) => State.movePieces s blk r ts ps ({ cmd with pos := x, flags := cmd.flags ||| g }.landed r ts p)

/-! ## Running a copy command -/

/-- The copy has landed everywhere: its follow-on enters the matrix context (R154), or, with every credit made, it ends. -/
def State.copyLanded (s : State) (blk : Nat) (cmd : CopyCmd) : State :=
  match cmd.followDesc with
  | some (c, a, b) =>
    let mode := (MmaF.ofCode (c.extractLsb' 0 3).toNat).getD .acc
    let x : MatCmd := { n := 0, follow := cmd.n, owner := cmd.owner, tok := cmd.tok, pc := cmd.pc, mode := .inl mode, cd := c, ad := a, bd := b,
                        chunks := 0, offA := [], offB := [], part := none, flags := 0 }
    (s.setCopy blk cmd.n { cmd with followDesc := none, entered := true }).updBlock blk fun y => { y with matQ := y.matQ ++ [x] }
  | none =>
    if cmd.follow.isNone && s.copyWhole blk cmd then s.endCopy blk cmd none else s.setCopy blk cmd.n cmd

/-- The engine meets a stop: a translation miss stalls it with a replayable record, poison goes to the phase or context, and
every other fault ends the command (R151, R383). -/
def State.copyStop (s : State) (blk : Nat) (cmd : CopyCmd) (x : Stop) : State :=
  let die := dieOf (s.block blk).core
  match x with
  | .absent va kind _ =>
    let r := s.threadRec cmd.owner { accTrap 0x08 va 0 kind 64 with size := 6 } cmd.pc true
    match (if (Tab.getD s.recWait die []).isEmpty then s.appendRec die r else none) with
    | some (s, n) => s.setCopy blk cmd.n { cmd with stalled := some (die, n) }
    | none => s.setCopy blk cmd.n cmd
  | .copy va =>
    (s.setCopy blk cmd.n cmd).askCopy (s.engine blk).asid va
  | .trap i => s.failCopy blk cmd (if i.cause = 0x0E then i else { i with detail := 0x300, size := 6 })
  | .malformed i =>
    let r := mkRecord i.addr 0 (s.engine blk).asid 0x09 i.kind false 6 (s.block blk).core 0 0xff 0x02
    match s.tryRec die r with
    | some s => s.failCopy blk cmd { i with detail := 0x300, size := 6 }
    | none => s.setCopy blk cmd.n cmd
  | .poison va =>
    s.consumePoison (s.block blk).ctx (s.threadRec cmd.owner { accTrap 0x09 va 0x0a 4 64 with size := 6 } cmd.pc false)
  | .fence d => (s.setCopy blk cmd.n cmd).fence d
  | .keyless va kind _ => s.killCtx (s.block blk).ctx (some (s.threadRec cmd.owner { accTrap 0x09 va 0x0c kind 64 with size := 6 } cmd.pc false))

/-- The engine reads and checks its records, once (R152). -/
def State.loadRecord (s : State) (blk : Nat) (cmd : CopyCmd) : Except TrapInfo CopyCmd :=
  match cmd.record with
  | some _ => .ok cmd
  | none =>
    let r := CopyRec.of (s.readPlace (.spad blk (cmd.recAddr.toNat % 2 ^ 56)) 64)
    match s.checkCopy blk cmd r with
    | some reason => .error (engTrap 0x13 cmd.recAddr.toNat reason 3)
    | none =>
      match cmd.follow with
      | none => .ok { cmd with record := some r }
      | some f =>
        match s.checkFollow blk f.toNat with
        | (_, some (reason, p)) => .error (engTrap 0x13 f.toNat reason (4 + p))
        | (ds, none) => .ok { cmd with record := some r, followDesc := some ds }

/-- The address of a record of a copy command that is poisoned when the engine comes to read it (R382). -/
def State.recordBad (s : State) (blk : Nat) (cmd : CopyCmd) : Option Nat :=
  if cmd.record.isSome then none
  else if s.placeBad (.spad blk (cmd.recAddr.toNat % 2 ^ 56)) 64 then some cmd.recAddr.toNat
  else match cmd.follow with
    | some f => if s.placeBad (.spad blk (f.toNat % 2 ^ 56)) 48 then some f.toNat else none
    | none => none

/-- R151, R152: COPY_COMMAND_RUN: the engine reads and checks its records, moves and converts what has not landed, and ends
the command where nothing is left to credit and no follow-on runs.  Pieces that a pre-emption took away are delivered again, whether or not
the follow-on has entered (R288). -/
def execCopyCommandRun (blk n : Nat) (s : State) : Out :=
  match (s.block blk).copyQ.find? fun y => y.n == n with
  | none => .next s
  | some cmd =>
    if !s.enginesRun blk || cmd.stalled.isSome then .next s
    else if cmd.fault.isSome then .next (if s.copyHeldUp cmd then s else s.endCopy blk cmd cmd.fault)
    else
      match s.recordBad blk cmd with
      | some addr => .next (s.copyStop blk cmd (.poison addr))
      | none =>
      match s.loadRecord blk cmd with
      | .error i => .next (s.failCopy blk cmd i)
      | .ok cmd =>
        match cmd.record with
        | none => .next s
        | some r =>
          match s.movePieces blk r (s.targets blk cmd) (List.range r.pieces) cmd with
          | (s, cmd, some x) => .next (s.copyStop blk cmd x)
          | (s, cmd, none) => .next (s.copyLanded blk cmd)

/-! ## Stage rings (R156 to R160) -/

/-- A word of a ring in a scratchpad. -/
def State.ringWord (s : State) (blk off : Nat) : Nat := natOf (s.readPlace (.spad blk off) 4)

/-- Writes a word of a ring. -/
def State.putRing (s : State) (blk off x : Nat) : State := s.writePlace (.spad blk off) (natBytes 4 x)

/-- Address of a scratchpad offset in the own window. -/
def ownAddr (off : Nat) : Nat := 0xF0 * 2 ^ 56 + off

/-- The fault of a wait on a slot in error (Table 6-2). -/
def ringFault (off : Nat) : TrapInfo := engTrap 0x13 (ownAddr off) 0x0D 7

/-- A waiter's token is completed, with 1 or faulted; a faulted token's bits below 63 are free. -/
def State.waiterDone (s : State) (w : RingWaiter) (fault : Bool) : State :=
  if fault then
    ({ s with ticket := s.ticket + 1 }).writeToken w.thread w.tok (Config.free s.ticket).toNat w.pc (some (ringFault w.slot)) 0
  else s.writeToken w.thread w.tok 1 w.pc none 0

/-- Completes waiters that a test selects. -/
def State.wakeWaiters (s : State) (blk : Nat) (p : RingWaiter → Bool) (fault : Bool) : State :=
  let ws := (s.block blk).waiters.filter p
  ws.foldl (fun s w => s.waiterDone w fault) (s.updBlock blk fun b => { b with waiters := b.waiters.filter fun w => !p w })

/-- `wake` of R157. -/
def State.ringWake (s : State) (blk off : Nat) : State :=
  let f := s.ringWord blk (off + 8)
  let s := s.wakeWaiters blk (fun w => w.slot == off && w.want == f % 2) false
  if f / 2 % 2 = 1 then s.wakeWaiters blk (fun w => w.slot == off) true else s

/-- `settle` of R157, with A not yet reduced to its word. -/
def State.ringSettle (s : State) (blk off a : Nat) : State :=
  let e := s.ringWord blk off
  let f := s.ringWord blk (off + 8)
  if e ≠ 0 ∧ a = e then
    (((s.putRing blk off 0).putRing blk (off + 4) 0).putRing blk (off + 8) (f ^^^ 1)).ringWake blk off
  else
    let s := s.putRing blk (off + 4) a
    if (e ≠ 0 ∧ e < a) ∨ 2 ^ 32 ≤ a then (s.putRing blk (off + 8) (f ||| 2)).ringWake blk off else s

/-- `arrive` of R157. -/
def State.ringArrive (s : State) (blk off n : Nat) : State :=
  if s.ringWord blk (off + 8) / 2 % 2 = 1 then s else s.ringSettle blk off (s.ringWord blk (off + 4) + n)

/-- `release` of R157. -/
def State.ringRelease (s : State) (blk off n : Nat) : State :=
  let f := s.ringWord blk (off + 8)
  if f / 2 % 2 = 1 then s
  else if s.ringWord blk off ≠ 0 ∨ n = 0 then (s.putRing blk (off + 8) (f ||| 2)).ringWake blk off
  else (s.putRing blk off n).ringSettle blk off (s.ringWord blk (off + 4))

/-- `init` of R157; slots beyond the allocation have no words. -/
def State.ringInit (s : State) (blk off n : Nat) : State :=
  let s := s.wakeWaiters blk (fun w => decide (off + 16 ≤ w.slot ∧ w.slot ≤ off + 16 + 16 * 63)) true
  let room := ((s.ctx (s.block blk).ctx).header.scratch - (off + 16)) / 16
  (s.writePlace (.spad blk off) (natBytes 16 n)).writePlace (.spad blk (off + 16)) (List.replicate (16 * min n room) 0)

/-- `wait` of R157. -/
def State.ringWait (s : State) (blk : Nat) (w : RingWaiter) : State :=
  let f := s.ringWord blk (w.slot + 8)
  if f / 2 % 2 = 1 then s.waiterDone w true
  else if f % 2 = w.want then s.waiterDone w false
  else s.updBlock blk fun b => { b with waiters := b.waiters ++ [w] }

/-- Applies a ring operation at its scratchpad; a named token of init, arrive or release is written 0. -/
def State.ringApply (s : State) (r : RingOp) : State :=
  let blk := blkOf r.thread
  let tokDone (s : State) : State := match r.tok with | some n => s.writeToken r.thread n 0 r.pc none 0 | none => s
  match r.kind with
  | .init => tokDone (s.ringInit blk r.off r.value)
  | .arrive => tokDone (s.ringArrive blk r.off r.value)
  | .release => tokDone (s.ringRelease blk r.off r.value)
  | .wait => s.ringWait blk { thread := r.thread, tok := r.tok.getD 0, slot := r.off, want := r.value, pc := r.pc }

/-- The checks at issue of a `ring` (R157). -/
def State.checkRing (s : State) (k : Nat) (addr : Nat) (kind : RingKind) (b : Nat) : Option TrapInfo :=
  let own := addr / 2 ^ 56 == 0xF0 && s.spadFits (blkOf k) addr 16 false
  if !own then some (accTrap 0x07 addr 0 1 16)
  else if addr % 16 ≠ 0 then some (accTrap 0x06 addr 0 1 16)
  else if kind = .init ∧ (b < 1 ∨ 64 < b) then some (issueTrap addr 0x0C 7)
  else if kind = .wait ∧ 1 < b then some (issueTrap addr 0x01 7)
  else none

/-- A `ring` operation of a kind: it is an engine command, behind the thread's earlier accesses (R9), and an arrival releases at block scope
(R159). -/
def ringOp (d : Dst) (a b : Src) (kind : RingKind) (m : Bool) (s : State) : Out :=
  let fld := if kind = .wait then ftok d 2 else fd d 2
  s.issue { illegal := false, role := if kind = .arrive then 1 else 0, flds := [fld, fa a 2, fb b 1], rel := true } fun k t =>
    let addr := (a.get64 s k t).toNat
    let x := (b.get32 s k t).toNat
    match s.checkRing k addr kind x with
    | some i => s.trapAt k t i
    | none =>
      let tok := tokReg d t.wb.toNat
      let r : RingOp := { thread := k, off := addr % 2 ^ 56, kind := kind, value := x, tok := tok, pc := t.pc }
      let s := s.release k .block
      ({ s with ringQ := s.ringQ ++ [r] }).retire k (pendTok t tok) (lits2 a b) m

/-- R157: `ring` init. -/
def execRingInit (d : Dst) (a b : Src) (m : Bool) (s : State) : Out := ringOp d a b .init m s
/-- R157, R159: `ring` arrive. -/
def execRingArrive (d : Dst) (a b : Src) (m : Bool) (s : State) : Out := ringOp d a b .arrive m s
/-- R157: `ring` wait. -/
def execRingWait (d : Dst) (a b : Src) (m : Bool) (s : State) : Out := ringOp d a b .wait m s
/-- R157: `ring` release. -/
def execRingRelease (d : Dst) (a b : Src) (m : Bool) (s : State) : Out := ringOp d a b .release m s

/-- Waiters of a block's rings whose fault would become a record may find no room for it in the die's queue (R134, R239). -/
def State.waitersHeldUp (s : State) (blk : Nat) : Bool :=
  let n := ((s.block blk).waiters.filter fun w => match Tab.find s.threads w.thread with | some t => t.status == .exited | none => false).length
  let die := dieOf (s.block blk).core
  (Tab.find s.faultQ die).isSome && decide (s.recRoom die < n)

/-- R157: RING_OP_APPLY: an operation reaches its scratchpad; a thread's operations stay in order. -/
def execRingOpApply (i : Nat) (s : State) : Out :=
  match s.ringQ[i]? with
  | none => .next s
  | some r =>
    if (s.ringQ.take i).any (fun q => q.thread == r.thread) || s.waitersHeldUp (blkOf r.thread) then .next s
    else if s.placeBad (.spad (blkOf r.thread) r.off) 16 && r.kind != .init then .next (s.enginePoison (blkOf r.thread) r.thread r.pc (ownAddr r.off))
    else .next (({ s with ringQ := dropAt s.ringQ i }).ringApply r)

/-- R158: COPY_PIECE_CREDIT: a landed piece is credited to a target's ring, whole; a slot that an init has taken away ends
the copy, once a follow-on that has entered the matrix context has run (R10).  The trap address of a discarded credit is the slot's in the own
window of the block that holds it, whichever block of the gang that is: R158 says only that it is the ring slot (log 86).  Pieces of a copy
whose follow-on has entered are credited before an eviction, so that none of them lands again over C (R10, R12, R286). -/
def execCopyPieceCredit (blk n target : Nat) (s : State) : Out :=
  match (s.block blk).copyQ.find? fun y => y.n == n with
  | none => .next s
  | some cmd =>
    match cmd.uncredited.find? (fun x => x.1 == target), cmd.record with
    | some (g, p), some r =>
      if !s.enginesRun blk && !(cmd.entered && (s.ctx (s.block blk).ctx).state == .stopping) || s.waitersHeldUp (s.gangBlock blk g) then .next s
      else
        let b := s.gangBlock blk g
        let slot := r.ring + 16 + 16 * r.slot
        if s.placeBad (.spad b r.ring) 4 || s.placeBad (.spad b slot) 16 then .next (s.enginePoison blk cmd.owner cmd.pc (ownAddr slot))
        else if s.ringWord b r.ring % 128 ≤ r.slot then
          let f : TrapInfo := { engTrap 0x13 (ownAddr slot) 0x0C 7 with kind := 5 }
          .next (s.failCopy blk cmd f)
        else
          let s := s.ringArrive b slot (min r.total (4096 * (p + 1)) - 4096 * p)
          let cmd := { cmd with uncredited := cmd.uncredited.filter (· != (g, p)), done := cmd.done ++ [(g, p)] }
          .next (if s.copyWhole blk cmd && cmd.follow.isNone then s.endCopy blk cmd none else s.setCopy blk cmd.n cmd)
    | _, _ => .next s

end Sys2Proof.Machine
end

