-- ==== Sys2Proof/Machine/Sys.lean ====
section
/-!
DEFINITION. The register file instructions (R209 to R215), the handler instructions (R280, R281), `sysc` (R282, R410) and
`dbgx` (R283, R284).
-/
namespace Sys2Proof.Machine

/-! ## winb, racq and rrel -/

/-- R215: `winb`. -/
def execWinb (a : Src) (add : Bool) (m : Bool) (s : State) : Out :=
  s.issue (Req.any [fa a 1]) fun k t =>
    let n := (a.get32 s k t).toNat + (if add then t.wb.toNat else 0)
    if n % 16 ≠ 0 ∨ 496 < n then s.trapAt k t (trapOperand 1)
    else s.retire k { t with wb := BitVec.ofNat 16 n } (lits1 a) m

/-- A target of `racq` or `rrel` is one that the header allows (R212, R214). -/
def targetOk (h : Header) (n : Nat) : Bool := decide (h.base ≤ n ∧ (n - h.base) % 64 = 0 ∧ n ≤ h.max)

/-- The group of a thread has nobody left to execute its instruction. -/
def State.lastOf (s : State) (g : Option (Nat × Group)) : Bool :=
  match g with
  | none => true
  | some (gk, _) => match Tab.find s.groups gk with | some x => x.ended || x.todo.isEmpty | none => true

/-- R212: `racq`: the threads of a group arrive one after the other; the last one's arrival makes their request. -/
def execRacq (d : Dst) (a : Src) (try_ : Bool) (s : State) : Out :=
  s.issue (Req.any [fd d 1, fa a 1]) fun k t =>
    let n := (a.get32 s k t).toNat
    let g := s.groupOf k
    if !targetOk (s.ctxOf k).header n then s.trapAt k t (trapOperand 1)
    else
      let s := s.waitAt k t (.racqJoin (d.dests t.wb.toNat 1) n try_) (lits1 a) true
      if s.lastOf g then s.racqTogether (match g with | some (_, x) => x.members | none => [k]) else s

/-- Threads that have arrived at a `racq` and whose group has ended without making their request, since its last thread trapped. -/
def State.racqLate (s : State) : List Nat :=
  (s.threads.filter fun (k, t) => t.racqAsks.isSome && (s.groupOf k).isNone).map Prod.fst

/-- Registers that a waiting thread's instruction writes, and those that one which stalls in place reads and writes (R214). -/
def Thread.holds (t : Thread) : List RegId :=
  match t.status with
  | .waiting (.conv _ ds _) _ => ds
  | .waiting (.racq ds _) _ => ds
  | .waiting (.racqJoin ds _ _) _ => ds
  | .waiting (.parv ds _ _) _ => ds
  | .waiting (.sysc _ _ ds) _ => ds
  | _ => if t.stall.isSome then t.held else []

/-- When the instruction at which a thread waits or stalls issued. -/
def Thread.heldSince (t : Thread) : Nat :=
  match t.status, t.stall with
  | .waiting _ _, _ => t.since
  | _, some (_, n) => n
  | _, none => 0

/-- When a thread's `rrel` issued. -/
def State.rrelSince (s : State) (k : Nat) (t : Thread) : Nat :=
  match t.stall with
  | some (.rrel, n) => n
  | _ => s.issueClock k t

/-- Another group has still to execute, in a thread of a wave, an instruction that issued before a clock. -/
def State.midIssue (s : State) (k since : Nat) : Bool :=
  s.groups.any fun (_, g) => !g.ended && decide (g.began < since) && !g.members.contains k && g.todo.any fun j =>
    waveKey j == waveKey k && (match Tab.find s.threads j with | some t => t.stall.isNone | none => false)

/-- At the `rrel` of a thread, registers from `a` up to `b` of its wave are still to be read or written by an instruction that issued before
it, or are the destination of a result or hold a pending token (R214).  An engine's fault that has not been delivered does not hold them: it
stays with its token (log 73). -/
def State.regsBusy (s : State) (k : Nat) (t : Thread) (a b : Nat) : Bool :=
  let inside (r : RegId) : Bool := match r with | .v n => decide (a ≤ n ∧ n < b) | .k _ => false
  let since := s.rrelSince k t
  s.midIssue k since ||
  (s.waveThreads (waveKey k)).any fun (j, u) =>
    u.pend.any (fun p => p.dests.any inside) || (j != k && decide (u.heldSince < since) && u.holds.any inside) ||
      u.toks.any fun (n, x) => x == .pending && decide (a ≤ n + 1 ∧ n < b)

/-- R214: `rrel`: the released registers are no longer readable; they read 0 when they join an allocation again (R209). -/
def execRrel (d : Dst) (a : Src) (m : Bool) (s : State) : Out :=
  s.issue (Req.any [fd d 1, fa a 1]) fun k t =>
    let n := (a.get32 s k t).toNat
    let w := s.wave k
    let ds := d.dests t.wb.toNat 1
    let inside := match tokReg d t.wb.toNat with | some r => decide (min n (s.allocAt k) ≤ r) | none => false
    if !targetOk (s.ctxOf k).header n then s.trapAt k t (trapOperand 1)
    else if inside then s.trapAt k t (trapOperand 0)
    else if w.alloc ≤ n then s.finishF k t ds [BitVec.ofNat 32 w.alloc] 0 (lits1 a) m
    else if s.regsBusy k t n w.alloc then s.stallAt k t .rrel (regsOf [fd d 1, fa a 1] t)
    else
      let s := s.updWave (waveKey k) fun w => { w with alloc := n }
      (s.finishF k t ds [BitVec.ofNat 32 n] 0 (lits1 a) m).racqGrant (s.coreOf k)

/-- R214: RREL_STALL_END: an `rrel` whose registers are free is tried again at once, ahead of its group's other threads. -/
def execRrelStallEnd (th : Nat) (s : State) : Out :=
  match Tab.find s.threads th with
  | none => .next s
  | some t =>
    match t.stall with
    | some (.rrel, _) =>
      let s := s.putThread th { t with stall := none }
      match s.groupOf th with
      | some (g, x) =>
        if x.todo.contains th then
          .next { s with groups := Tab.put s.groups g { x with todo := th :: x.todo.filter (· != th) } }
        else .next s
      | none => .next s
    | _ => .next s

/-- The time-out of a context's waits in clocks (R123, R162). -/
def Ctx.limit (c : Ctx) : Nat := clocksOf c.header.timeout

/-- The target that a thread waits for at a `racq`. -/
def Thread.racqTarget (t : Thread) : Option Nat :=
  match t.status with
  | .waiting (.racq _ n) _ => some n
  | _ => none

/-- R213: REGISTER_ACQUIRE_TIMEOUT: the threads of a wave that wait at one `racq` for one target beyond the time-out trap as one event,
and their part of the request is withdrawn. -/
def execRegisterAcquireTimeout (th : Nat) (s : State) : Out :=
  match Tab.find s.threads th with
  | none => .next s
  | some t =>
    match t.racqTarget with
    | none => .next s
    | some n =>
      let out (x : Thread) : Bool := x.racqTarget == some n && x.pc == t.pc && !s.waitsOff th x &&
        decide ((s.ctxOf th).limit < s.clock - x.since)
      if !out t then .next s
      else
        let ks := ((s.waveThreads (waveKey th)).filter fun (_, x) => out x).map Prod.fst
        let ev := s.ticket
        let s := ks.foldl (fun s k =>
          match Tab.find s.threads k with
          | some x => if out x then s.takeTrap k { x with status := .ready } (plainTrap 0x0c (BitVec.ofNat 32 n)) x.pc x.pc ev else s
          | none => s) { s with ticket := s.ticket + 1 }
        .next (s.racqShrink (waveKey th))

/-! ## sysr, sysw and eret (R280, R281) -/

/-- An instruction that only a handler may execute (R59). -/
def handlerOnly (s : State) : Bool :=
  match s.runner with
  | some t => !t.inHandler
  | none => false

/-- Registers of a `sysr` code (Table 15-3). -/
def sysrWidth : SysR → Nat
  | .pc | .addr | .image | .faultPc => 2
  | _ => 1

/-- The value of a `sysr` code. -/
def State.sysrVal (s : State) (k : Nat) (t : Thread) (c : SysR) : Pair :=
  match c with
  | .status => (s.wave k).status.zeroExtend 64
  | .cause => t.trap.cause.zeroExtend 64
  | .pc => t.trap.pc
  | .addr => t.trap.addr
  | .detail => t.trap.detail.zeroExtend 64
  | .mask => t.trap.mask.zeroExtend 64
  | .image => (s.ctxOf k).image
  | .faultPc => t.trap.faultPc

/-- R280: `sysr`. -/
def execSysr (d : Dst) (code : SysR) (m : Bool) (s : State) : Out :=
  s.issue { illegal := handlerOnly s, role := 0, flds := [fd d (sysrWidth code)] } fun k t =>
    s.finishV k t (d.dests t.wb.toNat (sysrWidth code)) (some (valWords (sysrWidth code) (s.sysrVal k t code))) 0 false none 0 m

/-- R280: `sysw`. -/
def execSysw (a : Src) (code : SysW) (m : Bool) (s : State) : Out :=
  match code with
  | .status =>
    s.issue { illegal := handlerOnly s, role := 0, flds := [fa a 1] } fun k t =>
      (s.updWave (waveKey k) fun w => { w with status := w.status &&& ~~~(a.get32 s k t) }).retire k t (lits1 a) m
  | .pc =>
    s.issue { illegal := handlerOnly s, role := 0, flds := [fa a 2] } fun k t =>
      let pc := a.get64 s k t
      let posted := if pc = t.trap.pc then t.posted else t.posted.filter (· != t.trap.pc)
      s.retire k { t with trap := { t.trap with pc := pc }, posted := posted } (lits1 a) m

/-- R281: `eret`. -/
def execEret (s : State) : Out :=
  s.issue { illegal := handlerOnly s, role := 0, flds := [] } fun k t => s.returnFromTrap k t

/-! ## sysc (R282, R410) -/

/-- A `sysc` of a service; service 0x01 is illegal in a RELAUNCH kernel (R388). -/
def syscWith (d : Dst) (a : Src) (flds : List Fld) (service : BitVec 7) (s : State) : Out :=
  s.issue { illegal := service == 1 && inRelaunch s, role := 0, flds := fd d 1 :: flds, rel := service == 1 } fun k t =>
    let x := a.get64 s k t
    let s := if service = 1 then s.release k .system else s
    s.waitAt k t (.sysc service x (d.dests t.wb.toNat 1)) (lits1 a) true

/-- R282 service 0x00. -/
def execSyscVersion (d : Dst) (s : State) : Out := syscWith d .z [] 0 s
/-- R282 service 0x01. -/
def execSyscPost (d : Dst) (a : Src) (s : State) : Out :=
  syscWith d a [fa a 2] 1 s
/-- R282 service 0x02. -/
def execSyscPrefault (d : Dst) (a : Src) (s : State) : Out := syscWith d a [fa a 2] 2 s

/-- Bytes of `n` at an address that lie in its page of 64 KiB. -/
def inPage (va n : Nat) : Nat := min n (65536 - va % 65536)

/-- A page is made resident for firmware, which finds its place; a poisoned entry on the way has its die fenced (R383). -/
def State.fwPage (s : State) (asid va : Nat) : State × Option Nat :=
  match s.walkBad asid va with
  | some die => (s.fence die, none)
  | none =>
    match s.makeResident asid va with
    | none => (s, none)
    | some s => (s, s.fwPlace asid va)

/-- Firmware reads bytes of a program's memory, at most 64 KiB of them: a page that is not resident becomes so first. -/
def State.fwRead (s : State) (asid va n : Nat) : State × Option (List Byte) :=
  let m := inPage va n
  match s.fwPage asid va with
  | (s, none) => (s, none)
  | (s, some pa) =>
    let s := s.l1FlushCores asid fun _ => true
    if m = n then (s, some (s.readMem pa n))
    else
      match s.fwPage asid (va + m) with
      | (s, none) => (s, none)
      | (s, some pb) => (s, some (s.readMem pa m ++ s.readMem pb (n - m)))

/-- Firmware writes bytes of a program's memory, at most 64 KiB of them. -/
def State.fwWrite (s : State) (asid va : Nat) (b : List Byte) : State × Bool :=
  let m := inPage va b.length
  let put (s : State) (pa : Nat) (b : List Byte) : State := (s.dropEverywhere pa b.length).writeMem pa b
  match s.fwPage asid va with
  | (s, none) => (s, false)
  | (s, some pa) =>
    if m = b.length then (put s pa b, true)
    else
      match s.fwPage asid (va + m) with
      | (s, none) => (s, false)
      | (s, some pb) => (put (put s pa (b.take m)) pb (b.drop m), true)

/-- Bytes of a program's memory that firmware is about to read hold poison, at home or in a dirty line. -/
def State.fwBad (s : State) (asid va n : Nat) : Bool :=
  let s := s.l1FlushCores asid fun _ => true
  let bad (va n : Nat) : Bool := match s.fwPlace asid va with | some pa => decide (0 < n) && s.poisoned pa n | none => false
  bad va (inPage va n) || bad (va + inPage va n) (n - inPage va n)

/-- A message is posted to the host message queue of an ASID (R410): the answer, and none where the manual gives none. -/
def State.postMessage (s : State) (asid addr : Nat) : State × Option Word :=
  match Tab.find s.asids asid with
  | none => (s, some 1)
  | some x =>
    match x.msgQueue with
    | none => (s, some 1)
    | some (hdr, k) =>
      match s.fwRead asid (hdr.toNat + 8) 8 with
      | (s, none) => (s, some 1)
      | (s, some c) =>
        let used := x.produced - min (natOf c) x.produced
        if used = 2 ^ k then (s, some 1)
        else if addr % 64 ≠ 0 then (s, none)
        else
          match s.fwRead asid addr 64 with
          | (s, none) => (s, none)
          | (s, some b) =>
            match s.fwWrite asid (hdr.toNat + 64 + 64 * (x.produced % 2 ^ k)) b with
            | (s, false) => (s, none)
            | (s, true) =>
              match s.fwWrite asid hdr.toNat (natBytes 8 (x.produced + 1)) with
              | (s, false) => (s, none)
              | (s, true) =>
                let s := s.updAsid asid fun y => { y with produced := y.produced + 1 }
                ({ s with host := if s.host.ien.getLsbD 2 then { s.host with msix := 2 :: s.host.msix } else s.host }, some 0)

/-- Every page of a range is made resident: whether each one was. -/
def State.prefault (s : State) (asid va : Nat) : Nat → State × Bool
  | 0 => (s, true)
  | n + 1 =>
    match s.walkBad asid va, s.makeResident asid va with
    | some die, _ => (let r := (s.fence die).prefault asid (va + 65536) n; (r.1, false))
    | none, none => (let r := s.prefault asid (va + 65536) n; (r.1, false))
    | none, some s => s.prefault asid (va + 65536) n

/-- The answer to a request, and none where the manual gives none. -/
def State.serve (s : State) (asid : Nat) (service : BitVec 7) (a : Nat) : State × Option Word :=
  if service = 0 then (s, some 1)
  else if service = 1 then s.postMessage asid a
  else
    match s.fwRead asid a 16 with
    | (s, none) => (s, none)
    | (s, some b) =>
      let va := field b 0 8
      let len := field b 8 8
      if 2 ^ 57 < va + len then (s, some 2)
      else
        let first := va / 65536
        let count := if len = 0 then 0 else (va + len - 1) / 65536 - first + 1
        let (s, ok) := s.prefault asid (first * 65536) count
        (s, some (if ok then 0 else 2))

/-- The address and size of what firmware reads of the program's memory for a request and finds poisoned (R382). -/
def State.syscBad (s : State) (asid : Nat) (service : BitVec 7) (a : Nat) : Option (Nat × Nat) :=
  let message := match Tab.find s.asids asid with
    | none => []
    | some x =>
      match x.msgQueue with
      | none => []
      | some (hdr, k) => match (s.fwRead asid (hdr.toNat + 8) 8).2 with
        | none => [(hdr.toNat + 8, 8)]
        | some c => if x.produced - min (natOf c) x.produced = 2 ^ k then [(hdr.toNat + 8, 8)] else [(hdr.toNat + 8, 8), (a, 64)]
  let reads := if service = 0 then [] else if service = 1 then message else [(a, 16)]
  reads.find? fun (va, n) => s.fwBad asid va n

/-- R282: SYSC_ANSWER: firmware serves the request and the thread goes on behind its `sysc` with the answer, which acquires
at device scope.  Poison in what firmware reads for the request is consumed by the thread's context (R383, log 36). -/
def execSyscAnswer (th : Nat) (s : State) : Out :=
  match Tab.find s.threads th with
  | none => .next s
  | some t =>
    match t.status with
    | .waiting (.sysc service a ds) lits =>
      match s.syscBad (s.ctxOf th).asid service a.toNat with
      | some (va, n) =>
        .next (s.consumePoison (s.block (blkOf th)).ctx (s.threadRec th { accTrap 0x09 va 0x0a 0 n with kind := 0 } t.pc false))
      | none =>
      let (s, r) := s.serve (s.ctxOf th).asid service a.toNat
      let (s, v) : State × Word := match r with
        | some v => (s, v)
        | none => ({ s with ticket := s.ticket + 1 }, (Config.free s.ticket).extractLsb' 0 32)
      let s := s.acquire th .device
      .next (s.wake th (t.putRegs ds [v]) lits)
    | _ => .next s

/-! ## Waits that pre-emption and context stops withdraw (R283, R286) -/

/-- Withdraws the waits of a context: its threads are ready at the instruction, outside any run, and the cores' other requests for
registers are served. -/
def State.withdrawWaits (s : State) (c : Nat) : State :=
  let s := (s.ctxThreads c).foldl (fun s (k, t) =>
    match t.status, t.stall with
    | .waiting w _, _ => if w.withdrawn then (s.leaveGroup k).putThread k (t.withdrawnFrom (some w) s.clock) else s
    | _, some (x, _) => if x.withdrawn then (s.leaveGroup k).putThread k (t.withdrawnFrom none s.clock) else s
    | _, _ => s) s
  let bs := (s.ctx c).blocks
  let s := { s with
    waves := Tab.mapVal s.waves fun w v => if bs.contains (w / 32) then { v with conv := [] } else v
    racqs := Tab.mapVal s.racqs fun _ l => l.filter fun q => !bs.contains (q.wave / 32) }
  (dedup (bs.map fun b => (s.block b).core)).foldl State.racqGrant s

/-- A context stop (R283): no run of the context starts and its waits are withdrawn, those of threads that the debugger has let go too.  One
that is pre-empted or on its way out stays stopped when it is resident again.  `who` is what the debugger is told once the stop is reached:
core, wave, lane and a of the `dbgx`. -/
def State.debugStop (s : State) (c : Nat) (who : Nat × Nat × Nat × Word) : State :=
  let x := s.ctx c
  let fresh := (s.ctxThreads c).any fun (_, t) => t.freed
  if x.state == .discarded || x.held || (x.state == .debugStop && !fresh) then s
  else
    let s := s.updCtx c fun x => { x with stopFor := some who }
    if x.state == .running || x.state == .debugStop then
      let s := { s with threads := Tab.mapVal s.threads fun k t => if x.blocks.contains (blkOf k) then { t with freed := false } else t }
      (s.updCtx c fun x => { x with state := .debugStop }).withdrawWaits c
    else s.updCtx c fun x => { x with held := true }

/-- What the debugger is told of a stop that the host has asked for: the context's first core. -/
def State.hostStop (s : State) (c : Nat) : State :=
  s.debugStop c (match (s.ctx c).blocks with | b :: _ => (s.block b).core | [] => 0, 0, 0, 0)

/-! ## dbgx (R284) -/

/-- R284 code 0x00. -/
def execDbgxQuery (d : Dst) (a : Src) (m : Bool) (s : State) : Out :=
  s.issue (Req.any [fd d 1, fa a 1]) fun k t =>
    s.finishV k t (d.dests t.wb.toNat 1) (some [bool32 (s.debugged k)]) 0 false none (lits1 a) m

/-- R284 code 0x01. -/
def execDbgxNotify (d : Dst) (a : Src) (m : Bool) (s : State) : Out :=
  s.issue (Req.any [fd d 1, fa a 1]) fun k t =>
    let on := s.debugged k
    let s1 := if on then
        s.postEvent 6 (s.ctxOf k).asid (debugPayload (s.coreOf k) (waveOf k) (laneOf k) (a.get32 s k t) 0)
      else s
    s1.finishV k t (d.dests t.wb.toNat 1) (some [bool32 (!on)]) 0 false none (lits1 a) m

/-- R284 code 0x02. -/
def execDbgxStop (d : Dst) (a : Src) (m : Bool) (s : State) : Out :=
  s.issue (Req.any [fd d 1, fa a 1]) fun k t =>
    let on := s.debugged k
    let s1 := s.finishV k t (d.dests t.wb.toNat 1) (some [bool32 (!on)]) 0 false none (lits1 a) m
    if on then s1.debugStop (s.block (blkOf k)).ctx (s.coreOf k, waveOf k, laneOf k, a.get32 s k t) else s1

end Sys2Proof.Machine
end

