-- ==== Sys2Proof/Machine/Tasks.lean ====
section
/-!
DEFINITION. Launches and tasks: kernel headers (R84), launch queues and packets (R164 to R173, R184), placement (R174 to R176),
spawns (R185 to R188), and the tasks' queues (R189 to R191).
-/
namespace Sys2Proof.Machine

/-! ## Kernel headers (Table 4-3) -/

/-- The header that 64 bytes hold, none where it breaks a rule of Table 4-3. -/
def parseHeader (b : List Byte) : Option Header :=
  let flags := field b 6 2
  let base := field b 8 2
  let top := field b 10 2
  let scratch := field b 12 4
  let carry := field b 16 1
  let waves := field b 17 1
  let timeout := field b 18 2
  let roles := field b 32 12
  let ok : Bool := decide (field b 0 4 = 0x314B5950 ∧ field b 4 2 = 1 ∧ flags < 32 ∧ 32 ≤ base ∧ base ≤ 128 ∧ base % 16 = 0) &&
    decide (base ≤ top ∧ (top - base) % 64 = 0 ∧ top ≤ 512 ∧ scratch % 64 = 0 ∧ scratch ≤ 524288 ∧ carry ≤ 16 ∧ carry ≤ base) &&
    decide (1 ≤ waves ∧ waves ≤ 32 ∧ field b 20 4 < 64 ∧ field b 24 4 % 4 = 0 ∧ roles < 2 ^ (3 * waves)) &&
    zeroField b 28 4 && zeroField b 44 20
  if ok then
    some { relaunch := flags % 2 == 1, migratable := flags / 2 % 2 == 1, accord := flags / 4 % 2 == 1, pop := flags / 8 % 2 == 1,
           phased := flags / 16 == 1, base := base, max := top, scratch := scratch, carry := carry, waves := waves,
           timeout := if timeout = 0 then 10000 else timeout, trapEn := BitVec.ofNat 6 (field b 20 4),
           handler := BitVec.ofNat 32 (field b 24 4), roles := BitVec.ofNat 96 roles }
  else none

/-! ## Firmware's accesses under a program's rights -/

/-- The address space of an ASID as firmware uses it on a die. -/
def fwAgent (asid die : Nat) : Agent := { asid := asid, core := 1024 + die, die := die, blk := none, ctx := 0 }

/-- The place of an access that firmware or a port makes for an ASID (R172): a page that is not resident becomes so first, a shared
page is copied first; otherwise the cause of the fault.  A malformed entry leaves its record (R235, R240), and a poisoned one has its die
fenced (R383).  Where the copy finds no frame
(R236), or the record no slot (R239), the access waits: the state says that it is starved, and the event that made the access then has no
effect yet. -/
def State.fwReach (s : State) (asid die va n : Nat) (d : Need) : State × Except (BitVec 8) Nat :=
  let g := fwAgent asid die
  let fail (s : State) (x : Stop) : State × Except (BitVec 8) Nat :=
    match x with
    | .trap i => (s, .error i.cause)
    | .malformed i =>
      match s.tryRec die (mkRecord i.addr 0 asid 0x09 i.kind false i.size 0x3ff 0 0xff 0x02) with
      | some s => (s, .error 0x09)
      | none => ({ s with starved := true }, .error 0x09)
    | .copy va => ({ s.askCopy asid va with starved := true }, .error 0x09)
    | .fence d => (s.fence d, .error 0x09)
    | _ => (s, .error 0x09)
  let go (s : State) (other : State → Stop → State × Except (BitVec 8) Nat) : State × Except (BitVec 8) Nat :=
    match s.locate g va n 1 d true with
    | (s, .ok (.mem pa)) => (s, .ok pa)
    | (s, .error x) => other s x
    | (s, _) => (s, .error 0x09)
  let copied (s : State) (x : Stop) : State × Except (BitVec 8) Nat :=
    match x with
    | .copy _ => match s.copyShared asid va with | some s => go s fail | none => fail s x
    | x => fail s x
  go s fun s x => match x with
    | .absent _ _ _ => match s.makeResident asid va with | some s => go s copied | none => fail s x
    | x => copied s x

/-- Pieces of a range that lie in one 64 KiB page each: address and length. -/
def pagePieces (va n : Nat) : List (Nat × Nat) :=
  (List.range ((va + n + 65535) / 65536 - va / 65536)).map fun i =>
    let a := max va (65536 * (va / 65536 + i))
    (a, min (va + n) (65536 * (va / 65536 + i + 1)) - a)

/-- The places of pieces, in order: every one, or the first fault. -/
def State.fwReachAll (s : State) (asid die : Nat) (d : Need) : List (Nat × Nat) → State × Except (BitVec 8) (List (Nat × Nat))
  | [] => (s, .ok [])
  | (va, n) :: r =>
    match s.fwReach asid die va n d with
    | (s, .error x) => (s, .error x)
    | (s, .ok pa) =>
      match State.fwReachAll s asid die d r with
      | (s, .error x) => (s, .error x)
      | (s, .ok l) => (s, .ok ((pa, n) :: l))

/-- Bytes written at places, in order. -/
def State.writeAll (s : State) : List (Nat × Nat) → List Byte → State
  | [], _ => s
  | (pa, n) :: r, b => ((s.dropEverywhere pa n).writeMem pa (b.take n)).writeAll r (b.drop n)

/-- The completion write of R172: made for the launch's ASID and released at system scope, or a record and event type 1.  The complement
of a rejected packet goes to a misaligned address as it is, byte for byte: the manual names no fault for it (log 69). -/
def State.completionWrite (s : State) (asid die : Nat) (addr value : Pair) (number : BitVec 32) : State :=
  if addr = 0 then s
  else
    match s.fwReachAll asid die Need.store (pagePieces addr.toNat 8) with
    | (s, .ok l) => (s.l1FlushCores asid fun _ => true).writeAll l (bytesOf 8 value)
    | (s, .error cause) =>
      let r := mkRecord addr 0 asid cause 1 false 3 0x3ff 0 0xff number
      (s.pushRec die r).postEvent 1 asid (r ++ bytesOf 4 number)

/-- An event whose accesses lead to `t` waits: nothing has happened but that the state engine is asked for the frames that it needs (R236,
R319). -/
def State.waiting (s t : State) : State := { s with copyReqs := s.copyReqs ++ t.copyReqs.filter fun q => !s.copyReqs.contains q }

/-- The outcome of an event whose accesses lead to `t`: none yet where one of them waits; the module tries the event again. -/
def State.unlessStarved (s t : State) : Out := .next (if t.starved then s.waiting t else t)

/-! ## Launch packets (R168, R170) -/

/-- A packet's launch. -/
def parsePacket (b : List Byte) (number : BitVec 32) (die : Nat) : Launch :=
  { asid := field b 64 2 % 1024, number := number, hdr := BitVec.ofNat 64 (field b 0 8), args := BitVec.ofNat 64 (field b 8 8),
    completion := BitVec.ofNat 64 (field b 16 8), value := BitVec.ofNat 64 (field b 24 8),
    extents := (List.range 6).map fun i => field b (32 + 4 * i) 4, widths := (List.range 6).map fun i => field b (56 + i) 1,
    b := field b 62 1, g := field b 63 1, priority := field b 66 1 % 8, deadline := field b 67 1 % 4, die := die, open_ := 0,
    killed := false, population := none, quiet := false }

/-- Product of numbers. -/
def prod (l : List Nat) : Nat := l.foldl (· * ·) 1

/-- Threads of a block, T (R165). -/
def Launch.threads (l : Launch) : Nat := prod (l.extents.take l.b)
/-- Blocks of a gang, G. -/
def Launch.gangBlocks (l : Launch) : Nat := prod ((l.extents.drop l.b).take (l.g - l.b))
/-- Gangs of the launch. -/
def Launch.gangs (l : Launch) : Nat := prod (l.extents.drop l.g)

/-- A global address (bit 63 and bits [62:57] clear). -/
def isGlobal (a : Nat) : Bool := decide (a < 2 ^ 57)

/-- The header at an address for an ASID's launch: read as a program would, 64 bytes. -/
def State.readHeader (s : State) (asid die addr : Nat) : State × Option Header :=
  if !isGlobal addr || addr % 64 != 0 then (s, none)
  else
    match s.fwReach asid die addr 64 Need.load with
    | (s, .ok pa) =>
      let s := s.l1FlushCores asid fun _ => true
      (s, if s.poisoned pa 64 then none else parseHeader (s.readMem pa 64))
    | (s, .error _) => (s, none)

/-- A packet has version 1 and its reserved bytes and bits are 0 (R170, reason 0x01). -/
def packetForm (b : List Byte) : Bool :=
  decide (field b 68 2 = 1) && zeroField b 70 58 && decide (field b 64 2 < 1024 ∧ field b 66 1 < 8 ∧ field b 67 1 < 4)

/-- The checks of R170 in order: the reason of the first failure, or the header, which is read once the packet's own form is right. -/
def State.checkPacket (s : State) (q : LaunchQ) (b : List Byte) (l : Launch) : State × Except Nat Header :=
  let ok3 : Bool := l.widths.all (fun w => decide (w ≤ 31)) && decide (l.widths.foldl (· + ·) 0 ≤ 64) &&
    (l.extents.zip l.widths).all (fun (e, w) => decide (1 ≤ e ∧ e ≤ 2 ^ w)) && decide (l.b ≤ l.g ∧ l.g ≤ 6)
  let ok6 : Bool := l.completion == 0 || (isGlobal l.completion.toNat && l.completion.toNat % 8 == 0)
  if !packetForm b then (s, .error 1)
  else
    let (s, h) := s.readHeader q.asid q.die l.hdr.toNat
    (s,
      match h with
      | none => .error 2
      | some h =>
        if !ok3 then .error 3
        else if !decide (l.threads ≤ 1024 ∧ (l.threads + 31) / 32 = h.waves ∧ l.gangBlocks ≤ 48) then .error 4
        else if !decide (l.asid = q.asid ∧ l.priority ≤ q.maxPrio) then .error 5
        else if !ok6 then .error 6
        else .ok h)

/-- Queues a task; its number orders the queues (R189).  A task of a launch of which a context was killed is never placed (R279): it
goes at once. -/
def State.addTask (s : State) (t : Task) : State :=
  match Tab.find s.launches t.launch with
  | some l =>
    if l.killed then (s.updAsid l.asid fun a => { a with ctxUsed := a.ctxUsed - t.bytes }).launchDown t.launch 1
    else { s with tasks := Tab.put s.tasks s.ticket { t with queued := s.ticket }, ticket := s.ticket + 1 }
  | none => { s with tasks := Tab.put s.tasks s.ticket { t with queued := s.ticket }, ticket := s.ticket + 1 }

/-- Queues the gangs of a launch in ascending order. -/
def State.addGangs (s : State) (ln : Nat) (l : Launch) (h : Header) : State :=
  (List.range l.gangs).foldl (fun s g =>
    s.addTask { launch := ln, header := h, hdr := l.hdr, kind := .gang g, blocks := l.gangBlocks, pinned := false,
                core := 0, queued := 0, unassigned := true }) s

/-- Accepts the packet in a queue's next slot (R169, R170, R184), none while its rejection's record finds no slot. -/
def State.acceptSlot (s : State) (qk : Nat) (q : LaunchQ) : Option State :=
  let slot := q.next
  let b := Store.reads q.bytes (128 * slot) 128
  let number := match Tab.find s.asids q.asid with | some a => a.launches + 1 | none => 1
  let l := parsePacket b (BitVec.ofNat 32 number) q.die
  let pop := s.pops.find? fun (_, p) => p.asid == q.asid && p.packets.contains b
  let l := { l with population := pop.map Prod.fst }
  let q2 := { q with bytes := Store.clear q.bytes (128 * slot) 128, written := Tab.del q.written slot,
                     next := (slot + 1) % 512, accepted := q.accepted + 1 }
  let take (s : State) : State :=
    { s.updAsid q.asid (fun a => { a with launches := number }) with queues := Tab.put s.queues qk q2 }
  match s.checkPacket q b l with
  | (s, .ok h) =>
    let ln := s.ticket
    let s := take { s with ticket := ln + 1 }
    let s := { s with launches := Tab.put s.launches ln { l with open_ := l.gangs } }
    some (s.addGangs ln l h)
  | (s, .error reason) =>
    let r := mkRecord (q.va + BitVec.ofNat 64 (128 * slot)) 0 q.asid 0 6 false 7 0x3ff 0 0xff (BitVec.ofNat 32 reason)
    match s.tryRec q.die r with
    | none => none
    | some s =>
      let s := (take s).postEvent 7 q.asid (r ++ natBytes 4 number)
      some (if reason = 6 then s else s.completionWrite q.asid q.die l.completion (~~~l.value) l.number)

/-- Accepts complete slots in circular order, up to one whose completion write waits for a frame (R236). -/
def State.acceptAll (s : State) (qk : Nat) : Nat → State
  | 0 => s
  | fuel + 1 =>
    match Tab.find s.queues qk with
    | none => s
    | some q =>
      if q.collective || q.closed || !q.full q.next then s
      else
        match s.acceptSlot qk q with
        | none => s
        | some t => if t.starved then s.waiting t else t.acceptAll qk fuel

/-- R169: LAUNCH_QUEUE_WRITE: a write into a window by the host, by firmware's repost or by a peer, or no byte at all: the
slots that are complete are accepted. -/
def execLaunchQueueWrite (q off : Nat) (bytes : List (BitVec 8)) (s : State) : Out :=
  match Tab.find s.queues q with
  | none => .next s
  | some x =>
    let cells := (bytes.zipIdx).filterMap fun (b, i) => if off + i < 65536 then some (off + i, b) else none
    .next (({ s with queues := Tab.put s.queues q (x.write cells none) }).acceptAll q 512)

/-! ## Placement (R174, R175, R386) -/

/-- A block has ended: its threads have exited and its engines are idle (R130, R204). -/
def State.blockDone (s : State) (b : Nat) : Bool :=
  ((s.blockThreads b).all fun (_, t) => t.status == .exited && t.pend.isEmpty) && (s.block b).copyQ.isEmpty && (s.block b).matQ.isEmpty &&
    !s.ringQ.any fun r => blkOf r.thread == b

/-- Wave slots of a core that the waves of tasks hold: a test kernel makes room for a task at once (R393). -/
def State.usedSlots (s : State) (core : Nat) : List Nat :=
  s.waves.filterMap fun (w, v) =>
    let b := s.block (w / 32)
    if b.core == core && (s.ctx b.ctx).state != .out && (s.ctx b.ctx).asid != fwAsid && !s.blockDone (w / 32) then some v.slot else none

/-- Free wave slots of a core, lowest first, those of quarantined partitions left out. -/
def State.freeSlots (s : State) (core : Nat) : List Nat :=
  let used := s.usedSlots core
  let bad := Tab.getD s.power.quarantine core 0
  (List.range 64).filter fun n => !used.contains n && !bad.getLsbD (n % 4)

/-- Scratchpad bytes of a core that contexts hold. -/
def State.usedScratch (s : State) (core : Nat) : Nat :=
  (s.blocks.filter fun (_, b) => b.core == core && (s.ctx b.ctx).state != .out && (s.ctx b.ctx).asid != fwAsid).foldl
    (fun n (_, b) => n + (s.ctx b.ctx).header.scratch) 0

/-- A core can take a block of a number of waves. -/
def State.coreFits (s : State) (core waves : Nat) (h : Header) : Bool :=
  decide (core < 768) && !s.fenced.contains (dieOf core) && decide (waves ≤ (s.freeSlots core).length) &&
    decide (s.usedScratch core + h.scratch ≤ 524288)

/-- A core could take a block once it is free. -/
def State.coreCould (s : State) (core waves : Nat) : Bool :=
  decide (core < 768) && !s.fenced.contains (dieOf core) &&
    decide (waves ≤ ((List.range 64).filter fun n => !(Tab.getD s.power.quarantine core 0).getLsbD (n % 4)).length)

/-- A cluster has the cores for a gang once they are free. -/
def State.clusterCould (s : State) (cluster waves blocks : Nat) : Bool :=
  decide (blocks ≤ (((List.range 48).map fun i => 48 * cluster + i).filter fun c => s.coreCould c waves).length)

/-- Cores on which a task's gang can be placed whole. -/
def State.coresFit (s : State) (t : Task) (cores : List Nat) : Bool :=
  decide (cores.length = t.blocks) && decide ((dedup cores).length = cores.length) &&
    (match cores with | c :: r => r.all fun d => clusterOf d == clusterOf c | [] => false) &&
    cores.all fun c => s.coreFits c t.waves t.header

/-- The lowest cores of a cluster that fit a task. -/
def State.fitIn (s : State) (t : Task) (cluster : Nat) : Option (List Nat) :=
  let l := ((List.range 48).map fun i => 48 * cluster + i).filter fun c => s.coreFits c t.waves t.header
  if t.blocks ≤ l.length then some (l.take t.blocks) else none

/-- Digits of a number in mixed radix, lowest first. -/
def digits : Nat → List Nat → List Nat
  | _, [] => []
  | n, e :: r => n % e :: digits (n / e) r

/-- The identifier of field values (R164). -/
def packFields : List Nat → List Nat → Nat
  | w :: ws, v :: vs => v + 2 ^ w * packFields ws vs
  | _, _ => 0

/-- How a block starts: its gang index, identifier, threads with their registers, PC and waves. -/
structure Seed where
  gidx : Nat
  workId : Nat
  threads : List (Nat × Store 32)
  pc : Pair
  waves : Nat
  deriving DecidableEq, Repr

/-- A block of a launched gang (R165 to R167). -/
def Launch.seed (l : Launch) (hdr : Pair) (waves g gidx : Nat) : Seed :=
  let vals := List.replicate l.b 0 ++ digits gidx ((l.extents.drop l.b).take (l.g - l.b)) ++ digits g (l.extents.drop l.g)
  { gidx := gidx, workId := packFields l.widths vals, threads := (List.range l.threads).map fun i => (i, []), pc := hdr + 64,
    waves := waves }

/-- A block that resumes from its phase record (R183). -/
def recordSeed (r : List Byte) : Seed :=
  let c := field r 0x22 1
  let present := (List.range 1024).filter fun i => field r (0x40 + i / 8) 1 / 2 ^ (i % 8) % 2 == 1
  { gidx := if field r 0x20 2 = 0xffff then 0 else field r 0x20 2, workId := field r 8 8,
    threads := present.map fun i =>
      (i, (List.range c).foldl (fun m j =>
        Store.write m j (BitVec.ofNat 32 (field r (0xc0 + 128 * (i / 32 * c + j) + 4 * (i % 32)) 4))) []),
    pc := BitVec.ofNat 64 (field r 0x10 8), waves := field r 0x23 1 }

/-- A spawned block (R187). -/
def SpawnArgs.seed (a : SpawnArgs) (t : Nat) : Seed :=
  { gidx := 0, workId := a.workId.toNat, threads := (List.range (min t (32 * a.waves))).map fun i => (i, Store.writes [] 0 a.args),
    pc := a.hdr + 64, waves := a.waves }

/-- A block of a gang that completed in an earlier phase: it has its scratchpad until every block has completed (R163), and no thread. -/
def Seed.gone (gidx : Nat) : Seed := { gidx := gidx, workId := 0, threads := [], pc := 0, waves := 0 }

/-- How the blocks of a task start. -/
def Task.seeds (t : Task) (l : Launch) : List Seed :=
  match t.kind with
  | .gang g => (List.range t.blocks).map fun i => l.seed t.hdr t.header.waves g i
  | .phase rs =>
    let xs := rs.map recordSeed
    (List.range t.blocks).map fun g => (xs.find? fun x => x.gidx == g).getD (Seed.gone g)
  | .spawn a => [a.seed l.threads]

/-- A thread at the start of a launched block, a resumed phase or a spawned block (R175). -/
def newThread (pc : Pair) (regs : Store 32) (workId : Pair) (now : Nat) : Thread :=
  { pc := pc, regs := regs, bad := [], wb := 0, workId := workId, status := .ready, readyAt := now, since := now, stall := none,
    inHandler := false, trap := TrapRegs.zero, due := [], pend := [], runV := [], run := 0, held := [], toks := [], arrivals := [], again := [],
    binding := none, cut := false, posted := [], freed := false, yielded := false, order := 0 }

/-- A wave at such a start (R175, R176, R38). -/
def newWave (h : Header) (w slot : Nat) : Wave :=
  { roles := h.roles.extractLsb' (3 * w) 3, status := 0, kregs := [], kbad := [], alloc := h.base, slot := slot, reported := [], conv := [] }

/-- A block at such a start. -/
def newBlock (c : Nat) (x : Seed) (core : Nat) : Block :=
  { ctx := c, gidx := x.gidx, core := core, workId := BitVec.ofNat 64 x.workId, count := x.threads.length, spad := [], bars := [],
    copyN := 0, matN := 0, copyDone := [], matDone := 0, copyQ := [], matQ := [], checksum := 0, waiters := [], buffer := [],
    bufBad := false, committed := x.threads.isEmpty, firstRead := [], spawns := [], saved := false }

/-- A task takes wave slots of a core: a test kernel that lies in one of them is pre-empted at once (R393). -/
def State.takeSlots (s : State) (core : Nat) (slots : List Nat) : State := s.stopTests core slots.contains

/-- Puts a block on a core: its waves take the lowest free slots in wave order. -/
def State.placeBlock (s : State) (l : Launch) (h : Header) (c b : Nat) (x : Seed) (core : Nat) : State :=
  let slots := s.freeSlots core
  let s := s.takeSlots core (slots.take x.waves)
  let s := { s with blocks := Tab.put s.blocks b (newBlock c x core) }
  let s := (List.range x.waves).foldl (fun s w =>
    { s with waves := Tab.put s.waves (32 * b + w) (newWave h w (slots.getD w 0)) }) s
  x.threads.foldl (fun s (i, regs) =>
    let id := x.workId + packFields l.widths (digits i (l.extents.take l.b))
    s.putThread (1024 * b + i) (newThread x.pc regs (BitVec.ofNat 64 id) s.clock)) s

/-- Address of a context's image (R285). -/
def imageVa (c : Nat) : Nat := 2 ^ 56 + c % 2 ^ 28 * 2 ^ 28

/-- A task's context pool can take its context's image. -/
def State.poolFits (s : State) (asid : Nat) (t : Task) : Bool :=
  match Tab.find s.asids asid with
  | some a => decide (a.ctxUsed + t.image ≤ a.ctxPool)
  | none => false

/-- Places a task's gang on cores (R174, R175): its threads have acquired what the manual says before their first instruction
(R173, R182, R188).  Blocks of a gang that have ended for good start without a thread. -/
def State.placeOn (s : State) (t : Task) (l : Launch) (cores : List Nat) (poisoned : Nat) (ended : List Nat) : State :=
  let c := s.ticket
  let core := cores.getD 0 0
  let x : Ctx :=
    { asid := l.asid, launch := t.launch, header := t.header, hdrAddr := t.hdr, die := dieOf core, cluster := clusterOf core,
      blocks := (List.range t.blocks).map fun g => c + 1 + g, gbars := [], image := BitVec.ofNat 64 (imageVa c), imageBytes := [],
      state := .running, origin := t, poisoned := poisoned, kept := [], noticed := false, held := false, stopFor := none, ran := dedup cores }
  let s := { s with ctxs := Tab.put s.ctxs c x, ticket := c + 1 + t.blocks }
  let s := s.updAsid l.asid fun a => { a with ctxUsed := a.ctxUsed + t.image }
  let s := cores.foldl (fun s core => s.l1Invalidate core l.asid) s
  (((t.seeds l).zip cores).zipIdx).foldl (fun s ((x, core), i) =>
    s.placeBlock l t.header c (c + 1 + i) (if ended.contains i then Seed.gone i else x) core) s

/-- Places a queued task.  The manual does not say what becomes of a gang for whose image the context pool of its ASID has no room: it stays
queued until it has (log 86). -/
def State.placeTask (s : State) (k : Nat) (t : Task) (cores : List Nat) : State :=
  match Tab.find s.launches t.launch with
  | none => s
  | some l => if s.poolFits l.asid t then ({ s with tasks := Tab.del s.tasks k }).placeOn t l cores 0 [] else s

/-- A task stands before another (R189): priority class, deadline class, order of queueing. -/
def State.before (s : State) (a b : Task) : Bool :=
  let p (t : Task) : Nat × Nat := match Tab.find s.launches t.launch with | some l => (l.priority, l.deadline) | none => (0, 3)
  let (pa, da) := p a
  let (pb, db) := p b
  decide (pb < pa) || (pa == pb && (decide (da < db) || (da == db && decide (a.queued < b.queued))))

/-- The first of some tasks. -/
def State.firstTask (s : State) (l : List (Nat × Task)) : Option (Nat × Task) :=
  match l with
  | [] => none
  | x :: r => some (r.foldl (fun y z => if s.before z.2 y.2 then z else y) x)

/-- The tasks of a core's ready queue. -/
def State.readyQueue (s : State) (core : Nat) : List (Nat × Task) :=
  s.tasks.filter fun (_, t) => t.blocks == 1 && !t.unassigned && t.core == core

/-- The tasks of a cluster's gang queue. -/
def State.gangQueue (s : State) (cluster : Nat) : List (Nat × Task) :=
  s.tasks.filter fun (_, t) => decide (1 < t.blocks) && !t.unassigned && clusterOf t.core == cluster

/-- A gang's turn: of an unassigned gang, that no earlier gang of its launch is unassigned; of a queued gang, that it is the
first of its cluster's queue. -/
def State.gangTurn (s : State) (k : Nat) (t : Task) : Bool :=
  if t.unassigned then !s.tasks.any fun (j, u) => u.unassigned && u.launch == t.launch && decide (j < k)
  else t.blocks != 1 && (s.firstTask (s.gangQueue (clusterOf t.core))).map Prod.fst == some k

/-- R174: GANG_PLACEMENT: a gang is placed on the cores named, or, where no cluster meets the condition, waits in the queue
of the first core's cluster; a gang of one block waits in the ready queue of that core (log 49). -/
def execGangPlacement (task : Nat) (cores : List Nat) (s : State) : Out :=
  match Tab.find s.tasks task with
  | none => .next s
  | some t =>
    if !s.gangTurn task t then .next s
    else if s.coresFit t cores && (t.unassigned || cores.all fun c => clusterOf c == clusterOf t.core) then
      .next (s.placeTask task t cores)
    else if t.unassigned && (List.range 16).all (fun c => (s.fitIn t c).isNone) then
      match cores with
      | c :: _ =>
        if s.coreCould c t.waves && s.clusterCould (clusterOf c) t.waves t.blocks then
          let home := if t.blocks = 1 then c else 48 * clusterOf c
          .next { s with tasks := Tab.put s.tasks task { t with core := home, unassigned := false } }
        else .next s
      | [] => .next s
    else .next s

/-- R189: TASK_PLACEMENT: a core places the first task of its ready queue once it fits. -/
def execTaskPlacement (core : Nat) (s : State) : Out :=
  match s.firstTask (s.readyQueue core) with
  | none => .next s
  | some (k, t) => if s.coresFit t [core] then .next (s.placeTask k t [core]) else .next s

/-! ## Balancing (R190, R191) -/

/-- Neighbours of a core in its cluster's mesh of 6 rows by 8 columns, ascending. -/
def meshNeighbours (c : Nat) : List Nat :=
  let r := c % 48 / 8
  let k := c % 8
  (if 0 < r then [c - 8] else []) ++ (if 0 < k then [c - 1] else []) ++ (if k < 7 then [c + 1] else []) ++
    (if r < 5 then [c + 8] else [])

/-- Unpinned tasks, the most recently queued first. -/
def newestFirst (l : List (Nat × Task)) : List Nat :=
  let u := l.filter fun (_, t) => !t.pinned
  (u.map fun (k, t) => (t.queued, k)).foldl (fun acc x =>
    (acc.filter fun y => decide (x.1 < y.1)) ++ [x] ++ acc.filter fun y => !decide (x.1 < y.1)) [] |>.map Prod.snd

/-- What a core gives: (task, to) for its links in ascending order of the neighbour's number. -/
def gives (occ : Nat → Nat) (a : Nat) : List Nat → List Nat → List (Nat × Nat)
  | [], _ => []
  | b :: bs, ts =>
    let n := (occ a - occ b) / 4
    (ts.take n).map (fun t => (t, b)) ++ gives occ a bs (ts.drop n)

/-- Levelled stealing is in force: during start-up, recovery and an in-field test (R191). -/
def State.levelled (s : State) : Bool := s.stealing || !s.tests.isEmpty

/-- R190: NEIGHBOUR_BALANCE: one exchange of a cluster, every occupancy taken at the same instant. -/
def execNeighbourBalance (cluster : Nat) (s : State) : Out :=
  if s.levelled then .next s
  else
    let occ (c : Nat) : Nat := (s.readyQueue c).length
    let moves := ((List.range 48).map fun i => 48 * cluster + i).flatMap fun a =>
      gives occ a (meshNeighbours a) (newestFirst (s.readyQueue a))
    .next (moves.foldl (fun s (k, b) => { s with tasks := Tab.upd s.tasks k fun t => { t with core := b } }) s)

/-- The earliest-queued task that a test allows in the most occupied queue of some cores. -/
def State.stealFrom (s : State) (cores : List Nat) (p : Task → Bool) : Option Nat :=
  let able := cores.filter fun c => (s.readyQueue c).any fun (_, t) => !t.pinned && p t
  match able with
  | [] => none
  | c :: r =>
    let best := r.foldl (fun b d => if (s.readyQueue b).length < (s.readyQueue d).length then d else b) c
    let ts := (s.readyQueue best).filter fun (_, t) => !t.pinned && p t
    match ts with
    | [] => none
    | x :: r => some (r.foldl (fun y z => if z.2.queued < y.2.queued then z else y) x).1

/-- R191: TASK_STEAL: under levelled stealing a core with an empty ready queue and a free wave slot takes a task of its
cluster, else of its die, else a migratable one of another die. -/
def execTaskSteal (core : Nat) (s : State) : Out :=
  if !s.levelled || decide (768 ≤ core) || !(s.readyQueue core).isEmpty || (s.freeSlots core).isEmpty || s.fenced.contains (dieOf core) then .next s
  else
    let all := List.range 768
    let near := s.stealFrom (all.filter fun c => clusterOf c == clusterOf core) fun _ => true
    let die := s.stealFrom (all.filter fun c => dieOf c == dieOf core) fun _ => true
    let far := s.stealFrom all fun t => t.header.migratable
    match near.or (die.or far) with
    | none => .next s
    | some k => .next { s with tasks := Tab.upd s.tasks k fun t => { t with core := core } }

/-! ## spawn (R185 to R188) -/

/-- The result code of a `spawn` (Table 8-3). -/
def State.spawnCode (s : State) (l : Launch) (h : Option Header) (low waves work : Nat) : Nat :=
  let fields := (List.range 6).map fun i => idField l.widths work i
  let pool := match Tab.find s.asids l.asid with | some a => decide (a.ctxUsed + 64 ≤ a.ctxPool) | none => false
  match h with
  | none => 1
  | some h =>
    if low ≠ 0 then 1
    else if h.waves < waves ∨ (l.threads + 31) / 32 < waves then 2
    else if (fields.zipIdx).any (fun (x, i) => (decide (i < l.b) && x != 0) || decide (l.extents.getD i 1 ≤ x)) then 3
    else if !pool then 4
    else 0

/-- A spawned task is queued on its core (R189). -/
def State.queueSpawn (s : State) (ln : Nat) (a : SpawnArgs) : State :=
  let s := { s with launches := Tab.upd s.launches ln fun l => { l with open_ := l.open_ + 1 } }
  s.addTask { launch := ln, header := a.header, hdr := a.hdr, kind := .spawn a, blocks := 1, pinned := a.pinned, core := a.core,
              queued := 0, unassigned := false }

/-- R185, R186: `spawn`. -/
def execSpawn (d : Dst) (a b : Src) (core : Bool) (m : Bool) (s : State) : Out :=
  s.issue (Req.release [fd d 1, fa a 4, fb b 4]) fun k t =>
    let x := quadVal (a.get128 t)
    let w0 := (x.extractLsb' 0 64).toNat
    let addr : Pair := BitVec.ofNat 64 (w0 / 64 * 64)
    let work := x.extractLsb' 64 64
    let waves := w0 % 32 + 1
    if 2 ^ 63 ≤ w0 then s.trapAt k t (accTrap 0x07 (w0 / 64 * 64) 0 0 64)
    else
      let c := s.ctxOf k
      (s.release k .device).loadAccess k t addr 64 fun s bytes =>
        match Tab.find s.launches c.launch with
        | none => s.finishV k t (d.dests t.wb.toNat 1) (some [4]) 0 false none (lits2 a b) m
        | some l =>
          let h := parseHeader bytes
          let code := s.spawnCode l h (w0 / 32 % 2) waves work.toNat
          let args : SpawnArgs :=
            { hdr := addr, header := h.getD Header.absent, waves := waves,
              workId := BitVec.ofNat 64 (work.toNat % 2 ^ (l.widths.foldl (· + ·) 0)),
              args := b.get128 t, pinned := core, core := s.coreOf k }
          let s := if code ≠ 0 then s
            else
              let s := s.updAsid l.asid fun a => { a with ctxUsed := a.ctxUsed + 64 }
              if c.header.relaunch then s.updBlock (blkOf k) fun y => { y with spawns := y.spawns ++ [args] }
              else s.queueSpawn c.launch args
          s.finishV k t (d.dests t.wb.toNat 1) (some [BitVec.ofNat 32 code]) 0 false none (lits2 a b) m

end Sys2Proof.Machine
end

