-- ==== Sys2Proof/Machine/Population.lean ====
section
/-!
DEFINITION. Populations as threads meet them: the entry (R294 to R297), bindings (R298 to R301) and the population
instructions (R291 to R293, R302 to R308, R312, R313).
-/
namespace Sys2Proof.Machine

/-! ## Entries -/

/-- Smallest and largest Q31.32 value. -/
def q3132 (x : Int) : Int := sat x (-(2 ^ 63)) (2 ^ 63 - 1)

/-- The log-weight of a particle and SATW (R297). -/
def Particle.lw (x : Particle) : Int × Bool :=
  if x.dead then (-(2 ^ 63), false)
  else if x.pinf then (2 ^ 63 - 1, true)
  else (q3132 x.l, decide (q3132 x.l ≠ x.l))

/-- State code (Table 17-2). -/
def PopState.code : PopState → Nat
  | .free => 0
  | .filling => 1
  | .running => 2
  | .paused => 3
  | .draining => 4

/-- Status word (Table 17-8). -/
def Population.word (p : Population) : Word :=
  let b (c : Bool) (n : Nat) : Nat := if c then 2 ^ n else 0
  BitVec.ofNat 32 (p.state.code + b p.zsat 3 + b p.cutPolicy 4 + b p.essfail 5 + b p.lastrs 6 + b p.extinct 7 + b p.test 8 +
    b p.cutrun 9 + b p.recomp 10 + b p.demoted 11)

/-- This module's place in a member list, none where it is no member.  While firmware has given the module no number, a list of one member is
taken to name this module: no rule says what such a list names (log 86). -/
def State.memberIndex (s : State) (p : Population) : Option Nat :=
  if p.members.length = 1 && s.module.isNone then some 0
  else (p.members.zipIdx).findSome? fun (m, i) => if some m.1 = s.module then some i else none

/-- Global slots of a member: first and one beyond the last. -/
def Population.range (p : Population) (i : Nat) : Nat × Nat :=
  ((p.members.map Prod.snd).getD i 0, (p.members.map Prod.snd).getD (i + 1) p.n)

/-- A slot is this module's. -/
def State.ownsSlot (s : State) (p : Population) (slot : Nat) : Bool :=
  match s.memberIndex p with
  | some i => decide ((p.range i).1 ≤ slot ∧ slot < (p.range i).2)
  | none => false

/-- Changes a population. -/
def State.updPop (s : State) (h : Nat) (f : Population → Population) : State := { s with pops := Tab.upd s.pops h f }

/-- Changes a particle. -/
def State.updPart (s : State) (h slot : Nat) (f : Particle → Particle) : State :=
  s.updPop h fun p => { p with parts := Tab.upd p.parts slot f }

/-! ## Effects at the population unit -/

/-- The trap of the population instructions (R299). -/
def popTrap (reason handle slot : Nat) : TrapInfo :=
  { cause := 0x10, addr := BitVec.ofNat 64 slot, detail := BitVec.ofNat 32 (reason + 256 * handle), kind := 0, size := 0 }

/-- An increment on a particle (R302). -/
def Particle.add (x : Particle) (w : Word) : Particle :=
  if x.dead then x
  else
    match fp32 w with
    | .nan _ => { x with dead := true }
    | .inf true => { x with dead := true }
    | .inf false => { x with pinf := true }
    | v => { x with l := x.l + quantise v (-32) }

/-- `wadd` by a thread: after its own arrival the increment is held for the next iteration (R307). -/
def State.applyWadd (s : State) (k h slot : Nat) (w : Word) : State :=
  s.updPop h fun p =>
    if p.state = .draining then p
    else if p.arrivedBy.contains k then { p with held := p.held ++ [(slot, w)] }
    else { p with parts := Tab.upd p.parts slot fun x => x.add w }

/-- The episode's arrivals are complete on this module (R307). -/
def Population.complete (p : Population) : Bool := p.parts.all fun (_, x) => decide (p.a ≤ x.arrivals)

/-- Log-weights of this module's particles, none for a dead one. -/
def Population.weights (p : Population) : List (Nat × Option Int) := p.parts.map fun (i, x) => (i, if x.dead then none else some x.lw.1)

/-- The arrivals of every member are complete. -/
def Population.allHere (p : Population) : Bool := p.complete && (decide (p.members.length = 1) || p.peersDone)

/-- The moment at which the last arrival counts (R307): the log-weights and, where the population runs, the pending draw are those of the
resample.  Of a wider population it is the last of this module's own arrivals and of the news that the other members' are complete (log 76). -/
def Population.settle (p : Population) : Population :=
  if p.snap.isNone && p.allHere then
    { p with snap := some { weights := p.weights, started := p.state == .running, draw := p.draw, redrawn := false } }
  else p

/-- One arrival of a particle by a thread; `mode` is that of a `parv` (R307). -/
def State.arrive (s : State) (h slot : Nat) (k : Option Nat) (mode : Option Nat) : State :=
  s.updPop h fun p => Population.settle { p with
    parts := Tab.upd p.parts slot fun x => { x with arrivals := x.arrivals + 1 }
    arrivedBy := match k with | some k => p.arrivedBy ++ [k] | none => p.arrivedBy
    mode := match mode, p.mode with | some a, some b => some (min a b) | some a, none => some a | none, m => m }

/-- A test draw is set or cleared (R292, R306); where a resample has started it concerns the next one. -/
def Population.setDraw (p : Population) (u : Option Word) : Population :=
  { p with draw := u, snap := p.snap.map fun x => { x with redrawn := x.started || x.redrawn } }

/-- A code of `pctl` that the home module applies (R306). -/
def Population.control (p : Population) (code : Nat) (a : Word) : Population :=
  if p.state = .draining then p
  else if code = 2 then { p with theta := a.extractLsb' 0 16 }
  else if code = 4 then p.setDraw (some a)
  else if code = 5 then p.setDraw none
  else p

/-- Arrivals of a particle in the episode. -/
def Population.arrivals (p : Population) (slot : Nat) : Nat :=
  match Tab.find p.parts slot with | some x => x.arrivals | none => 0

/-- A `pctl` code at work: a population that is draining takes none (R306). -/
def State.applyPctl (s : State) (k h slot code : Nat) (a : Word) : State :=
  match Tab.find s.pops h with
  | none => s
  | some p =>
    let home := s.memberIndex p == some 0
    let forward : State := match p.members with
      | (m, _) :: _ => { s with outbox := .control m h code a :: s.outbox }
      | [] => s
    if p.state = .draining then s
    else if code = 0 then s.arrive h slot (some k) none
    else if code = 1 then s.updPart h slot fun x => { x with dead := true }
    else if !home then forward
    else s.updPop h fun p => p.control code a

/-! ## Issue of the population instructions -/

/-- A thread's bound population and slot. -/
def State.bound (s : State) (t : Thread) : Option (Nat × Nat × Population) :=
  match t.binding with
  | none => none
  | some (h, slot) => (Tab.find s.pops h).map fun p => (h, slot, p)

/-- A class V instruction whose fault is found when it is applied (R411): its destinations keep their values. -/
def State.lateFault (s : State) (k : Nat) (t : Thread) (ds : List RegId) (i : TrapInfo) (lits : Nat) (m : Bool) : State :=
  s.finishV k t ds (some []) 0 false (some i) lits m

/-- A fault of a population instruction: found at issue, or once it is applied (R388, R411). -/
inductive PopFault where
  | now (i : TrapInfo)
  | late (i : TrapInfo)

/-- A class V population instruction of a bound thread: unbound it traps at issue, after the trap of an earlier instruction of its own that is
still to come (R411), and a cut particle's thread loses its binding with reason 0x06 (R299, R317). -/
def popOp (flds : List Fld) (d : Dst) (w lits : Nat) (m : Bool)
    (go : State → Nat → Thread → Nat → Nat → Population → Except PopFault (State × List Word)) (s : State) : Out :=
  s.issue (Req.any (fd d w :: flds)) fun k t =>
    let ds := d.dests t.wb.toNat w
    match s.bound t with
    | none => if t.faulty then s.stallAt k t .results else s.trapAt k t (popTrap 0x04 0xfff 0)
    | some (h, slot, p) =>
      if t.cut then s.lateFault k { t with binding := none, cut := false } ds (popTrap 0x06 h slot) lits m
      else
        match go s k t h slot p with
        | .error (.now i) => s.trapAt k t i
        | .error (.late i) => s.lateFault k t ds i lits m
        | .ok (s, vs) => s.finishV k t ds (some vs) 0 false none lits m

/-- R301: `pbind`.  The detail's 12-bit field names a handle of 4,096 or more as 0xFFF: the manual gives it no room (log 86). -/
def execPbind (a b : Src) (m : Bool) (s : State) : Out :=
  s.issue (Req.any [fa a 1, fb b 1]) fun k t =>
    let h := (a.get32 s k t).toNat
    let slot := (b.get32 s k t).toNat
    let lits := lits2 a b
    let old := match t.binding with | some (g, x) => popTrap 0x06 g x | none => popTrap 0x04 0xfff 0
    if t.cut then s.lateFault k { t with binding := none, cut := false } [] old lits m
    else if h = 0xffffffff then s.finishV k { t with binding := none } [] (some []) 0 false none lits m
    else
      let bad (r x : Nat) : State := s.lateFault k t [] (popTrap r (min h 0xfff) x) lits m
      match (if h < 4096 then Tab.find s.pops h else none) with
      | none => bad 0x01 0
      | some p =>
        if p.state = .free ∨ p.asid ≠ (s.ctxOf k).asid then bad 0x01 0
        else if p.state ≠ .running ∧ p.state ≠ .paused then bad 0x02 0
        else if p.n ≤ slot || !s.ownsSlot p slot then bad 0x03 slot
        else s.finishV k { t with binding := some (h, slot) } [] (some []) 0 false none lits m

/-- An effect on a population, or its buffered form in a RELAUNCH phase (R388). -/
def State.popEffect (s : State) (k : Nat) (e : BufEntry) (now : State → State) : Except PopFault State :=
  if (s.ctxOf k).header.relaunch then
    match s.buffer (blkOf k) [e] with
    | some s => .ok s
    | none => .error (.now (poolTrap 0 Need.store 4))
  else .ok (now s)

/-- R302: `wadd`. -/
def execWadd (a : Src) (m : Bool) (s : State) : Out :=
  popOp [fa a 1] .z 1 (lits1 a) m (fun s k t h slot _ =>
    let w := a.get32 s k t
    (s.popEffect k (.wadd k h slot w) fun s => s.applyWadd k h slot w).map fun s => (s, [])) s

/-- Value of `wrd` (R303). -/
def wrdVal (fp : Bool) (x : Particle) : List Word :=
  if fp then [if x.dead then 0xff800000 else BitVec.ofNat 32 (intToFp32 x.lw.1 (-32)).bits]
  else pairWords (BitVec.ofInt 64 x.lw.1)

/-- The bound particle. -/
def Population.part (p : Population) (slot : Nat) : Particle :=
  match Tab.find p.parts slot with
  | some x => x
  | none => { l := 0, pinf := false, dead := false, cut := false, parent := slot, generation := 0, root := [], arrivals := 0 }

/-- R303: `wrd`: of the increments that the thread has applied: one that is held for the next iteration, and one that a RELAUNCH phase has
buffered, are not applied yet (log 86). -/
def execWrd (d : Dst) (fp : Bool) (m : Bool) (s : State) : Out :=
  popOp [] d (if fp then 1 else 2) 0 m (fun s _ _ _ slot p => .ok (s, wrdVal fp (p.part slot))) s

/-- R304: `ppar`. -/
def execPpar (d : Dst) (gen : Bool) (m : Bool) (s : State) : Out :=
  popOp [] d 1 0 m (fun s _ _ _ slot p =>
    .ok (s, [if gen then (p.part slot).generation else BitVec.ofNat 32 (p.part slot).parent])) s

/-- Registers of a `pst` code (Table 17-6). -/
def pstWidth : PstC → Nat
  | .z | .stateVa | .index | .seed | .s | .lmax => 2
  | _ => 1

/-- Value of a `pst` code. -/
def pstVal (c : PstC) (h slot : Nat) (p : Population) : Pair :=
  let x := p.part slot
  match c with
  | .status => p.word.zeroExtend 64
  | .n => BitVec.ofNat 64 p.n
  | .z => p.z
  | .stateVa => BitVec.ofNat 64 (p.pageVa slot 0)
  | .index => p.index
  | .seed => p.seed
  | .binding => BitVec.ofNat 64 (slot + 65536 * h)
  | .flags => BitVec.ofNat 64 ((if x.dead then 1 else 0) + (if x.lw.2 then 2 else 0) + (if x.cut then 4 else 0))
  | .s => p.lastS
  | .lmax => p.lastLmax

/-- R305: `pst`; code 0x06 needs no binding. -/
def execPst (d : Dst) (code : PstC) (m : Bool) (s : State) : Out :=
  let unbound := match s.runner with | some t => t.binding.isNone | none => false
  if code == .binding && unbound then
    s.issue (Req.any [fd d 1]) fun k t => s.finishV k t (d.dests t.wb.toNat 1) (some [0xffffffff]) 0 false none 0 m
  else
    popOp [] d (pstWidth code) 0 m (fun s _ _ h slot p => .ok (s, valWords (pstWidth code) (pstVal code h slot p))) s

/-- A `pctl` of a code (R306).  The arrival of a RELAUNCH phase counts as the phase commits, and is held against A there (R308, R388). -/
def pctlWith (d : Dst) (flds : List Fld) (code : Nat) (value : State → Nat → Thread → Word) (lits : Nat) (m : Bool) (s : State) :
    Out :=
  popOp flds d 1 lits m (fun s k t h slot p =>
    let a := value s k t
    if p.state = .draining then .ok (s, [0])
    else if code = 0 ∧ p.a ≤ p.arrivals slot ∧ !(s.ctxOf k).header.relaunch then .error (.late (popTrap 0x05 h slot))
    else if code = 2 ∧ a.extractLsb' 16 16 ≠ 0 then .error (.late (popTrap 0x07 h 0))
    else (s.popEffect k (.pctl k h slot code a t.pc t.order) fun s => s.applyPctl k h slot code a).map fun s => (s, [0])) s

/-- R306 code 0x00. -/
def execPctlItend (d : Dst) (m : Bool) (s : State) : Out := pctlWith d [] 0 (fun _ _ _ => 0) 0 m s
/-- R306 code 0x01. -/
def execPctlKill (d : Dst) (m : Bool) (s : State) : Out := pctlWith d [] 1 (fun _ _ _ => 0) 0 m s
/-- R306 code 0x02. -/
def execPctlTheta (d : Dst) (a : Src) (m : Bool) (s : State) : Out :=
  pctlWith d [fa a 1] 2 (fun s k t => a.get32 s k t) (lits1 a) m s
/-- R292, R306 code 0x04. -/
def execPctlDraw (d : Dst) (a : Src) (m : Bool) (s : State) : Out :=
  pctlWith d [fa a 1] 4 (fun s k t => a.get32 s k t) (lits1 a) m s
/-- R306 code 0x05. -/
def execPctlUndraw (d : Dst) (m : Bool) (s : State) : Out := pctlWith d [] 5 (fun _ _ _ => 0) 0 m s

/-- R312: `rng`. -/
def execRng (d : Dst) (a : Src) (part : Bool) (m : Bool) (s : State) : Out :=
  popOp [fa a (if part then 2 else 4)] d 4 (lits1 a) m (fun s k t _ slot p =>
    let c := if part then pairWords (a.get64 s k t) ++ [BitVec.ofNat 32 slot, p.index.extractLsb' 0 32] else a.get128 t
    .ok (s, philox (c.getD 0 0) (c.getD 1 0) (c.getD 2 0) (c.getD 3 0) p.seed)) s

/-- Mode number of a `parv` (R291). -/
def ParvF.code : ParvF → Nat
  | .always => 0
  | .ess => 1
  | .never => 2

/-- R293, R307, R308: `parv`: illegal in a RELAUNCH kernel; the thread arrives, or waits for the next episode, and receives
its outcome when the episode ends, and takes the trap of an earlier instruction first (R411); in a draining population it completes at once with 3. -/
def execParv (d : Dst) (f : ParvF) (s : State) : Out :=
  s.issue { illegal := inRelaunch s, role := 0, flds := [fd d 1] } fun k t =>
    let ds := d.dests t.wb.toNat 1
    if t.faulty then s.stallAt k t .results
    else match s.bound t with
    | none => s.trapAt k t (popTrap 0x04 0xfff 0)
    | some (h, slot, p) =>
      if t.cut then s.trapAt k { t with binding := none, cut := false } (popTrap 0x06 h slot)
      else if p.state = .draining then s.finishF k t ds [3] 0 0 true
      else if p.arrivals slot < p.a then
        (s.arrive h slot (some k) (some (ParvF.code f))).waitAt k t (.parv ds f true) 0 true
      else s.waitAt k t (.parv ds f false) 0 true

end Sys2Proof.Machine
end

