-- ==== Sys2Proof/Machine/Sillage.lean ====
section
/-!
DEFINITION. The Sillage sequencers: `scfg`, `seval` and `sst` (R344 to R348, R350, R351, R365, R366), the steps of a sample
(R353 to R358), its faults (R359), checkpoints (R360, R361) and timeline (R363).
-/
namespace Sys2Proof.Machine

/-! ## Arithmetic (FP32, round to nearest even) -/

/-- Product, sum, difference, quotient and fused multiply-add of R353. -/
def mulW (a b : Word) : Word := BitVec.ofNat 32 (fmul Fmt.fp32 .rn (fp32 a) (fp32 b)).bits
/-- Sum. -/
def addW (a b : Word) : Word := BitVec.ofNat 32 (fadd Fmt.fp32 .rn (fp32 a) (fp32 b)).bits
/-- Difference. -/
def subW (a b : Word) : Word := BitVec.ofNat 32 (fsub Fmt.fp32 .rn (fp32 a) (fp32 b)).bits
/-- Quotient. -/
def divW (a b : Word) : Word := BitVec.ofNat 32 (fdiv Fmt.fp32 .rn (fp32 a) (fp32 b)).bits
/-- Fused multiply-add. -/
def fmaW (a b c : Word) : Word := BitVec.ofNat 32 (ffma Fmt.fp32 .rn (fp32 a) (fp32 b) (fp32 c)).bits
/-- Magnitude. -/
def absW (a : Word) : Word := a &&& 0x7fffffff
/-- A finite value. -/
def finiteW (a : Word) : Bool := (fp32 a).isFin
/-- A zero of either sign. -/
def zeroW (a : Word) : Bool := absW a == 0
/-- A positive finite value. -/
def positiveW (a : Word) : Bool := finiteW a && !zeroW a && !a.getLsbD 31
/-- Comparison by value: the zeros are equal. -/
def ltW (a b : Word) : Bool := (fp32 a).below (fp32 b) && !(zeroW a && zeroW b)
/-- Equality by value. -/
def eqW (a b : Word) : Bool := a == b || (zeroW a && zeroW b)

/-- `start + sum of round(h * c) * k`, one fused multiply-add a term in order, for every element (R353). -/
def rkSum (h : Word) (start : List Word) (terms : List (Word × List Word)) : List Word :=
  terms.foldl (fun acc (c, k) => let g := mulW h c; List.zipWith (fun a x => fmaW g x a) acc k) start

/-- r of R355 for one element. -/
def errRatio (m : Method) (x xn err : Word) : Word :=
  let top : Word := 0x43800000
  if !(finiteW x && finiteW xn && finiteW err) then top
  else if zeroW err then 0
  else
    let big := if (absW x).ult (absW xn) then absW xn else absW x
    let scale := addW m.atol (mulW m.rtol big)
    if zeroW scale then top
    else
      let r := divW (absW err) scale
      if r.ult top then r else top

/-- Q of R355. -/
def errSquare (r : Word) : Nat :=
  match fp32 r with
  | .fin _ m e => rneNat (m * m) (2 * e + 24)
  | _ => 0

/-- SQ of R355. -/
def errTotal (m : Method) (x xn err : List Word) : Nat :=
  let q := List.zipWith (fun f e => f e) (List.zipWith (fun a b => fun e => errSquare (errRatio m a b e)) x xn) err
  min (q.foldl (· + ·) 0) (2 ^ 64 - 1)

/-- The factor index of R356. -/
def errIndex (sq len : Nat) : Nat :=
  let y := sq * 2 ^ 16 / len
  if y = 0 then 0
  else
    let p := Nat.log2 y
    (sat (8 * ((p : Int) - 40) + (y * 8 / 2 ^ p % 8 : Nat) + 32) 0 63).toNat

/-- The smallest checkpoint above a time, or t_end (R357). -/
def Sample.next (x : Sample) (tb : Word) : Word := (x.checkpoints.find? fun c => ltW tb c).getD x.tEnd

/-- The clip of a step size from a time (R357): the size and the time to which it is clipped. -/
def Sample.clipFrom (x : Sample) (tb hn : Word) : Word × Option Word :=
  let next := x.next tb
  let sum := exactSum [(fp32 tb).pair, (fp32 hn).pair, (fp32 next).neg.pair]
  if ltW next (addW tb hn) || decide (0 ≤ sum.1) then (subW next tb, some next) else (hn, none)

/-- The next step size before its clip (R357). -/
def Method.stepSize (m : Method) (h : Word) (idx : Nat) : Word :=
  let hn := mulW h (m.table.getD idx 0)
  let hn := if (fp32 hn).isNan || ltW hn m.hMin then m.hMin else hn
  if ltW m.hMax hn then m.hMax else hn

/-! ## Records -/

/-- Words of a record from an offset. -/
def wordsAt (b : List Byte) (o n : Nat) : List Word := (List.range n).map fun i => BitVec.ofNat 32 (field b (o + 4 * i) 4)

/-- The method that 640 bytes hold, none where they break a rule of R345. -/
def parseMethod (asid : Nat) (b : List Byte) : Option Method :=
  let m : Method :=
    { asid := asid, s := field b 0 1, q := field b 1 1, atol := BitVec.ofNat 32 (field b 4 4), rtol := BitVec.ofNat 32 (field b 8 4),
      hMin := BitVec.ofNat 32 (field b 12 4), hMax := BitVec.ofNat 32 (field b 16 4), c := wordsAt b 0x20 8, a := wordsAt b 0x40 64,
      b := wordsAt b 0x140 8, e := wordsAt b 0x160 8, table := wordsAt b 0x180 64 }
  let tol (x : Word) : Bool := finiteW x && (zeroW x || !x.getLsbD 31)
  let ok : Bool := zeroField b 2 2 && zeroField b 0x14 12 && decide (1 ≤ m.s ∧ m.s ≤ 8 ∧ 1 ≤ m.q ∧ m.q ≤ m.s) &&
    ((m.a.zipIdx).all fun (x, i) => decide (i % 8 < i / 8) || zeroW x) &&
    m.c.all finiteW && m.a.all finiteW && m.b.all finiteW && m.e.all finiteW && tol m.atol && tol m.rtol &&
    positiveW m.hMin && positiveW m.hMax && m.table.all positiveW
  if ok then some m else none

/-- Checkpoints ascend from above t and do not pass t_end. -/
def ascending (t tEnd : Word) : List Word → Bool
  | [] => true
  | c :: r => finiteW c && ltW t c && !ltW tEnd c && ascending c tEnd r

/-- The sample that a record's first 64 bytes describe (Table 19-3). -/
def parseSample (asid : Nat) (record : Pair) (b : List Byte) : Sample :=
  { asid := asid, state := 1, record := record, x := BitVec.ofNat 64 (field b 0 8), work := BitVec.ofNat 64 (field b 8 8),
    len := field b 0x10 4, method := field b 0x14 1 % 16, limit := field b 0x15 1, checkpoints := wordsAt b 0x24 (min 4 (field b 0x16 1)),
    t := BitVec.ofNat 32 (field b 0x18 4), h := BitVec.ofNat 32 (field b 0x1c 4), tEnd := BitVec.ofNat 32 (field b 0x20 4),
    link := BitVec.ofNat 32 (field b 0x34 4), accepted := 0, rejected := 0, clip := none, stage := 0, request := 0, taker := 0,
    n := 0, stopping := false, arrived := false, reached := false, cut := false, stalled := none }

/-- The checks of code 1 of R346. -/
def sampleOk (x : Sample) (b : List Byte) : Bool :=
  decide (field b 0x14 1 < 16) && zeroField b 0x17 1 && x.link.extractLsb' 28 3 == 0 && zeroField b 0x38 8 &&
    decide (1 ≤ x.len ∧ x.len ≤ 2 ^ 24 ∧ x.x.toNat % 4 = 0 ∧ x.work.toNat % 4 = 0) && isGlobal x.x.toNat && isGlobal x.work.toNat &&
    decide (field b 0x16 1 ≤ 4) && finiteW x.t && finiteW x.tEnd && ltW x.t x.tEnd && ascending x.t x.tEnd x.checkpoints

/-! ## Contexts -/

/-- A sequencer that nobody has used. -/
def Sillage.absent : Sillage := { methods := [], samples := [], queue := [], closed := [], started := [], ended := [] }

/-- A cluster's sequencer. -/
def State.seq (s : State) (cluster : Nat) : Sillage := Tab.getD s.sillage cluster Sillage.absent
/-- Puts a sequencer back. -/
def State.putSeq (s : State) (cluster : Nat) (g : Sillage) : State := { s with sillage := Tab.put s.sillage cluster g }
/-- Changes a sample. -/
def State.updSample (s : State) (cluster i : Nat) (f : Sample → Sample) : State :=
  let g := s.seq cluster
  s.putSeq cluster { g with samples := Tab.upd g.samples i f }

/-- A sample at rest (R351). -/
def Sample.atRest (x : Sample) : Bool := x.state == 0 || x.state == 2 || x.state == 3 || x.state == 5

/-- A sample comes to rest in a state: its request is withdrawn and its number completes (R351, R363, R365). -/
def State.sampleRest (s : State) (cluster i state : Nat) : State :=
  let g := s.seq cluster
  match Tab.find g.samples i with
  | none => s
  | some x =>
    let g := { g with
      samples := Tab.put g.samples i { x with state := state, request := 0, stopping := false, arrived := false, stalled := none, stage := 0 }
      queue := g.queue.filter (· != i)
      ended := Tab.put g.ended x.asid (Tab.getD g.ended x.asid [] ++ [x.n]) }
    (s.putSeq cluster g).timelineSettle

/-- Bytes of a record that names a sample's fault (R359). -/
def seqRecord (addr : Pair) (asid cluster : Nat) (cause : BitVec 8) (kind : BitVec 3) (replay : Bool) (size : BitVec 4)
    (detail : BitVec 32) : List Byte :=
  mkRecord addr 0 asid cause kind replay size 0x3ff cluster 0xff detail

/-- A sample faults (R359, Table 20-3): state 5 and a record on the die's queue. -/
def State.sampleFault (s : State) (cluster i reason : Nat) (acc : Option (Pair × BitVec 3)) : State :=
  match Tab.find (s.seq cluster).samples i with
  | none => s
  | some x =>
    let r := match acc with
      | some (a, kind) => seqRecord a x.asid cluster 0x13 kind false 2 (BitVec.ofNat 32 (reason + 0x900))
      | none => seqRecord x.record x.asid cluster 0x13 0 false 0 (BitVec.ofNat 32 (reason + 0x900))
    (s.pushRec (cluster / 4) r).sampleRest cluster i 5

/-! ## scfg (R345, R346, R365) -/

/-- The trap of R344. -/
def seqTrap (addr : Nat) : TrapInfo := { engTrap 0x13 addr 0x01 9 with kind := 0, size := 0 }

/-- Reads a record's lines at their homes, after the thread's own stores; its faults are those of an `ld` (R345). -/
def State.recordLines (s : State) (k : Nat) (t : Thread) (go : State → List Byte → State) : Nat → Nat → List Byte → State
  | 0, _, acc => go s acc
  | n + 1, addr, acc =>
    s.reach k t (BitVec.ofNat 64 addr) 64 64 Need.load true fun s p =>
      let s := match p with | .mem pa => s.l1Write (l1Key (s.coreOf k) pa) | _ => s
      if s.placeBad p 64 then s.stopThread k t (.poison addr)
      else State.recordLines s k t go n (addr + 64) (acc ++ s.readPlace p 64)

/-- The address checks of a record (R345, R346). -/
def recordTrap (addr : Nat) : Option TrapInfo :=
  if !isGlobal addr then some (accTrap 0x07 addr 0 0 64)
  else if addr % 64 ≠ 0 then some (accTrap 0x06 addr 0 0 64)
  else none

/-- The requirement of an `scfg`, illegal in a RELAUNCH kernel (R388). -/
def scfgReq (s : State) (flds : List Fld) : Req := { illegal := inRelaunch s, role := 0, flds := flds }

/-- R345: `scfg` f = meth. -/
def execScfgMeth (d : Dst) (a b : Src) (m : Bool) (s : State) : Out :=
  s.issue (scfgReq s [fd d 1, fa a 2, fb b 1]) fun k t =>
    let addr := (a.get64 s k t).toNat
    let e := (b.get32 s k t).toNat
    let cl := clusterOf (s.coreOf k)
    let asid := (s.ctxOf k).asid
    let finish (s : State) (code : Word) : State := s.finishV k t (d.dests t.wb.toNat 1) (some [code]) 0 false none (lits2 a b) m
    match recordTrap addr with
    | some i => s.trapAt k t i
    | none =>
      if 15 < e then finish s 1
      else if (s.seq cl).samples.any fun (_, x) => x.method == e && !x.atRest then finish s 2
      else
        State.recordLines (s.drain k) k t (fun s b =>
          match parseMethod asid b with
          | none => finish s 1
          | some x => let g := s.seq cl; finish (s.putSeq cl { g with methods := Tab.put g.methods e x }) 0) 10 addr []

/-- A sample starts (R346, R351, R358, R363): the record's h is clipped, and the ASID's context is open. -/
def State.sampleStart (s : State) (cl i : Nat) (x : Sample) : State :=
  let g := s.seq cl
  let n := Tab.getD g.started x.asid 0 + 1
  let (h, clip) := if positiveW x.h then x.clipFrom x.t x.h else (x.h, none)
  s.putSeq cl { g with
    samples := Tab.put g.samples i { x with h := h, clip := clip, n := n }
    started := Tab.put g.started x.asid n
    closed := g.closed.filter (· != x.asid) }

/-- R346: `scfg` f = start. -/
def execScfgStart (d : Dst) (a b : Src) (m : Bool) (s : State) : Out :=
  s.issue (scfgReq s [fd d 1, fa a 2, fb b 1]) fun k t =>
    let addr := (a.get64 s k t).toNat
    let i := (b.get32 s k t).toNat
    let cl := clusterOf (s.coreOf k)
    let asid := (s.ctxOf k).asid
    let finish (s : State) (code : Word) : State := s.finishV k t (d.dests t.wb.toNat 1) (some [code]) 0 false none (lits2 a b) m
    if 4096 ≤ i then s.trapAt k t (seqTrap 0)
    else
      match recordTrap addr with
      | some i => s.trapAt k t i
      | none =>
        let busy := match Tab.find (s.seq cl).samples i with
          | some x => x.state != 0 && (x.asid != asid || !x.atRest)
          | none => false
        if busy then finish s 2
        else
          State.recordLines (s.drain k) k t (fun s b =>
            let x := parseSample asid (BitVec.ofNat 64 addr) b
            let loaded := match Tab.find (s.seq cl).methods x.method with | some y => y.asid == asid | none => false
            if !sampleOk x b then finish s 1
            else if !loaded then finish s 3
            else finish (s.sampleStart cl i x) 0) 1 addr []

/-- R347, R351: `scfg` f = close: samples of the ASID at rest become free. -/
def execScfgClose (d : Dst) (m : Bool) (s : State) : Out :=
  s.issue (scfgReq s [fd d 1]) fun k t =>
    let cl := clusterOf (s.coreOf k)
    let asid := (s.ctxOf k).asid
    let g := s.seq cl
    let g := { g with
      closed := if g.closed.contains asid then g.closed else asid :: g.closed
      samples := g.samples.filter fun (_, x) => !(x.asid == asid && x.atRest) }
    (s.putSeq cl g).finishV k t (d.dests t.wb.toNat 1) (some [0]) 0 false none 0 m

/-- Takes a stopped sample out of the episode of its population; its slot's arrival stands (R365). -/
def State.sampleLeaves (s : State) (cluster i : Nat) (x : Sample) : State :=
  s.updPop (x.link.extractLsb' 16 12).toNat fun p => { p with samples := p.samples.filter fun (c, j) => !(c == cluster && j == i) }

/-- R365: `scfg` f = stop. -/
def execScfgStop (d : Dst) (b : Src) (m : Bool) (s : State) : Out :=
  s.issue (scfgReq s [fd d 1, fb b 1]) fun k t =>
    let i := (b.get32 s k t).toNat
    let cl := clusterOf (s.coreOf k)
    let asid := (s.ctxOf k).asid
    let finish (s : State) (code : Word) : State := s.finishV k t (d.dests t.wb.toNat 1) (some [code]) 0 false none (lits1 b) m
    if 4096 ≤ i then s.trapAt k t (seqTrap 0)
    else
      match Tab.find (s.seq cl).samples i with
      | none => finish s 4
      | some x =>
        if x.asid ≠ asid || x.atRest then finish s 4
        else if x.request = 2 then finish (s.updSample cl i fun x => { x with stopping := true }) 0
        else finish ((if x.state = 4 then s.sampleLeaves cl i x else s).sampleRest cl i 2) 0

/-! ## seval and sst (R347, R348, R366) -/

/-- The sample whose request a thread may post at an address. -/
def Sillage.handed (g : Sillage) (asid addr : Nat) : Option (Nat × Sample) :=
  g.samples.find? fun (_, x) => x.asid == asid && x.request == 2 && x.record.toNat + 0x40 == addr

/-- The post of a request: a release at device scope, and the sample goes on, or rests where a stop waits for it. -/
def State.postRequest (s : State) (k cl i : Nat) (x : Sample) : State :=
  let s := s.release k .device
  if x.stopping then s.sampleRest cl i 2 else s.updSample cl i fun x => { x with request := 3, taker := 0 }

/-- Where a thread's post by the `seval` at its PC is kept: the program's and its handler's apart. -/
def Thread.postKey (t : Thread) : Pair := if t.inHandler then t.pc ||| 0x8000000000000000 else t.pc

/-- The wait of `seval`, whose registers are `flds`, for a request; a post that it has made stands while it waits, through a
pre-emption and through a handler with posts of its own (`posted`). -/
def State.takeRequest (s : State) (k : Nat) (t : Thread) (d : Dst) (posted : Bool) (flds : List RegId) (lits : Nat) (m : Bool) : State :=
  let cl := clusterOf (s.coreOf k)
  let asid := (s.ctxOf k).asid
  let g := s.seq cl
  let others := t.posted.filter (· != t.postKey)
  let finish (s : State) (v : Pair) : State :=
    s.finishV k { t with posted := others, stall := none } (d.dests t.wb.toNat 2) (some (pairWords v)) 0 false none lits m
  let mine (i : Nat) : Bool := match Tab.find g.samples i with | some x => x.asid == asid | none => false
  match g.queue.find? mine with
  | some i =>
    let rec_ := match Tab.find g.samples i with | some x => x.record | none => 0
    let s := s.putSeq cl { g with
      queue := g.queue.filter (· != i)
      samples := Tab.upd g.samples i fun x => { x with request := 2, taker := k } }
    finish (s.acquire k .device) (rec_ + 0x40)
  | none => if g.closed.contains asid then finish s 0 else s.stallAt k { t with posted := if posted then t.postKey :: others else t.posted } .seval flds

/-- R347: `seval`. -/
def execSeval (d : Dst) (a : Src) (m : Bool) (s : State) : Out :=
  s.issue { scfgReq s [fd d 2, fa a 2] with rel := true } fun k t =>
    let addr := (a.get64 s k t).toNat
    let cl := clusterOf (s.coreOf k)
    let held := regsOf [fd d 2, fa a 2] t
    if addr = 0 then s.takeRequest k t d false held (lits1 a) m
    else if t.posted.contains t.postKey then s.takeRequest k t d true held (lits1 a) m
    else
      match (s.seq cl).handed (s.ctxOf k).asid addr with
      | none => s.trapAt k t (seqTrap addr)
      | some (i, x) => (s.postRequest k cl i x).takeRequest k t d true held (lits1 a) m

/-- The words of `sst` (R348). -/
def sstWords (x : Sample) : List Word := [x.t, x.h, BitVec.ofNat 32 x.state, BitVec.ofNat 32 (x.accepted + 65536 * x.rejected)]

/-- R348: `sst`; a free sample's words but its state are free values. -/
def execSst (d : Dst) (a : Src) (wait : Bool) (m : Bool) (s : State) : Out :=
  s.issue (Req.any [fd d 4, fa a 1]) fun k t =>
    let i := (a.get32 s k t).toNat
    let cl := clusterOf (s.coreOf k)
    let ds := d.dests t.wb.toNat 4
    let own := match Tab.find (s.seq cl).samples i with
      | some x => if x.asid = (s.ctxOf k).asid && x.state != 0 then some x else none
      | none => none
    if 4096 ≤ i then s.trapAt k t (seqTrap 0)
    else
      let got (s : State) : State := if wait then s.acquire k .device else s
      match own with
      | some x =>
        if wait && x.state == 1 then s.stallAt k t .sst (regsOf [fd d 4, fa a 1] t)
        else (got s).finishV k { t with stall := none } ds (some (sstWords x)) 0 false none (lits1 a) m
      | none =>
        let f (j : Nat) : Word := (Config.free (s.ticket + j)).extractLsb' 0 32
        (got { s with ticket := s.ticket + 3 }).finishV k { t with stall := none } ds (some [f 0, f 1, 0, f 2]) 0 false none (lits1 a) m

/-! ## The sequencer's accesses (R359, R364) -/

/-- The physical ranges of `n` bytes at a virtual address, page by page. -/
def State.seqPlaces (s : State) (asid die : Nat) (d : Need) : Nat → Nat → Nat → State × Except Stop (List (Nat × Nat))
  | 0, _, _ => (s, .ok [])
  | fuel + 1, addr, n =>
    if n = 0 then (s, .ok [])
    else
      let m := min n (65536 - addr % 65536)
      match s.locate (fwAgent asid die) addr 4 4 d true with
      | (s, .error x) => (s, .error x)
      | (s, .ok (.mem pa)) =>
        match State.seqPlaces s asid die d fuel (addr + m) (n - m) with
        | (s, .ok r) => (s, .ok ((pa, m) :: r))
        | x => x
      | (s, .ok _) => (s, .error (.trap (accTrap 0x07 addr 0 d.kind 4)))

/-- Reads words at their homes. -/
def State.seqRead (s : State) (asid die addr n : Nat) : State × Except Stop (List Word) :=
  match s.seqPlaces asid die Need.engineRead (n / 16384 + 2) addr (4 * n) with
  | (s, .error x) => (s, .error x)
  | (s, .ok ps) =>
    if ps.any fun (pa, m) => s.poisoned pa m then (s, .error (.poison addr))
    else (s, .ok (wordsOf (ps.flatMap fun (pa, m) => s.readMem pa m)))

/-- Writes bytes at physical ranges. -/
def State.putRanges (s : State) (ps : List (Nat × Nat)) (b : List Byte) : State :=
  match ps with
  | [] => s
  | (pa, m) :: r => (s.writeMem pa (b.take m)).putRanges r (b.drop m)

/-- Writes words at their homes, a shared page copied first (R236). -/
def State.seqWrite (s : State) (asid die addr : Nat) (ws : List Word) : State × Option Stop :=
  match s.seqPlaces asid die Need.engineWrite (ws.length / 16384 + 2) addr (4 * ws.length) with
  | (s, .error x) => (s, some x)
  | (s, .ok ps) => (s.putRanges ps (bytesOfWords ws), none)

/-- Reads several arrays of a number of words. -/
def State.seqReads (s : State) (asid die n : Nat) : List Nat → State × Except Stop (List (List Word))
  | [] => (s, .ok [])
  | a :: r =>
    match s.seqRead asid die a n with
    | (s, .error x) => (s, .error x)
    | (s, .ok ws) =>
      match State.seqReads s asid die n r with
      | (s, .ok l) => (s, .ok (ws :: l))
      | x => x

/-- The sequencer meets a stop (R359, R364): a miss stalls the sample with a replayable record, a shared page is copied first,
and every other fault puts it in state 5. -/
def State.seqStop (s : State) (cl i : Nat) (x : Sample) (e : Stop) : State :=
  let die := cl / 4
  match e with
  | .absent va kind _ =>
    let r := seqRecord (BitVec.ofNat 64 va) x.asid cl 0x08 kind true 2 0
    match (if (Tab.getD s.recWait die []).isEmpty then s.appendRec die r else none) with
    | some (s, n) => s.updSample cl i fun x => { x with stalled := some (die, n) }
    | none => s
  | .copy va =>
    match s.copyShared x.asid va with
    | some s => s
    | none =>
      s.askCopy x.asid va
  | .trap f => s.sampleFault cl i 0x12 (some (f.addr, f.kind))
  | .malformed f =>
    match s.tryRec die (seqRecord f.addr x.asid cl 0x09 f.kind false 2 0x02) with
    | some s => s.sampleFault cl i 0x12 (some (f.addr, f.kind))
    | none => s
  | .poison va => s.sampleFault cl i 0x12 (some (BitVec.ofNat 64 va, 4))
  | .fence d => s.fence d
  | .keyless va kind _ => s.sampleFault cl i 0x12 (some (BitVec.ofNat 64 va, kind))

/-! ## A stage (R353, R354) -/

/-- Address of k_j. -/
def Sample.kAddr (x : Sample) (j : Nat) : Nat := x.work.toNat + 4 * x.len * j

/-- Row `i` of the coefficients a, below the diagonal. -/
def Method.row (m : Method) (i : Nat) : List Word := (m.a.drop (8 * (i - 1))).take (i - 1)

/-- The words of a request block (R347). -/
def Sample.block (x : Sample) (i num : Nat) (ti : Word) : List Word :=
  pairWords x.work ++ pairWords (BitVec.ofNat 64 (x.kAddr i)) ++ [ti, BitVec.ofNat 32 x.len, BitVec.ofNat 32 (num + 4096 * i), 0]

/-- The sequencer forms the input of a stage, writes the request block and queues the request. -/
def State.formStage (s : State) (cl num : Nat) (x : Sample) (m : Method) (i : Nat) : State :=
  let die := cl / 4
  match s.seqReads x.asid die x.len (x.x.toNat :: (List.range (i - 1)).map fun j => x.kAddr (j + 1)) with
  | (s, .error e) => s.seqStop cl num x e
  | (s, .ok []) => s
  | (s, .ok (xs :: ks)) =>
    match s.seqWrite x.asid die x.work.toNat (rkSum x.h xs ((m.row i).zip ks)) with
    | (s, some e) => s.seqStop cl num x e
    | (s, none) =>
      let ti := fmaW (m.c.getD (i - 1) 0) x.h x.t
      match s.seqWrite x.asid die (x.record.toNat + 0x40) (x.block i num ti) with
      | (s, some e) => s.seqStop cl num x e
      | (s, none) =>
        let s := s.updSample cl num fun y => { y with stage := i, request := 1 }
        let g := s.seq cl
        s.putSeq cl { g with queue := g.queue ++ [num] }

/-- R354: SILLAGE_STAGE: a running sample's next stage. -/
def execSillageStage (cluster sample : Nat) (s : State) : Out :=
  match Tab.find (s.seq cluster).samples sample with
  | none => .next s
  | some x =>
    match Tab.find (s.seq cluster).methods x.method with
    | none => .next s
    | some m =>
      if x.state ≠ 1 || x.stalled.isSome then .next s
      else if x.stage = 0 then
        if positiveW x.h then .next (s.formStage cluster sample x m 1) else .next (s.sampleFault cluster sample 0x10 none)
      else if x.request = 3 ∧ x.stage < m.s then .next (s.formStage cluster sample x m (x.stage + 1))
      else .next s

/-! ## The end of a step (R355 to R361) -/

/-- A link is valid for a sample at its first checkpoint (R359, R360). -/
def State.linkOk (s : State) (x : Sample) (m : Method) : Bool :=
  let h := (x.link.extractLsb' 16 12).toNat
  let slot := (x.link.extractLsb' 0 16).toNat
  match Tab.find s.pops h with
  | none => false
  | some p =>
    let lo := p.pageVa slot 0
    let hi := lo + 65536 * p.k
    let inside (a n : Nat) : Bool := decide (lo ≤ a ∧ a + n ≤ hi)
    decide (slot < p.n) && s.ownsSlot p slot && p.asid == x.asid && (p.state == .running || p.state == .paused) &&
      inside x.x.toNat (4 * x.len) && inside x.work.toNat (4 * x.len * (m.s + 2))

/-- A sample that waits at a barrier makes its arrival where its slot has room (R307, R308, R361). -/
def State.sampleArrives (s : State) (cl i : Nat) (x : Sample) : State :=
  let h := (x.link.extractLsb' 16 12).toNat
  let slot := (x.link.extractLsb' 0 16).toNat
  match Tab.find s.pops h with
  | none => s
  | some p =>
    if p.arrivals slot < p.a then
      let st : StepState := { t := x.t, h := x.h, clip := x.clip, accepted := x.accepted, rejected := x.rejected }
      let s := (s.arrive h slot none (some 1)).updPop h fun p =>
        { p with samples := p.samples ++ [(cl, i)], donors := p.donors ++ [(slot, st)] }
      s.updSample cl i fun y => { y with arrived := true }
    else s

/-- What a sample does once a step's outcome stands (R358). -/
def State.sampleAfter (s : State) (cl i : Nat) (m : Method) : State :=
  match Tab.find (s.seq cl).samples i with
  | none => s
  | some x =>
    let linked := x.link.getLsbD 31
    if eqW x.t x.tEnd then s.sampleRest cl i 3
    else if linked && x.checkpoints.any (eqW x.t) then
      let h := (x.link.extractLsb' 16 12).toNat
      match Tab.find s.pops h with
      | none => s.sampleFault cl i 0x13 none
      | some p =>
        if (!x.reached && !s.linkOk x m) || p.asid != x.asid then s.sampleFault cl i 0x13 none
        else if p.state == .draining || x.cut then s.sampleFault cl i 0x14 none
        else (s.updSample cl i fun y => { y with state := 4, stage := 0, request := 0, reached := true }).sampleArrives cl i x
    else if x.limit ≠ 0 ∧ x.limit ≤ x.accepted + x.rejected then s.sampleRest cl i 2
    else s.updSample cl i fun y => { y with stage := 0, request := 0 }

/-- R358: SILLAGE_STEP_END: the new state, the accept test, the next step size and the step's outcome. -/
def execSillageStepEnd (cluster sample : Nat) (s : State) : Out :=
  match Tab.find (s.seq cluster).samples sample with
  | none => .next s
  | some x =>
    match Tab.find (s.seq cluster).methods x.method with
    | none => .next s
    | some m =>
      if x.state ≠ 1 || x.stalled.isSome || x.request ≠ 3 || x.stage ≠ m.s then .next s
      else
        let die := cluster / 4
        match s.seqReads x.asid die x.len (x.x.toNat :: (List.range m.s).map fun j => x.kAddr (j + 1)) with
        | (s, .error e) => .next (s.seqStop cluster sample x e)
        | (s, .ok []) => .next s
        | (s, .ok (xs :: ks)) =>
          let xn := rkSum x.h xs (m.b.zip ks)
          let err := rkSum x.h (List.replicate x.len 0) (m.e.zip ks)
          match s.seqWrite x.asid die (x.kAddr (m.s + 1)) xn with
          | (s, some e) => .next (s.seqStop cluster sample x e)
          | (s, none) =>
            let sq := errTotal m xs xn err
            let hn := m.stepSize x.h (errIndex sq x.len)
            if sq ≤ x.len * 2 ^ 24 then
              match s.seqWrite x.asid die x.x.toNat xn with
              | (s, some e) => .next (s.seqStop cluster sample x e)
              | (s, none) =>
                let tacc := match x.clip with | some n => n | none => addW x.t x.h
                let (h, clip) := x.clipFrom tacc hn
                .next ((s.updSample cluster sample fun y =>
                  { y with t := tacc, h := h, clip := clip, accepted := min 65535 (y.accepted + 1) }).sampleAfter cluster sample m)
            else if eqW x.h m.hMin then .next (s.sampleFault cluster sample 0x11 none)
            else
              let (h, clip) := x.clipFrom x.t hn
              .next ((s.updSample cluster sample fun y =>
                { y with h := h, clip := clip, rejected := min 65535 (y.rejected + 1) }).sampleAfter cluster sample m)

end Sys2Proof.Machine
end

