-- ==== Sys2Proof/Machine/Episodes.lean ====
section
/-!
DEFINITION. Barrier episodes (R293, R307 to R311, R314, R316, R362), cuts (R317), cancellation and the return of an entry (R318),
memory pressure, drops and recomputation (R319, R320), admission and overruns (R322, R323), and the state engine's queue (R315).
-/
namespace Sys2Proof.Machine

/-! ## State pages of a population -/

/-- Frames that a population's roots name, without repeats. -/
def Population.frames (p : Population) : List Nat :=
  sortNat (p.parts.flatMap fun (_, x) => x.root.filterMap fun e => if bit e 1 then some (leafFrame e) else none)

/-- Takes the leaf of an address out of an ASID's page table, once the accesses that used it have been performed (R238). -/
def State.clearLeaf (s : State) (asid va : Nat) : State :=
  match s.leafOf asid va with
  | .leaf at_ _ bits =>
    let page := va / 2 ^ bits * 2 ^ bits
    (((s.drainAsid asid).dropBuffers asid page (2 ^ bits)).writeMem at_ (natBytes 8 0)).tlbDrop asid page (2 ^ bits)
  | _ => s

/-- Returns every state page of a population to its pool; its slots have no pages. -/
def State.returnPages (s : State) (h : Nat) : State :=
  match Tab.find s.pops h with
  | none => s
  | some p =>
    let s := p.parts.foldl (fun s (i, x) => (List.range x.root.length).foldl (fun s j => s.clearLeaf p.asid (p.pageVa i j)) s) s
    let s := p.frames.foldl (fun s pa => s.dropStateFrame p.asid pa) s
    s.updPop h fun p => { p with parts := Tab.mapVal p.parts fun _ x => { x with root := [] } }

/-- Gives slot `i` its pages `j` to k - 1, with the contents that firmware keeps (R295), none where the pool has no frame. -/
def State.givePages (s : State) (h : Nat) (p : Population) (i j : Nat) : Nat → Option State
  | 0 => some s
  | n + 1 =>
    match s.stateFrame p.asid with
    | none => none
    | some (s, pa) =>
      let e := mkLeaf pa 3 true false 0
      match s.setLeaf p.asid (p.pageVa i j) 16 e with
      | none => none
      | some s =>
        let b := match p.initial.find? fun (a, c, _) => a == i && c == j with | some (_, _, b) => b | none => []
        let s := b.foldl (fun s (o, x) => s.writeMem (pa + o) [x]) s
        let bad := p.initialBad.filterMap fun (a, c, u) => if a == i && c == j then some (pa / 32 + u) else none
        let s := { s with poison := s.poison ++ bad }
        let s := s.updPart h i fun x => { x with root := x.root ++ [e] }
        s.givePages h p i (j + 1) n

/-- Gives every slot of a population its pages. -/
def State.giveSlots (s : State) (h : Nat) (p : Population) : List Nat → Option State
  | [] => some s
  | i :: r =>
    match s.givePages h p i 0 p.k with
    | none => none
    | some s => s.giveSlots h p r

/-- A particle at creation (R296). -/
def Particle.new (slot : Nat) : Particle :=
  { l := 0, pinf := false, dead := false, cut := false, parent := slot, generation := 0, root := [], arrivals := 0 }

/-- Some thread is bound to a population. -/
def State.anyBound (s : State) (h : Nat) : Bool :=
  s.threads.any fun (_, t) => t.status != .exited && (match t.binding with | some (g, _) => g == h | none => false)

/-- Firmware frees a draining entry that no thread is bound to (R318), once no phase holds a buffered write to its pages (R238). -/
def State.reclaim (s : State) (h : Nat) : State :=
  match Tab.find s.pops h with
  | none => s
  | some p =>
    let held := s.bufferedAt p.asid fun a => (s.stateOwner p.asid a).any fun x => x.1 == h
    if p.state = .draining && !s.anyBound h && !held then
      let s := s.returnPages h
      { s with pops := Tab.del s.pops h }
    else s

/-! ## Outcomes -/

/-- A waiting `parv` of an episode receives its outcome, or the trap of a cut particle (R293, R317). -/
def State.parvOutcome (s : State) (h : Nat) (outcome : Word) (k : Nat) : State :=
  match Tab.find s.threads k with
  | none => s
  | some t =>
    match t.status, t.binding with
    | .waiting (.parv ds _ true) lits, some (g, slot) =>
      if g ≠ h then s
      else if t.cut then s.trapAt k { t with status := .ready, binding := none, cut := false } (popTrap 0x06 h slot)
      else s.wake k (t.putRegs ds [outcome]) lits
    | _, _ => s

/-- A `parv` that waited for the next episode counts in it, or completes with 3 in a draining population (R308). -/
def State.parvNext (s : State) (h : Nat) (k : Nat) : State :=
  match Tab.find s.threads k, Tab.find s.pops h with
  | some t, some p =>
    match t.status, t.binding with
    | .waiting (.parv ds f false) lits, some (g, slot) =>
      if g ≠ h then s
      else if t.cut then s.trapAt k { t with status := .ready, binding := none, cut := false } (popTrap 0x06 h slot)
      else if p.state = .draining then s.wake k (t.putRegs ds [3]) lits
      else if p.arrivals slot < p.a then
        (s.arrive h slot (some k) (some (ParvF.code f))).putThread k { t with status := .waiting (.parv ds f true) lits }
      else s
    | _, _ => s
  | _, _ => s

/-- Samples that wait at a population's barrier, counted or not: cluster and number. -/
def State.waitingSamples (s : State) (h : Nat) (arrived : Bool) : List (Nat × Nat) :=
  s.sillage.flatMap fun (c, g) => g.samples.filterMap fun (i, x) =>
    if x.state == 4 && x.arrived == arrived && x.link.getLsbD 31 && (x.link.extractLsb' 16 12).toNat == h then some (c, i) else none

/-- Slot of a sample's link. -/
def Sample.slot (x : Sample) : Nat := (x.link.extractLsb' 0 16).toNat
/-- A sample is linked to a population. -/
def Sample.linkedTo (x : Sample) (h : Nat) : Bool := x.link.getLsbD 31 && (x.link.extractLsb' 16 12).toNat == h

/-- The slot from which a slot's clone comes. -/
def cloneOf (clones : List (Nat × Nat)) (slot : Nat) : Option Nat := (clones.find? fun c => c.1 == slot).map Prod.snd

/-- What a sample that waited in an episode does with its outcome (R362): `clones` maps a slot to the slot that its clone came from, `donors`
a slot to the sample that arrived for it. -/
def State.sampleOutcome (s : State) (outcome : Nat) (clones : List (Nat × Nat)) (donors : List (Nat × StepState)) (ci : Nat × Nat) : State :=
  match Tab.find (s.seq ci.1).samples ci.2 with
  | none => s
  | some x =>
    if 2 ≤ outcome || x.cut then s.sampleFault ci.1 ci.2 0x14 none
    else
      let donor : Option StepState := (cloneOf clones x.slot).bind fun p => (donors.find? fun d => d.1 == p).map Prod.snd
      s.updSample ci.1 ci.2 fun y =>
        match donor with
        | some d => { y with state := 1, arrived := false, t := d.t, h := d.h, clip := d.clip, accepted := d.accepted, rejected := d.rejected }
        | none => { y with state := 1, arrived := false }

/-- The end of an episode (R307): outcomes, then the counts of arrivals, the increments held for the next iteration and the
waits that count there, and the requests that take effect at the boundary. -/
def State.closeEpisode (s : State) (h outcome : Nat) (clones : List (Nat × Nat)) (peers : List PeerShare := []) : State :=
  match Tab.find s.pops h with
  | none => s
  | some p =>
    let parts := p.held.foldl (fun m (i, w) => Tab.upd m i fun x => x.add w) (Tab.mapVal p.parts fun _ x => { x with arrivals := 0 })
    let state := if p.wantCancel then .draining else if p.wantPause && p.state == .running then .paused else p.state
    let samples := p.samples
    let s := s.updPop h fun _ => { p with
      parts := parts, mode := none, arrivedBy := [], held := [], samples := [], donors := [], snap := none, peersDone := false, peers := [], started := s.clock,
      state := state, wantPause := false, wantCancel := false, cutrun := p.cutrun || peers.any (·.cut) }
    let keys := s.threads.map Prod.fst
    let donors := p.donors ++ peers.flatMap fun x => x.donors
    let s := samples.foldl (fun s ci => s.sampleOutcome outcome clones donors ci) s
    let s := keys.foldl (fun s k => s.parvOutcome h (BitVec.ofNat 32 outcome) k) s
    let s := keys.foldl (fun s k => s.parvNext h k) s
    (s.waitingSamples h false).foldl (fun s (c, i) =>
      match Tab.find (s.seq c).samples i with
      | some x => if state == .draining || x.cut then s.sampleFault c i 0x14 none else s.sampleArrives c i x
      | none => s) s

/-! ## The resample (R309 to R311) -/

/-- `F` of R309: the count of k below N with (k * 2^32 + U) * S < c * N * 2^32. -/
def resampleF (n sum u c : Nat) : Nat :=
  if c * n = 0 then 0
  else
    let top := (c * n * 2 ^ 32 - 1) / sum
    if top < u then 0 else min n ((top - u) / 2 ^ 32 + 1)

/-- Counts of slots from their q, `c` being the sum before them. -/
def resampleCounts (n sum u : Nat) : Nat → List (Nat × Nat) → List (Nat × Nat)
  | _, [] => []
  | c, (i, q) :: r => (i, resampleF n sum u (c + q) - resampleF n sum u c) :: resampleCounts n sum u (c + q) r

/-- The largest of some optional values. -/
def maxOpt (l : List (Option Int)) : Option Int :=
  l.foldl (fun a b => match a, b with | some x, some y => some (max x y) | some x, none => some x | none, y => y) none

/-- The smallest of some optional values. -/
def minOpt (l : List (Option Nat)) : Option Nat :=
  l.foldl (fun a b => match a, b with | some x, some y => some (min x y) | some x, none => some x | none, y => y) none

/-- What the members contribute, in member order, this module's in its place (R316). -/
def inOrder (own : Nat) (mine : PeerShare) (peers : List PeerShare) (n : Nat) : List PeerShare :=
  (List.range n).filterMap fun i => if i = own then some mine else peers.find? fun x => x.member == i

/-- The resample as computed for this module's slots. -/
structure Plan where
  sum : Nat
  sumSq : Nat
  lmax : Int
  /-- the parent of each of this module's slots -/
  parents : List (Nat × Nat)
  /-- assignments of every extra copy: slot and parent -/
  assigned : List (Nat × Nat)
  mine : PeerShare
  deriving DecidableEq, Repr

/-- The log-weights that enter a resample (R307). -/
def Population.entering (p : Population) : List (Nat × Option Int) := match p.snap with | some x => x.weights | none => p.weights

/-- The test draw that a resample uses (R292). -/
def Population.usedDraw (p : Population) : Option Word := match p.snap with | some x => x.draw | none => p.draw

/-- What this module tells the other members of an episode (R316, R317). -/
def Population.share (p : Population) (own : Nat) : PeerShare :=
  { member := own, lmax := maxOpt (p.entering.map Prod.snd), s := 0, q2 := 0, free := [], extras := [], mode := p.mode, complete := true,
    draw := if own = 0 then p.usedDraw else none, pages := [], fail := none, cut := p.parts.any fun (_, x) => x.cut, controls := [],
    donors := [] }

/-- The counts and the slots of a resample with a draw (R309, R310, R316). -/
def Population.plan (p : Population) (own : Nat) (peers : List PeerShare) (lmax : Int) (u : Nat) : Plan :=
  let q := p.entering.map fun (i, w) => (i, match w with | some x => resampleWeight (x - lmax) | none => 0)
  let s0 := q.foldl (fun n x => n + x.2) 0
  let q20 := q.foldl (fun n x => n + x.2 * x.2) 0
  let sum := peers.foldl (fun n x => n + x.s) s0
  let before := (peers.filter fun x => decide (x.member < own)).foldl (fun n x => n + x.s) 0
  let counts := resampleCounts p.n sum u before q
  let free := (counts.filter fun x => x.2 == 0).map Prod.fst
  let extras := counts.flatMap fun (i, n) => List.replicate (n - 1) i
  let mine : PeerShare := { p.share own with s := s0, q2 := q20, free := free, extras := extras }
  let all := inOrder own mine peers p.members.length
  let assigned := (all.flatMap fun x => x.free).zip (all.flatMap fun x => x.extras)
  let parents := counts.map fun (i, n) =>
    (i, if n = 0 then ((assigned.find? fun a => a.1 == i).map Prod.snd).getD i else i)
  { sum := sum, sumSq := peers.foldl (fun n x => n + x.q2) q20, lmax := lmax, parents := parents, assigned := assigned, mine := mine }

/-- A clone of a parent on another member: fresh frames that hold what its puts brought (R316), none where the pool has no frame. -/
def State.remoteRoot (s : State) (asid parent : Nat) (pages : List (Nat × Nat × List Byte)) (j : Nat) : Nat → Option (State × List (BitVec 64))
  | 0 => some (s, [])
  | n + 1 =>
    match s.stateFrame asid with
    | none => none
    | some (s, pa) =>
      let b := match pages.find? fun (a, c, _) => a == parent && c == j with | some (_, _, b) => b | none => []
      let s := s.writeMem pa (b.take 65536)
      match s.remoteRoot asid parent pages (j + 1) n with
      | none => none
      | some (s, r) => some (s, mkLeaf pa 3 true false 0 :: r)

/-- The new roots of this module's slots, none where a frame is missing. -/
def State.newRoots (s : State) (p : Population) (pages : List (Nat × Nat × List Byte)) : List (Nat × Nat) →
    Option (State × List (Nat × List (BitVec 64)))
  | [] => some (s, [])
  | (i, parent) :: r =>
    match Tab.find p.parts parent with
    | some x =>
      match s.newRoots p pages r with
      | none => none
      | some (s, l) => some (s, (i, x.root) :: l)
    | none =>
      match s.remoteRoot p.asid parent pages 0 p.k with
      | none => none
      | some (s, root) =>
        match s.newRoots p pages r with
        | none => none
        | some (s, l) => some (s, (i, root) :: l)

/-- Particles of a list of roots that name a frame. -/
def rootCount (l : List (Nat × List (BitVec 64))) (frame : Nat) : Nat :=
  l.foldl (fun n (_, r) => n + (r.filter fun e => bit e 1 && leafFrame e == frame).length) 0

/-- A leaf with SHR as its page's count asks (R314). -/
def shared (l : List (Nat × List (BitVec 64))) (e : BitVec 64) : BitVec 64 :=
  if bit e 1 && decide (2 ≤ rootCount l (leafFrame e)) then e ||| 0x80 else e &&& ~~~0x80

/-- Writes a changed leaf and invalidates the old translation, whose accesses have been performed (R238, R314). -/
def State.moveLeaf (s : State) (asid va : Nat) (old e : BitVec 64) : State :=
  if old = e then s
  else
    match s.leafOf asid va with
    | .leaf at_ _ _ =>
      let s := s.drainAsid asid
      let s := if bit old 1 then s.dropEverywhere (leafFrame old) 65536 else s
      ((s.writeMem at_ (bytesOf 8 e)).tlbDrop asid va 65536).moveBuffers asid va (leafFrame old) (leafFrame e) 65536
    | _ => s

/-- The particles take their parents' places (R311) and their pages follow (R314). -/
def State.applyPlan (s : State) (h : Nat) (p : Population) (plan : Plan) (roots : List (Nat × List (BitVec 64))) : State :=
  let roots := roots.map fun (i, r) => (i, r.map (shared roots))
  let old := p.frames
  let s := s.updPop h fun q => { q with parts := Tab.mapVal q.parts fun i x =>
    let parent := ((plan.parents.find? fun a => a.1 == i).map Prod.snd).getD i
    { x with parent := parent, generation := (match Tab.find p.parts parent with | some y => y.generation | none => x.generation) + 1,
             l := 0, pinf := false, dead := false, cut := false,
             root := ((roots.find? fun r => r.1 == i).map Prod.snd).getD x.root } }
  let s := roots.foldl (fun s (i, r) =>
    let was := match Tab.find p.parts i with | some x => x.root | none => []
    ((was.zip r).zipIdx).foldl (fun s ((a, e), j) => s.moveLeaf p.asid (p.pageVa i j) a e) s) s
  (old.filter fun f => rootCount roots f == 0).foldl (fun s f => s.dropStateFrame p.asid f) s

/-- Z after a resample and whether it saturated (R311). -/
def Population.nextZ (p : Population) (plan : Plan) : Int × Bool :=
  let z := resampleLog (p.z.toInt + plan.lmax) plan.sum p.n
  (q3132 z, decide (q3132 z ≠ z))

/-- Tells the other members of a population what this one contributes, with the pages and samples of the parents whose clones they hold; what
the cores still hold of those pages is written back first. -/
def State.sendShares (s : State) (h : Nat) (p : Population) (share : PeerShare) (assigned : List (Nat × Nat)) : State :=
  let others := (p.members.zipIdx).filter fun (_, i) => i != share.member
  if others.isEmpty then s
  else
    let s := (s.drainAsid p.asid).l1FlushCores p.asid fun _ => true
    { s with outbox := (others.map fun ((m, _), i) =>
        let (lo, hi) := p.range i
        let parents := (assigned.filter fun (slot, _) => decide (lo ≤ slot ∧ slot < hi)).map Prod.snd
        let ps := parents.flatMap fun parent =>
          match Tab.find p.parts parent with
          | none => []
          | some x => (x.root.zipIdx).map fun (e, j) => (parent, j, s.readMem (leafFrame e) 65536)
        OutMsg.share m h { share with pages := ps, donors := p.donors.filter fun d => parents.contains d.1 }) ++ s.outbox }

/-- Threads bound to parents whose pages, sent to other members, hold poison, with the address of the page. -/
def State.poisonedParents (s : State) (h : Nat) (p : Population) (assigned : List (Nat × Nat)) : List (Nat × Nat) :=
  if s.poison.isEmpty && s.badWords.isEmpty then []
  else
    (dedup (assigned.map Prod.snd)).flatMap fun parent =>
      match Tab.find p.parts parent with
      | none => []
      | some x =>
        match (x.root.zipIdx).find? fun (e, _) => s.poisoned (leafFrame e) 65536 with
        | none => []
        | some (_, j) => (s.threads.filter fun (_, t) => t.binding == some (h, parent)).map fun (k, _) => (k, p.pageVa parent j)

/-- What leaves the module as poison is consumed by the contexts of the particles that it is of (R382, R383). -/
def State.parentsConsume (s : State) (l : List (Nat × Nat)) : State :=
  l.foldl (fun s (k, va) =>
    match Tab.find s.threads k with
    | some t => s.consumePoison (s.block (blkOf k)).ctx (s.threadRec k (accTrap 0x09 va 0x0a 0 1) t.pc false)
    | none => s) s

/-- The resample with a draw: none where it waits for a frame (R319). -/
def State.resample (s : State) (h : Nat) (p : Population) (peers : List PeerShare) (plan : Plan) (test : Bool) : Option State :=
  match s.newRoots p (peers.flatMap fun x => x.pages) plan.parents with
  | none => none
  | some (s, roots) =>
    let (z, sat) := p.nextZ plan
    let s := s.sendShares h p plan.mine plan.assigned
    let bad := s.poisonedParents h p plan.assigned
    let s := s.applyPlan h p plan roots
    let next := match p.snap with | some x => if x.redrawn then p.draw else none | none => none
    let s := s.updPop h fun q => { q with
      z := BitVec.ofInt 64 z, zsat := q.zsat || sat, index := q.index + 1, lastrs := true, test := test, draw := next,
      lastS := BitVec.ofNat 64 plan.sum, lastLmax := BitVec.ofInt 64 plan.lmax }
    some ((s.closeEpisode h 0 (plan.parents.filter fun (i, j) => i != j) peers).parentsConsume bad)

/-- The other members have completed too. -/
def Population.peersComplete (p : Population) (own : Nat) (peers : List PeerShare) : Bool :=
  sortNat (own :: peers.map (·.member)) == List.range p.members.length && decide (peers.length + 1 = p.members.length) &&
    peers.all (·.complete)

/-- The home module applies the codes that the members forward, in the order in which it takes them (R306). -/
def State.takeControls (s : State) (pop own : Nat) (peers : List PeerShare) : State :=
  if own = 0 then (peers.flatMap fun x => x.controls).foldl (fun s (c, a) => s.updPop pop fun p => p.control c a) s else s

/-- The ESS test of R309 as the home module makes it; another member takes the home's decision (R316). -/
def Population.essFails (p : Population) (own : Nat) (peers : List PeerShare) (plan : Plan) : Bool :=
  let here := decide (plan.sum ^ 2 * 2 ^ 16 < p.theta.toNat * p.n * plan.sumSq)
  if own = 0 then here
  else match peers.find? fun x => x.member == 0 with
    | some x => x.fail.getD here
    | none => here

/-- The end of an episode whose arrivals are complete on every member (R307, R309, R316). -/
def State.endEpisode (s : State) (pop own : Nat) (p : Population) (peers : List PeerShare) : State :=
  let mode := (minOpt (p.mode :: peers.map (·.mode))).getD 2
  let quiet (s : State) (share : PeerShare) : State :=
    ((s.sendShares pop p share []).updPop pop fun q => { q with lastrs := false }).closeEpisode pop 1 [] peers
  if 2 ≤ mode then quiet s (p.share own)
  else
    match maxOpt (p.entering.map Prod.snd ++ peers.map (·.lmax)) with
    | none =>
      let s := s.sendShares pop p (p.share own) []
      (s.updPop pop fun q => { q with extinct := true, state := .draining }).closeEpisode pop 2 [] peers
    | some lmax =>
      let sent := if own = 0 then p.usedDraw else match peers.find? fun x => x.member == 0 with | some x => x.draw | none => none
      let word := (philox 0xffffffff (p.index.extractLsb' 0 32) (p.index.extractLsb' 32 32) 0 p.seed).getD 0 0
      let plan := p.plan own peers lmax (sent.getD word).toNat
      let fail := p.essFails own peers plan
      let plan := if mode = 1 && own == 0 then { plan with mine := { plan.mine with fail := some fail } } else plan
      let s1 := if mode = 1 then s.updPop pop fun q => { q with essfail := fail } else s
      if mode = 1 && !fail then quiet s1 plan.mine else (s1.resample pop p peers plan sent.isSome).getD s

/-- The news that the other members' arrivals are complete, and what they send for the end of the episode from then on (R307, R316). -/
def Population.hear (p : Population) (own : Nat) (peers : List PeerShare) : Population :=
  if !p.peersComplete own peers then p
  else
    let p := Population.settle { p with peersDone := true }
    { p with peers := if p.snap.isSome then peers else p.peers }

/-- R307: BARRIER_EPISODE_END: the arrivals of a running population are complete on every member; what the others send is taken in any case,
and an entry that drains is freed once no thread is bound to it (R318). -/
def execBarrierEpisodeEnd (pop : Nat) (peers : List PeerShare) (s : State) : Out :=
  match Tab.find s.pops pop with
  | none => .next s
  | some p =>
    match s.memberIndex p with
    | none => .next s
    | some own =>
      if p.state = .draining then .next (s.reclaim pop)
      else
        let s := (s.takeControls pop own peers).updPop pop fun p => p.hear own peers
        match Tab.find s.pops pop with
        | none => .next s
        | some p =>
          if p.state ≠ .running || p.snap.isNone || !p.peersComplete own p.peers then .next s else .next (s.endEpisode pop own p p.peers)

/-! ## Cuts, overruns and cancellation -/

/-- A thread whose particle is among those cut. -/
def Thread.cutIn (t : Thread) (pop : Nat) (short : List Nat) : Thread :=
  match t.binding with
  | some (g, slot) => if g == pop && short.contains slot then { t with cut := true } else t
  | none => t

/-- A sequencer's samples whose particle is among those cut. -/
def Sillage.cutIn (g : Sillage) (pop : Nat) (short : List Nat) : Sillage :=
  let mark (x : Sample) : Sample := if x.linkedTo pop && short.contains x.slot && !x.atRest then { x with cut := true } else x
  { g with samples := Tab.mapVal g.samples fun _ x => mark x }

/-- R317: CUT_DEADLINE: particles short of their arrivals are cut and the arrivals are complete. -/
def execCutDeadline (pop : Nat) (s : State) : Out :=
  match Tab.find s.pops pop with
  | none => .next s
  | some p =>
    if p.state ≠ .running || !p.cutPolicy || p.complete || decide (s.clock - p.started ≤ clocksOf p.deadline) then .next s
    else
      let short := p.parts.filterMap fun (i, x) => if x.arrivals < p.a then some i else none
      let s := s.updPop pop fun q => Population.settle { q with
        cutrun := true
        parts := Tab.mapVal q.parts fun _ x => if x.arrivals < q.a then { x with dead := true, cut := true, arrivals := q.a } else x }
      .next { s with threads := Tab.mapVal s.threads fun _ t => t.cutIn pop short, sillage := Tab.mapVal s.sillage fun _ g => g.cutIn pop short }

/-- R323: ITERATION_OVERRUN: the population is demoted, leaves the admission sum, and its tasks take the lowest priority class; one that has
been admitted again after a drop (R320) loses its promise anew. -/
def execIterationOverrun (pop used : Nat) (s : State) : Out :=
  match Tab.find s.pops pop with
  | none => .next s
  | some p =>
    if used ≤ p.budget || !p.admitted then .next s
    else
      let q := { p with demoted := true, admitted := false }
      let s := { s with
        pops := Tab.put s.pops pop q
        launches := Tab.mapVal s.launches fun _ l => if l.population = some pop then { l with priority := 0 } else l }
      .next (s.postEvent 5 p.asid (natBytes 2 pop ++ natBytes 2 0 ++ bytesOf 4 q.word))

/-- Cancellation (R318): before the last arrival the episode ends with outcome 3, and so it does in a paused population, whose resample has
not started; after it, at the boundary. -/
def State.cancelPop (s : State) (h : Nat) (p : Population) : State :=
  if p.state = .running && p.snap.isSome then s.updPop h fun q => { q with wantCancel := true }
  else ((s.updPop h fun q => { q with state := .draining, lastrs := false }).closeEpisode h 3 []).reclaim h

/-! ## Admission, drops and recomputation -/

/-- Capacity of the module in quarters of a core (R322). -/
def State.capacity (s : State) : Nat :=
  ((List.range 768).filter fun c => !s.fenced.contains (dieOf c)).foldl (fun n c =>
    let bad := Tab.getD s.power.quarantine c 0
    n + ((List.range 4).filter fun i => !bad.getLsbD i).length) 0

/-- A population fits the admission sum of this module. -/
def State.admits (s : State) (h : Nat) : Bool :=
  let ps := s.pops.filter fun (g, p) => g == h || p.admitted
  let (num, den) := ps.foldl (fun (a : Nat × Nat) (_, p) => (a.1 * p.period + p.budget * a.2, a.2 * p.period)) (0, 1)
  decide (num * 400 ≤ 85 * s.capacity * den)

/-- Firmware writes the launch packets that are to be reposted into free slots of a queue of the ASID, and they are accepted (R320); those
that find no slot, or no queue, wait. -/
def State.repost (s : State) (h : Nat) : State :=
  match Tab.find s.pops h with
  | none => s
  | some p =>
    match s.queues.find? fun (_, q) => q.asid == p.asid && !q.collective && !q.closed with
    | none => s
    | some (k, q) =>
      let (q, rest) := p.posting.foldl (fun (a : LaunchQ × List (List Byte)) b =>
        match (List.range 512).find? fun j => (Tab.find a.1.written ((a.1.next + j) % 512)).isNone with
        | none => (a.1, a.2 ++ [b])
        | some j => (a.1.write ((b.zipIdx).map fun (x, i) => (128 * ((a.1.next + j) % 512) + i, x)) none, a.2)) (q, [])
      let s := s.updPop h fun x => { x with posting := rest }
      ({ s with queues := Tab.put s.queues k q }).acceptAll k 512

/-- Admits a filling population: its state pages are kept for recomputation and its first iteration starts (R295, R322). -/
def State.startPop (s : State) (h : Nat) : State :=
  let s := s.updPop h fun p => { p with state := .running, admitted := true, rank := s.ticket, started := s.clock }
  { s with ticket := s.ticket + 1 }

/-- A dropped population runs again once it is admitted on every member module and its pages fit (R320, R322); the decision of the other
members comes from outside (log 76). -/
def State.recompute (s : State) (h : Nat) : Option State :=
  match Tab.find s.pops h with
  | none => none
  | some p =>
    let (others, s) := if p.members.length = 1 then (0, s) else s.pick 2
    if p.state ≠ .filling || !p.recomp || !s.admits h || others = 1 then none
    else
      match s.giveSlots h p (p.parts.map Prod.fst) with
      | none => none
      | some s => some (((s.startPop h).updPop h fun q => { q with posting := q.packets }).repost h)

/-- Contexts that end with a population that is dropped: those with a thread bound to it (R320). -/
def State.boundCtxs (s : State) (h : Nat) : List Nat :=
  sortNat (s.threads.filterMap fun (k, t) => match t.binding with
    | some (g, _) => if g = h && t.status != .exited then some (s.block (blkOf k)).ctx else none
    | none => none)

/-- A drop (R320): the contexts bound to the population are killed without record, and their launches and those of its packets complete without
a completion write; frames return; particles, Z, the resample index and θ are as at creation (log 77), and the state becomes filling. -/
def State.dropPop (s : State) (h : Nat) : State :=
  let cs := s.boundCtxs h
  let ls := cs.map fun c => (s.ctx c).launch
  let s := cs.foldl (fun s c => s.killCtx c none) s
  let ended (k : Nat) (l : Launch) : Launch := if ls.contains k || l.population == some h then { l with quiet := true, population := none } else l
  let s := { s with launches := Tab.mapVal s.launches ended }
  let s := s.returnPages h
  let s := s.updPop h fun p => { p with
    parts := Tab.mapVal p.parts fun i _ => Particle.new i
    z := 0, index := 0, theta := p.theta0, lastS := 0, lastLmax := 0, state := .filling, recomp := true, admitted := false, mode := none,
    arrivedBy := [], held := [], samples := [], donors := [], snap := none, peersDone := false, peers := [], draw := none, posting := [], wantPause := false,
    wantCancel := false }
  match Tab.find s.pops h with
  | some p => s.postEvent 5 p.asid (natBytes 2 h ++ natBytes 2 0 ++ bytesOf 4 p.word)
  | none => s

/-- R315: SHARED_PAGE_COPY: the state engine serves a request; the store is tried again. -/
def State.serveCopy (s : State) (q : CopyReq) (i : Nat) : Option State :=
  match s.copyShared q.asid q.va.toNat with
  | none => none
  | some s =>
    let s := { s with copyReqs := dropAt s.copyReqs i }
    match q.thread with
    | none => some s
    | some k =>
      match Tab.find s.threads k with
      | some t => if t.status = .copying then some (s.putThread k { t with status := .ready, readyAt := s.clock }) else some s
      | none => some s

/-- R315: SHARED_PAGE_COPY. -/
def execSharedPageCopy (i : Nat) (s : State) : Out :=
  match s.copyReqs[i]? with
  | none => .next s
  | some q => match s.serveCopy q i with | some s => .next s | none => .next s

/-- Serves the state engine's requests as far as frames go. -/
def State.serveCopies (s : State) : Nat → State
  | 0 => s
  | n + 1 =>
    match s.copyReqs with
    | [] => s
    | q :: _ => match s.serveCopy q 0 with | some s => s.serveCopies n | none => s

/-- The end of an episode waits for the frame of a clone from another member (R316, R319). -/
def State.cloneWaits (s : State) (h : Nat) (p : Population) : Bool :=
  match s.memberIndex p with
  | some own => p.state == .running && p.snap.isSome && decide (1 < p.members.length) && p.peersComplete own p.peers &&
      decide (s.endEpisode h own p p.peers = s)
  | none => false

/-- Something waits for a frame of an ASID's state pool (R319): a store, an access of firmware, the host or a peer, or a clone. -/
def State.pressed (s : State) (asid : Nat) : Bool :=
  (s.stateFrame asid).isNone &&
    (s.copyReqs.any (fun q => q.asid == asid) || s.pops.any fun (h, p) => p.asid == asid && s.cloneWaits h p)

/-- The victim (R319): of the lowest priority class, the most recently admitted. -/
def State.victim (s : State) : Option Nat :=
  let ps := s.pops.filter fun (_, p) => p.state == .running || p.state == .paused
  match ps with
  | [] => none
  | x :: r => some (r.foldl (fun (y z : Nat × Population) =>
      if z.2.priority < y.2.priority || (z.2.priority == y.2.priority && decide (y.2.rank < z.2.rank)) then z else y) x).1

/-- R319, R320: MEMORY_PRESSURE_DROP: under pressure a victim is dropped and the waiting accesses are served; dropped populations
run again as far as they are admitted and fit, and packets that wait are reposted. -/
def execMemoryPressureDrop (asid : Nat) (s : State) : Out :=
  let s := if s.pressed asid then
      match s.victim with
      | some h => let s := s.dropPop h; s.serveCopies s.copyReqs.length
      | none => s
    else s
  .next ((s.pops.map Prod.fst).foldl (fun s h => ((s.recompute h).getD s).repost h) s)

end Sys2Proof.Machine
end

