-- ==== Sys2Proof/Machine/Accord.lean ====
section
/-!
DEFINITION. Accord memory: sets and copies (R367 to R369), tags (R370), `mld`, `mst`, `mcas` and `mtag` (R372 to R376), and the
loss, takeover and repair of copies (R377 to R380).
-/
namespace Sys2Proof.Machine

/-! ## Sets and copies -/

/-- COUNT of a set entry. -/
def setCount (e : BitVec 64) : Nat := (e.extractLsb' 20 3).toNat
/-- Stack of a member. -/
def setStack (e : BitVec 64) (m : Nat) : Nat := (e.extractLsb' (4 * m) 4).toNat
/-- Members that answer. -/
def setLive (e : BitVec 64) : List Nat := (List.range (setCount e)).filter fun m => bit e (24 + m)
/-- Members that count toward majorities (R367). -/
def setCurrent (e : BitVec 64) : List Nat := (setLive e).filter fun m => !bit e (29 + m)
/-- Copies that make a majority. -/
def setMajority (e : BitVec 64) : Nat := setCount e / 2 + 1

/-- The conditions of R367 on an entry. -/
def setLegal (e : BitVec 64) : Bool :=
  let n := setCount e
  let onStacks := (List.range n).map (setStack e)
  (n == 3 || n == 5) && e.extractLsb' 34 30 == 0 && (List.range 5).all (fun m => decide (m < n) || setStack e m == 0) &&
    decide ((dedup onStacks).length = n) &&
    (List.range 4).all fun d => decide ((onStacks.filter fun k => k / 4 == d).length ≤ (if n = 3 then 1 else 2))

/-- A set entry. -/
def State.setOf (s : State) (set : Nat) : BitVec 64 := Store.read s.sets set

/-- Where a member's copy of a line lies: its data and its tag (R368). -/
def State.copyData (s : State) (set line m : Nat) : Nat := setStack (s.setOf set) m * 2 ^ 36 + s.accordBase + 64 * line
/-- Its tag. -/
def State.copyTag (s : State) (set line m : Nat) : Nat :=
  setStack (s.setOf set) m * 2 ^ 36 + s.accordBase + s.accordLen + 8 * line

/-- A copy of a line. -/
structure Copy where
  tag : BitVec 64
  data : Line
  deriving DecidableEq, Repr

/-- Reads a member's copy. -/
def State.copy (s : State) (set line m : Nat) : Copy :=
  { tag := BitVec.ofNat 64 (s.memNat (s.copyTag set line m) 8), data := Line.of (s.readMem (s.copyData set line m) 64) }

/-- Writes a member's copy. -/
def State.putCopy (s : State) (set line m : Nat) (c : Copy) : State :=
  (s.writeMem (s.copyData set line m) (Line.get c.data 0 64)).writeMem (s.copyTag set line m) (bytesOf 8 c.tag)

/-- Writes a line to members. -/
def State.putCopies (s : State) (set line : Nat) (ms : List Nat) (c : Copy) : State := ms.foldl (fun s m => s.putCopy set line m c) s

/-- Order of tags (R370): version, then writer id. -/
def tagKey (t : BitVec 64) : Nat := (t.extractLsb' 0 48).toNat * 4096 + (t.extractLsb' 48 12).toNat
/-- A tag of a version and a writer, state valid. -/
def mkTag (version : Nat) (writer : BitVec 12) : BitVec 64 := BitVec.ofNat 64 (version + writer.toNat * 2 ^ 48)
/-- Version of a tag. -/
def tagVersion (t : BitVec 64) : Nat := (t.extractLsb' 0 48).toNat
/-- State of a tag. -/
def tagState (t : BitVec 64) : Nat := (t.extractLsb' 60 3).toNat

/-- Copies of a line that fail no ECC (R377). -/
def State.sound (s : State) (set line : Nat) : List Nat :=
  (setLive (s.setOf set)).filter fun m => !s.accordBad.contains (set, line, m)

/-- Current members that answer for a line and are counted: their copies can be read and are not in state 2 (R377, R380). -/
def State.readable (s : State) (set line : Nat) : List Nat :=
  (setCurrent (s.setOf set)).filter fun m => !s.accordBad.contains (set, line, m) && tagState (s.copy set line m).tag != 2

/-- A line is poisoned (R379): fewer than a majority of its members are current, or some copy says so. -/
def State.linePoisoned (s : State) (set line : Nat) : Bool :=
  decide ((setCurrent (s.setOf set)).length < setMajority (s.setOf set)) ||
    (s.sound set line).any fun m => tagState (s.copy set line m).tag == 1

/-- No majority answers for a line: its operations wait (R377). -/
def State.lineWaits (s : State) (set line : Nat) : Bool := decide ((s.readable set line).length < setMajority (s.setOf set))

/-! ## Answers -/

/-- Sublists of a length. -/
def sublists : Nat → List Nat → List (List Nat)
  | 0, _ => [[]]
  | _ + 1, [] => []
  | n + 1, x :: r => (sublists n r).map (x :: ·) ++ sublists (n + 1) r

/-- The first majority to answer (R373): any of them may be. -/
def State.firstMajority (s : State) (set line : Nat) : State × List Nat :=
  let l := sublists (setMajority (s.setOf set)) (s.readable set line)
  match l with
  | [] => (s, [])
  | [x] => (s, x)
  | l => let (i, s) := s.pick l.length; (s, l.getD i [])

/-- The copy with the largest tag among members. -/
def State.newest (s : State) (set line : Nat) (ms : List Nat) : Copy :=
  match ms with
  | [] => { tag := 0, data := 0 }
  | m :: r => (r.map (s.copy set line)).foldl (fun a b => if tagKey a.tag < tagKey b.tag then b else a) (s.copy set line m)

/-- The chosen copy, and the state in which the lagging members of its majority hold it (R373). -/
def State.choose (s : State) (set line : Nat) : State × Copy :=
  let (s, ms) := s.firstMajority set line
  let c := s.newest set line ms
  let lag := ms.filter fun m => decide (tagKey (s.copy set line m).tag < tagKey c.tag)
  (s.putCopies set line lag c, c)

/-! ## The instructions (R372) -/

/-- The writer id of a thread (R349). -/
def writerId (core : Nat) : BitVec 12 := BitVec.ofNat 12 (core / 192 * 1024 + core % 192 / 48 * 256 + core % 48 * 4)

/-- The data-loss trap (R379). -/
def lossTrap (va set : Nat) (kind : BitVec 3) : TrapInfo :=
  { cause := 0x0f, addr := BitVec.ofNat 64 (va / 64 * 64), detail := BitVec.ofNat 32 set, kind := kind, size := 0 }

/-- The checks of an Accord access in the order of R372: it stops, or goes on with set and region offset. -/
def State.accordReach (s : State) (k : Nat) (t : Thread) (addr : Pair) (n : Nat) (d : Need)
    (go : State → Nat → Nat → State) : State :=
  if !isGlobal addr.toNat || !isGlobal (addr.toNat + n - 1) then s.trapAt k t (accTrap 0x07 addr.toNat 0 d.kind n)
  else
    match s.locate (s.agent k) addr.toNat n n { d with accord := true } true with
    | (s, .error x) => s.stopThread k t x
    | (s, .ok (.mem a)) => go s (a / 2 ^ 41) (a % 2 ^ 41)
    | (s, .ok _) => s.trapAt k t (accTrap 0x09 addr.toNat (protDetail 0x05 d.kind) d.kind n)

/-- A thread's earlier Accord operation has not completed, or a fault of an earlier instruction is about to be due (R344, R411). -/
def State.accordBusy (s : State) (k : Nat) (t : Thread) : Bool := t.faulty || s.accordQ.any (fun o => o.thread == k) || s.accordReads.any fun o => o.thread == k

/-- The tag that `mtag` gives of a poisoned line (R376). -/
def State.poisonTag (s : State) (set line : Nat) : BitVec 64 :=
  (s.newest set line (s.sound set line)).tag &&& 0x0fffffffffffffff ||| 0x1000000000000000

/-- An `mld` or `mtag` whose line has no majority that answers waits in its core (R377). -/
def State.accordWaits (s : State) (k : Nat) (t : Thread) (addr : Pair) (set off : Nat) (datum : Option (Nat × Nat)) (ds : List RegId)
    (lits : Nat) (m : Bool) : State :=
  let r : AccordRead := { asid := (s.ctxOf k).asid, thread := k, order := t.order, set := set, line := off / 64, datum := datum, va := addr }
  ({ s with accordReads := s.accordReads ++ [r] }).finishV k { t with stall := none } ds none 0 false none lits m

/-- R373: `mld`. -/
def execMld (d : Dst) (a : Src) (w64 : Bool) (m : Bool) (s : State) : Out :=
  let w := if w64 then 2 else 1
  s.issue (Req.any [fd d w, fa a 2]) fun k t =>
    let addr := a.get64 s k t
    if s.accordBusy k t then s.stallAt k t .accord
    else
      s.accordReach k t addr (4 * w) Need.load fun s set off =>
        let ds := d.dests t.wb.toNat w
        if s.linePoisoned set (off / 64) then
          s.finishV k { t with stall := none } ds (some []) 0 false (some (lossTrap addr.toNat set 0)) (lits1 a) m
        else if s.lineWaits set (off / 64) then s.accordWaits k t addr set off (some (off % 64, 4 * w)) ds (lits1 a) m
        else
          let (s, c) := s.choose set (off / 64)
          (s.acquire k .device).finishV k { t with stall := none } ds (some (wordsOf (Line.get c.data (off % 64) (4 * w)))) 0 false none
            (lits1 a) m

/-- R376: `mtag`. -/
def execMtag (d : Dst) (a : Src) (m : Bool) (s : State) : Out :=
  s.issue (Req.any [fd d 2, fa a 2]) fun k t =>
    let addr := a.get64 s k t
    if s.accordBusy k t then s.stallAt k t .accord
    else
      s.accordReach k t addr 4 Need.load fun s set off =>
        let line := off / 64
        let ds := d.dests t.wb.toNat 2
        let finish (s : State) (x : BitVec 64) : State :=
          s.finishV k { t with stall := none } ds (some (pairWords x)) 0 false none (lits1 a) m
        if s.linePoisoned set line then finish s (s.poisonTag set line)
        else if s.lineWaits set line then s.accordWaits k t addr set off none ds (lits1 a) m
        else
          let (s, c) := s.choose set line
          finish s c.tag

/-- An `mst` or `mcas` goes to its coordinator (R371, R374, R375), or waits in its core for an earlier one of the core on the line. -/
def State.accordSend (s : State) (k : Nat) (t : Thread) (addr : Pair) (set off : Nat) (bytes : List Byte) (expect : Option (BitVec 48))
    (ds : List RegId) (lits : Nat) (m : Bool) : State :=
  let first := !s.accordQ.any fun o => o.core == s.coreOf k && o.set == set && o.line == off / 64
  let o : AccordOp := { asid := (s.ctxOf k).asid, core := s.coreOf k, sent := first, set := set, line := off / 64, off := off % 64,
                        thread := k, order := t.order, writer := writerId (s.coreOf k), bytes := bytes, expect := expect, va := addr }
  let s := s.release k .device
  ({ s with accordQ := s.accordQ ++ [o] }).finishV k { t with stall := none } ds none 0 false none lits m

/-- R374: `mst`; illegal in a RELAUNCH kernel (R388). -/
def execMst (a b : Src) (w64 : Bool) (m : Bool) (s : State) : Out :=
  let w := if w64 then 2 else 1
  s.issue { illegal := inRelaunch s, role := 0, flds := [fa a 2, fb b w] } fun k t =>
    let addr := a.get64 s k t
    let x := if w64 then b.get64 s k t else (b.get32 s k t).zeroExtend 64
    if s.accordBusy k t then s.stallAt k t .accord
    else
      s.accordReach k t addr (4 * w) Need.store fun s set off =>
        s.accordSend k t addr set off (bytesOf (4 * w) x) none [] (lits2 a b) m

/-- R375: `mcas`; illegal in a RELAUNCH kernel (R388). -/
def execMcas (d : Dst) (a b : Src) (w64 : Bool) (m : Bool) (s : State) : Out :=
  let w := if w64 then 2 else 1
  s.issue { illegal := inRelaunch s, role := 0, flds := [fdr d 2, fa a 2, fb b w] } fun k t =>
    let addr := a.get64 s k t
    let x := if w64 then b.get64 s k t else (b.get32 s k t).zeroExtend 64
    let e := (d.get64 t).extractLsb' 0 48
    if s.accordBusy k t then s.stallAt k t .accord
    else
      s.accordReach k t addr (4 * w) Need.atomic fun s set off =>
        s.accordSend k t addr set off (bytesOf (4 * w) x) (some e) (d.dests t.wb.toNat 2) (lits2 a b) m

/-! ## The coordinator (R374, R375) -/

/-- A fault found after issue (R411). -/
def State.answerFault (s : State) (k order : Nat) (i : TrapInfo) : State :=
  s.updThread k fun t => { t with pend := t.pend.map fun p =>
    if p.order = order && p.vals.isNone then { p with vals := some [], fault := some i } else p }

/-- Kind of an operation's access. -/
def AccordOp.kind (o : AccordOp) : BitVec 3 := if o.expect.isSome then 2 else 1

/-- Completes an operation: an `mcas` receives a tag and acquires at device scope (R273). -/
def State.accordDone (s : State) (o : AccordOp) (result : BitVec 64) : State :=
  match o.expect with
  | none => s.answer o.thread o.order [] 0
  | some _ =>
    let s := if (Tab.find s.threads o.thread).isSome then s.acquire o.thread .device else s
    s.answer o.thread o.order (pairWords result) 0

/-- Performs an operation over the copy that a majority gave, writing the members that answer (R374, R375). -/
def State.accordApply (s : State) (o : AccordOp) (c : Copy) : State :=
  let writes := match o.expect with | none => true | some v => decide (v.toNat = tagVersion c.tag)
  if !writes then s.accordDone o (c.tag &&& 0x7fffffffffffffff)
  else if tagVersion c.tag + 1 = 2 ^ 48 then
    s.answerFault o.thread o.order (accTrap 0x09 o.va.toNat (protDetail 0x08 o.kind) o.kind o.bytes.length)
  else
    let tag := mkTag (tagVersion c.tag + 1) o.writer
    let s := s.putCopies o.set o.line (setLive (s.setOf o.set)) { tag := tag, data := Line.put c.data o.off o.bytes }
    s.accordDone o (tag ||| 0x8000000000000000)

/-- The writing operation of a line that its coordinator serves next, the first to arrive, and the queue without it. -/
def takeOp (set line : Nat) : List AccordOp → Option (AccordOp × List AccordOp)
  | [] => none
  | o :: r =>
    if o.sent && o.set == set && o.line == line then some (o, r)
    else (takeOp set line r).map fun (x, l) => (x, o :: l)

/-- An operation has completed: its core sends the next of the line that waits there, which arrives behind the others (R371). -/
def nextSend (o : AccordOp) (l : List AccordOp) : List AccordOp :=
  let waits (x : AccordOp) : Bool := !x.sent && x.core == o.core && x.set == o.set && x.line == o.line
  match l.find? waits with
  | none => l
  | some x => l.erase x ++ [{ x with sent := true }]

/-- R374: ACCORD_COORDINATOR_SERVE: the line's first operation in arrival order; it waits while no majority answers (R377). -/
def execAccordCoordinatorServe (set line : Nat) (s : State) : Out :=
  match takeOp set line s.accordQ with
  | none => .next s
  | some (o, r) =>
    let served := { s with accordQ := nextSend o r }
    if s.linePoisoned set line then .next (served.answerFault o.thread o.order (lossTrap o.va.toNat set o.kind))
    else if s.lineWaits set line then .next s
    else
      let (s, c) := served.choose set line
      .next (s.accordApply o c)

/-- A waiting read can be answered: a majority answers for its line, or the line is poisoned (R377, R379). -/
def State.readReady (s : State) (r : AccordRead) : Bool := s.linePoisoned r.set r.line || !s.lineWaits r.set r.line

/-- A waiting `mld` or `mtag` is answered (R373, R376); of a line that has lost its majority an `mld` faults (R379). -/
def State.serveRead (s : State) (r : AccordRead) : State :=
  let s := { s with accordReads := s.accordReads.filter (· != r) }
  match r.datum with
  | none =>
    if s.linePoisoned r.set r.line then s.answer r.thread r.order (pairWords (s.poisonTag r.set r.line)) 0
    else
      let (s, c) := s.choose r.set r.line
      s.answer r.thread r.order (pairWords c.tag) 0
  | some (off, n) =>
    if s.linePoisoned r.set r.line then s.answerFault r.thread r.order (lossTrap r.va.toNat r.set 0)
    else
      let (s, c) := s.choose r.set r.line
      (s.acquire r.thread .device).answer r.thread r.order (wordsOf (Line.get c.data off n)) 0

/-- An Accord operation of an ASID on its way lies in a range of addresses (R238). -/
def State.accordUses (s : State) (asid va len : Nat) : Bool :=
  let inside (x : BitVec 64) : Bool := decide (va ≤ x.toNat ∧ x.toNat < va + len)
  (s.accordQ.any fun o => o.asid == asid && inside o.va) || s.accordReads.any fun o => o.asid == asid && inside o.va

/-! ## Losing and repairing copies (R377 to R380) -/

/-- Region pages of a set that firmware has given to ASIDs, ascending. -/
def State.accordGiven (s : State) (set : Nat) : List Nat :=
  sortNat (s.accordPages.filterMap fun (a, p, _) => if a = set then some p else none)

/-- Lines of a set that firmware has given to ASIDs, ascending. -/
def State.accordLines (s : State) (set : Nat) : List Nat :=
  (s.accordGiven set).flatMap fun p => (List.range 1024).map fun i => 1024 * p + i

/-- Marks members' copies of a line with a tag state. -/
def State.markCopies (s : State) (set line state : Nat) (ms : List Nat) : State :=
  ms.foldl (fun s m =>
    let a := s.copyTag set line m
    s.writeMem a (bytesOf 8 (BitVec.ofNat 64 (s.memNat a 8) &&& 0x0fffffffffffffff ||| BitVec.ofNat 64 (state * 2 ^ 60)))) s

/-- Every surviving copy of a set's lines is marked poisoned (R379). -/
def State.poisonSet (s : State) (set : Nat) : State :=
  (s.accordLines set).foldl (fun s line => s.markCopies set line 1 (setLive (s.setOf set))) s

/-- A member that replaces another starts with every copy in state 2, repairing, until the line is written there (R380; log 75). -/
def State.repairMember (s : State) (set m : Nat) : State :=
  (s.accordLines set).foldl (fun s line => s.markCopies set line 2 [m]) s

/-- Firmware clears a member's LIVE bit; a set without a majority loses its lines (R377, R379). -/
def State.loseMember (s : State) (set m : Nat) : State :=
  let e := s.setOf set
  if !bit e 23 || setCount e ≤ m || !bit e (24 + m) then s
  else
    let e2 := e &&& ~~~(BitVec.ofNat 64 (2 ^ (24 + m) + 2 ^ (29 + m)))
    let s := { s with sets := Store.write s.sets set e2, rebuilt := s.rebuilt.filter fun (a, b, _) => !(a == set && b == m) }
    if (setCurrent e2).length < setMajority e2 then s.poisonSet set else s

/-- R377: ACCORD_MEMBER_LOSS. -/
def execAccordMemberLoss (set member : Nat) (s : State) : Out := .next (s.loseMember set member)

/-- R378: COORDINATOR_TAKEOVER: the line's coordinator is lost and the next current member takes over; `held` are the members
that hold the write that it was serving, which is adopted; a write that none holds is sent again. -/
def execCoordinatorTakeover (set line : Nat) (held : List Nat) (s : State) : Out :=
  let e := s.setOf set
  let lost := !(setCurrent e).contains (line % setCount e)
  match takeOp set line s.accordQ with
  | none => .next s
  | some (o, r) =>
    if !lost || s.linePoisoned set line || s.lineWaits set line then .next s
    else if held.any fun m => (s.readable set line).contains m then
      let c := s.newest set line (s.readable set line)
      let writes := match o.expect with | none => true | some v => decide (v.toNat = tagVersion c.tag)
      if writes && tagVersion c.tag + 1 != 2 ^ 48 then .next (({ s with accordQ := nextSend o r }).accordApply o c) else .next s
    else .next s

/-- Lines of its set that the rebuild of a member has reached. -/
def State.rebuildDone (s : State) (set m : Nat) : Nat :=
  match s.rebuilt.find? fun (a, b, _) => a == set && b == m with
  | some (_, _, n) => n
  | none => 0

/-- The rebuild of a member takes note of a visit; REPAIR goes once every line has been written (R380). -/
def State.rebuildStep (s : State) (set line m : Nat) : State :=
  let n := s.rebuildDone set m
  let n := if (s.accordLines set)[n]? = some line then n + 1 else n
  let others := s.rebuilt.filter fun (a, b, _) => !(a == set && b == m)
  if (s.accordGiven set).length * 1024 ≤ n then
    { s with sets := Store.write s.sets set (s.setOf set &&& ~~~(BitVec.ofNat 64 (2 ^ (29 + m)))), rebuilt := others }
  else { s with rebuilt := (set, m, n) :: others }

/-- A set of which no line is given has nothing to rebuild: its REPAIR bits go. -/
def State.settleSets (s : State) : State :=
  (List.range 32).foldl (fun s set =>
    if (s.accordGiven set).isEmpty && (s.setOf set).extractLsb' 29 5 != 0 then
      { s with sets := Store.write s.sets set (s.setOf set &&& ~~~(BitVec.ofNat 64 0x3E0000000))
               rebuilt := s.rebuilt.filter fun (a, _, _) => a != set }
    else s) s

/-- R380: ACCORD_SCRUB_VISIT: the work of an `mld`, and the chosen tag and line go to every answering member. -/
def execAccordScrubVisit (set line : Nat) (s : State) : Out :=
  let e := s.setOf set
  if !bit e 23 || !(s.accordGiven set).contains (line / 1024) || s.linePoisoned set line || s.lineWaits set line then .next s
  else
    let (s, c) := s.choose set line
    let s := s.putCopies set line (setLive e) c
    let s := { s with accordBad := s.accordBad.filter fun (a, b, _) => !(a == set && b == line) }
    .next (((setLive e).filter fun m => bit e (29 + m)).foldl (fun s m => s.rebuildStep set line m) s)

end Sys2Proof.Machine
end

