-- ==== Sys2Proof/Machine/Fabric.lean ====
section
/-!
DEFINITION. The scale-up fabric: flits and links (R324 to R326), windows and counters (R327 to R329), `put`, `get` and `wcnt`
(R330 to R333) and peer launch packets (R334, R335).
-/
namespace Sys2Proof.Machine

/-! ## Flits (R324, R325) -/

/-- A flit (Table 18-1): `head` holds its virtual channel and its type. -/
def mkFlit (seq : BitVec 16) (head : BitVec 4) (payload : BitVec 1920) : BitVec 2048 :=
  let body : BitVec 2016 := payload ++ (0 : BitVec 72) ++ (0 : BitVec 4) ++ head ++ seq
  crc32c (bytesOf 252 body) ++ body

/-- Virtual channel of a flit to be sent. -/
def flitVc (head : BitVec 4) : BitVec 2 := head.extractLsb' 0 2
/-- Type of a flit: 0 data, 1 retry request, 2 credit, 3 notice. -/
def flitType (head : BitVec 4) : BitVec 2 := head.extractLsb' 2 2

/-- Link control, which needs no receive buffer: retry requests and credits (log 78). -/
def linkControl (head : BitVec 4) : Bool := flitType head == 1 || flitType head == 2

/-- The other end has a buffer for a flit (R324). -/
def Port.takes (p : Port) (head : BitVec 4) : Bool := linkControl head || decide (0 < p.room.getD (flitVc head).toNat 0)

/-- Puts a flit on the link: it is kept until it is acknowledged (R326). -/
def Port.emit (p : Port) (head : BitVec 4) (payload : BitVec 1920) : Port :=
  let f := mkFlit p.seqOut head payload
  let vc := (flitVc head).toNat
  { p with
    seqOut := p.seqOut + 1, kept := p.kept ++ [f], wire := f :: p.wire
    room := if linkControl head then p.room else p.room.set vc (p.room.getD vc 0 - 1) }

/-- Sends what waits, as far as the other end has buffers: a channel without one holds no other channel up; while the link retrains
everything waits (R324, R326). -/
def Port.pump : Nat → Port → Port
  | 0, p => p
  | fuel + 1, p =>
    if !p.up || p.retraining then p
    else
      match (p.queued.zipIdx).find? fun (x, _) => p.takes x.1 with
      | none => p
      | some ((head, payload), i) => Port.pump fuel ({ p with queued := p.queued.eraseIdx i }.emit head payload)

/-- Flits join a port's queue, and go as far as they can. -/
def Port.push (p : Port) (l : List (BitVec 4 × BitVec 1920)) : Port :=
  let p := { p with queued := p.queued ++ l }
  p.pump p.queued.length

/-- The virtual channel and the type of a message's flits (R324); none for a population's messages, whose carriage the manual does not lay
out (log 54). -/
def OutMsg.head : OutMsg → Option (BitVec 4)
  | .put _ _ _ _ => some 0
  | .get _ _ _ _ => some 0
  | .launch _ _ _ => some 0
  | .ack _ _ => some 1
  | .getData _ _ _ => some 1
  | .chunk _ _ _ _ _ => some 2
  | .notice _ _ _ => some 0xf
  | .retry _ _ => none
  | .share _ _ _ => none
  | .control _ _ _ _ => none

/-- The numbers of a message, from which its transaction header is formed, and its data. -/
def OutMsg.parts : OutMsg → List Nat × List Byte
  | .put m h o b => ([0, m, h, o.toNat, b.length], b)
  | .get m h o n => ([1, m, h, o.toNat, n], [])
  | .launch m q b => ([2, m, q, 0, b.length], b)
  | .ack m r => ([3, m, r.toNat], [])
  | .getData m r b => ([4, m, r.toNat, 0, b.length], b)
  | .chunk m r t o b => ([5, m, r, t.toNat, o, b.length], b)
  | .notice m t p => ([6, m, t.toNat, if p then 1 else 0], [])
  | _ => ([], [])

/-- Payloads of a transaction's flits (R325): the 32-byte header, then the data, in pieces of 240 bytes. -/
def OutMsg.payloads (m : OutMsg) : List (BitVec 1920) :=
  let b := bytesOf 32 (Config.txHeader m.parts.1) ++ m.parts.2
  (chunksOf 240 ((b.length + 239) / 240) b).map (valOf 1920)

/-- Ports of a die that are up; the other dies' where it has none (R326). -/
def State.upPorts (s : State) (die : Nat) : List Nat :=
  let up (p : Nat) : Bool := match Tab.find s.ports p with | some p => p.up | none => false
  let own := ((List.range 9).map fun j => 9 * die + j).filter up
  if own.isEmpty then (List.range 36).filter up else own

/-- A message leaves by a port of a die: the port, where one is up. -/
def State.sendBy (s : State) (die : Nat) (m : OutMsg) : State × Nat :=
  let ports := s.upPorts die
  let (j, s) := s.pick ports.length
  let port := ports.getD j 0
  let s := { s with outbox := m :: s.outbox }
  match m.head with
  | none => (s, port)
  | some head =>
    if ports.isEmpty then (s, port)
    else ({ s with ports := Tab.upd s.ports port fun p => p.push (m.payloads.map fun x => (head, x)) }, port)

/-- A message leaves by a port of a die. -/
def State.send (s : State) (die : Nat) (m : OutMsg) : State := (s.sendBy die m).1

/-! ## Windows and timelines -/

/-- A fabric trap (R332): the access of a put or get has the size of Table 12-6. -/
def fabricTrap (reason module handle addr : Nat) (kind : BitVec 3) : TrapInfo :=
  { cause := 0x14, addr := BitVec.ofNat 64 addr, detail := BitVec.ofNat 32 (reason + 256 * (module % 512) + 2 ^ 20 * (handle % 4096)),
    kind := kind, size := if kind = 0 then 0 else 6 }

/-- A window of an ASID on this module. -/
def State.windowOf (s : State) (asid h : Nat) : Option Window :=
  match Tab.find s.windows h with
  | some w => if w.asid = asid then some w else none
  | none => none

/-- A command of the port timeline completes (R132, R330). -/
def State.portEnd (s : State) (tx : FabricTx) : State :=
  (s.updAsid tx.asid fun a => { a with portDone := Tab.put a.portDone tx.die (addDone (Tab.getD a.portDone tx.die []) tx.n) }).timelineSettle

/-- A put or get completes, with a fault or without (R331, R332); one whose fault becomes a record waits until the queue has room for it
(R134, R239). -/
def State.endTx (s : State) (i : Nat) (tx : FabricTx) (fault : Option TrapInfo) : State :=
  if s.tokenWaits tx.thread fault then { s with txs := Tab.put s.txs i { tx with fault := fault, stalled := none } }
  else
    let s := { s with txs := Tab.del s.txs i }
    (s.writeToken tx.thread tx.tok tx.n tx.pc fault 0).portEnd tx

/-- Trap of a remote reason: for reasons 0x03 to 0x05 it reports the access at the target offset, which a put writes and a get reads; for the
others its address is 0 and its kind that of the command's local access (R279, R332, log 72). -/
def remoteFault (tx : FabricTx) (reason : Nat) : TrapInfo :=
  let get := tx.kind == 1
  if 3 ≤ reason ∧ reason ≤ 5 then fabricTrap reason tx.module tx.handle tx.offset.toNat (if get then 4 else 5)
  else fabricTrap reason tx.module tx.handle 0 (if get then 5 else 4)

/-- Adds to a window's origin counter (R329). -/
def State.addOrigin (s : State) (h n : Nat) : State :=
  { s with windows := Tab.upd s.windows h fun w => { w with origin := w.origin + BitVec.ofNat 64 n } }

/-! ## The target's side (R328, R329, R331, R335) -/

/-- The physical ranges of an agent's access to memory of an ASID: pages that are not resident become so first, shared pages are copied
first (R328), and the record of a malformed entry goes to the agent's die with the size of its accesses, 64 bytes at most (R239, R240). -/
def State.targetPlaces (s : State) (asid die : Nat) (d : Need) : Nat → Nat → Nat → State × Option (List (Nat × Nat))
  | 0, _, _ => (s, some [])
  | fuel + 1, va, n =>
    if n = 0 then (s, some [])
    else
      let m := min n (65536 - va % 65536)
      match s.fwReach asid die va (min m 64) d with
      | (s, .error _) => (s, none)
      | (s, .ok pa) =>
        match State.targetPlaces s asid die d fuel (va + m) (n - m) with
        | (s, some r) => (s, some ((pa, m) :: r))
        | x => x

/-- The checks of a put or get at its target: the reason, or the ranges.  No rule names the port, and so the die, by which it comes: a record
of a malformed entry goes to die 0 (log 86). -/
def State.targetCheck (s : State) (x : PeerTx) (get : Bool) : State × Except Nat (List (Nat × Nat)) :=
  match Tab.find s.windows x.handle with
  | none => (s, .error 3)
  | some w =>
    if !(if get then w.canGet else w.canPut) then (s, .error 3)
    else if w.len < x.offset + x.len then (s, .error 4)
    else
      match s.targetPlaces w.asid 0 (if get then Need.engineRead else Need.engineWrite) (x.len / 65536 + 2) (w.base.toNat + x.offset) x.len with
      | (s, none) => (s, .error 5)
      | (s, some l) => (s, .ok l)

/-- A put at its target: the reason of a fault, 0 where it was performed and counted. -/
def State.targetPut (s : State) (x : PeerTx) : State × Nat :=
  match s.targetCheck x false with
  | (s, .error r) => (s, r)
  | (s, .ok l) =>
    let s := s.putRanges l x.bytes
    ({ s with windows := Tab.upd s.windows x.handle fun w => { w with target := w.target + BitVec.ofNat 64 x.len } }, 0)

/-- A get at its target: the reason of a fault, or the bytes, each read at its home.  Poisoned bytes are not sent: no context of this module
consumes them, and the get takes reason 0x05 with a record of the poison (DESIGN CHOICE, log 81). -/
def State.targetGet (s : State) (x : PeerTx) : State × Except Nat (List Byte) :=
  match s.targetCheck x true with
  | (s, .error r) => (s, .error r)
  | (s, .ok l) =>
    if l.any fun (pa, m) => s.poisoned pa m then
      match Tab.find s.windows x.handle with
      | some w => (s.pushRec 0 (mkRecord (w.base + BitVec.ofNat 64 x.offset) 0 w.asid 0x09 4 false 6 0x3ff 0 0xff 0x0a), .error 5)
      | none => (s, .error 5)
    else (s, .ok (l.flatMap fun (pa, m) => s.readMem pa m))

/-- A get of another module is answered, or waits here (R239). -/
def State.getReceive (s : State) (tx : PeerTx) : State :=
  match s.targetGet tx with
  | (t, .error r) =>
    if t.starved then { s.waiting t with delayed := s.delayed ++ [{ tx with bytes := [] }] }
    else t.send 0 (.getData tx.origin (BitVec.ofNat 8 r) [])
  | (t, .ok b) => t.send 0 (.getData tx.origin 0 b)

/-- A put of another module is performed and acknowledged, or waits here for the frame that it needs (R236). -/
def State.putReceive (s : State) (tx : PeerTx) : State :=
  let (t, r) := s.targetPut tx
  if t.starved then { s.waiting t with delayed := s.delayed ++ [tx] }
  else t.send 0 (.ack tx.origin (BitVec.ofNat 8 r))

/-- R331: PUT_TARGET_RECEIVE: the acknowledgement follows the count. -/
def execPutTargetReceive (tx : PeerTx) (s : State) : Out :=
  if tx.bytes.length ≠ tx.len then .next s else .next (s.putReceive tx)

/-- A put or get that waits is tried again: the first for which there is room now. -/
def State.retryPuts (s : State) : Option State :=
  (List.range s.delayed.length).findSome? fun i =>
    match s.delayed[i]? with
    | none => none
    | some tx =>
      let rest := s.delayed.eraseIdx i
      let t := if tx.bytes.length = tx.len then ({ s with delayed := rest }).putReceive tx else ({ s with delayed := rest }).getReceive tx
      if t.delayed = rest then some t else none

/-- R331: GET_TARGET_READ. -/
def execGetTargetRead (tx : PeerTx) (s : State) : Out := if tx.len = 0 then .next s else .next (s.getReceive tx)

/-- An access-control entry admits an origin to a queue (R335). -/
def aclAdmits (e : BitVec 64) (origin queue asid : Nat) : Bool :=
  bit e 37 && bit e 36 && decide ((e.extractLsb' 24 10).toNat = asid) && decide ((e.extractLsb' 12 12).toNat = queue) &&
    (bit e 9 || decide ((e.extractLsb' 0 9).toNat = origin))

/-- A peer's packet at its queue (R335): written whole into the next empty slot, or dropped with a record.  Where no such queue is, the
record goes to die 0 with address 0 and ASID 0 (log 72). -/
def State.peerLaunch (s : State) (origin queue : Nat) (bytes : List Byte) : State :=
  let (asid, va, die) := match Tab.find s.queues queue with
    | some q => (q.asid, q.va, q.die)
    | none => (0, 0, 0)
  let drop : State := s.pushRec die (mkRecord va 0 asid 0x14 6 false 7 0x3ff 0 0xff (BitVec.ofNat 32 (origin % 512)))
  match Tab.find s.queues queue with
  | none => drop
  | some q =>
    if q.closed || q.collective || !s.access.any (fun (i, e) => decide (i < 4096) && aclAdmits e origin queue q.asid) then drop
    else
      match (List.range 512).find? fun j => (Tab.find q.written ((q.next + j) % 512)).isNone with
      | none => drop
      | some j =>
        let q := q.write ((bytes.zipIdx).map fun (x, i) => (128 * ((q.next + j) % 512) + i, x)) none
        ({ s with queues := Tab.put s.queues queue q }).acceptAll queue 512

/-- R335: PEER_LAUNCH_RECEIVE: the origin's token is written in every case. -/
def execPeerLaunchReceive (origin queue : Nat) (bytes : List (BitVec 8)) (s : State) : Out :=
  if bytes.length ≠ 128 then .next s
  else
    .next ((s.peerLaunch origin queue bytes).send 0 (.ack origin 0))

/-! ## The origin's side (R331, R332) -/

/-- Writes bytes of a get line by line at local addresses. -/
def State.engWrites (s : State) (blk : Nat) : Nat → Nat → List Byte → State × Option Stop
  | 0, _, _ => (s, none)
  | fuel + 1, addr, b =>
    if b.isEmpty then (s, none)
    else
      let m := 64 - addr % 64
      match s.engWrite blk addr (b.take m) with
      | (s, some x) => (s, some x)
      | (s, none) => State.engWrites s blk fuel (addr + m) (b.drop m)

/-- A local access of a put or get stops (R332): a miss stalls it with a replayable record. -/
def State.txStop (s : State) (i : Nat) (tx : FabricTx) (x : Stop) : State :=
  match x with
  | .absent va kind _ =>
    let r := s.threadRec tx.thread { accTrap 0x08 va 0 kind 64 with size := 6 } tx.pc true
    let die := dieOf (s.coreOf tx.thread)
    match (if (Tab.getD s.recWait die []).isEmpty then s.appendRec die r else none) with
    | some (s, n) => { s with txs := Tab.put s.txs i { tx with stalled := some (die, n) } }
    | none => s
  | .copy va =>
    s.askCopy tx.asid va
  | .trap f => s.endTx i tx (some { f with size := 6 })
  | .malformed f =>
    match s.tryRec tx.die (mkRecord f.addr 0 tx.asid 0x09 f.kind false 6 (s.coreOf tx.thread) 0 0xff 0x02) with
    | some s => s.endTx i tx (some { f with size := 6 })
    | none => s
  | .poison va =>
    s.consumePoison (s.block (blkOf tx.thread)).ctx (s.threadRec tx.thread { accTrap 0x09 va 0x0a 4 64 with size := 6 } tx.pc false)
  | .fence d => s.fence d
  | .keyless va kind _ => s.killCtx (s.block (blkOf tx.thread)).ctx
      (some (s.threadRec tx.thread { accTrap 0x09 va 0x0c kind 64 with size := 6 } tx.pc false))

/-- The bytes of a get land (R329, R331). -/
def State.txLand (s : State) (i : Nat) (tx : FabricTx) (b : List Byte) : State :=
  match Tab.find s.blocks (blkOf tx.thread) with
  | none => s.endTx i tx none
  | some _ =>
    match s.engWrites (blkOf tx.thread) (tx.len / 64 + 2) tx.local_.toNat b with
    | (s, some x) => ({ s with txs := Tab.put s.txs i { tx with data := some b } }).txStop i { tx with data := some b } x
    | (s, none) => (s.addOrigin tx.handle tx.len).endTx i tx none

/-- A put or get with its module's own number is performed over the internal path (R327). -/
def State.txOwn (s : State) (i : Nat) (tx : FabricTx) (b : List Byte) : State :=
  let own := s.module.getD 0
  let x : PeerTx := { origin := own, handle := tx.handle, offset := tx.offset.toNat, len := tx.len, bytes := b }
  if tx.kind = 2 then (s.peerLaunch own tx.handle b).endTx i tx none
  else if tx.kind = 1 then
    match s.targetGet x with
    | (t, .error r) => if t.starved then s.waiting t else t.endTx i tx (some (remoteFault tx r))
    | (t, .ok b) => t.txLand i tx b
  else
    match s.targetPut x with
    | (t, 0) => (t.addOrigin tx.handle tx.len).endTx i tx none
    | (t, r) => if t.starved then s.waiting t else t.endTx i tx (some (remoteFault tx r))

/-- The port sequencer runs a put or get as far as it goes: it reads the source and sends the request, or lands what has come. -/
def State.txRun (s : State) (i : Nat) : State :=
  match Tab.find s.txs i with
  | none => s
  | some tx =>
    if tx.stalled.isSome then s
    else if tx.fault.isSome then s.endTx i tx tx.fault
    else
      match tx.data with
      | some b => s.txLand i tx b
      | none =>
        if tx.sent then s
        else
          let own := s.module == some tx.module
          if !own && (!s.domain.contains tx.module || (s.upPorts tx.die).isEmpty) then s.endTx i tx (some (remoteFault tx 2))
          else
            match (if tx.kind = 1 then (s, .ok []) else s.engRead (blkOf tx.thread) (tx.len / 64 + 2) tx.local_.toNat tx.len) with
            | (s, .error x) => s.txStop i tx x
            | (s, .ok b) =>
              if own then s.txOwn i tx b
              else
                let msg : OutMsg := if tx.kind = 0 then .put tx.module tx.handle tx.offset b
                  else if tx.kind = 1 then .get tx.module tx.handle tx.offset tx.len
                  else .launch tx.module tx.handle b
                let (s, port) := s.sendBy tx.die msg
                { s with txs := Tab.put s.txs i { tx with sent := true, port := port } }

/-- A local address of a put or get selects a window that is allowed (R331). -/
def localOk (a : Nat) : Bool := decide (a < 2 ^ 57) || a / 2 ^ 56 == 0xF0 || a / 2 ^ 56 == 0xF2

/-- Issue of a put or get (R330, R331): `kind` is 0 put, 1 get, 2 launch put.  A cause 0x14 here reports no access (log 72). -/
def portWith (d : Dst) (a : Src) (b : Option Src) (kind : Nat) (m : Bool) (s : State) : Out :=
  let flds := match b with | some b => [ftok d 2, fa a 4, fb b 2] | none => [ftok d 2, fa a 4]
  let lits := match b with | some b => lits2 a b | none => lits1 a
  s.issue { illegal := inRelaunch s, role := 0, flds := flds, rel := true } fun k t =>
    let w := a.get128 t
    let addr : Pair := w.getD 1 0 ++ w.getD 0 0
    let len := (w.getD 2 0).toNat
    let x := w.getD 3 0
    let module := (x.extractLsb' 0 9).toNat
    let handle := (x.extractLsb' 16 12).toNat
    let offset := match b with | some b => b.get64 s k t | none => 0
    let g := s.agent k
    if x.extractLsb' 9 7 != 0 || x.extractLsb' 28 4 != 0 || len == 0 || decide (2 ^ 24 < len) || (kind == 2 && len != 128) then
      s.trapAt k t (fabricTrap 7 module handle addr.toNat 0)
    else if kind ≠ 2 ∧ (s.windowOf g.asid handle).isNone then s.trapAt k t (fabricTrap 1 module handle 0 0)
    else if !localOk addr.toNat then s.trapAt k t (accTrap 0x07 addr.toNat 0 (if kind = 1 then 5 else 4) 64)
    else
      let n := (match Tab.find s.asids g.asid with | some y => Tab.getD y.portN g.die 0 | none => 0) + 1
      let tok := tokReg d t.wb.toNat
      let tx : FabricTx :=
        { thread := k, die := g.die, asid := g.asid, tok := tok.getD 0, pc := t.pc, n := n, kind := kind, local_ := addr, len := len,
          module := module, handle := handle, offset := offset, sent := false, port := 0, stalled := none, data := none, fault := none }
      let i := s.ticket
      let s := (s.drain k).updAsid g.asid fun y => { y with portN := Tab.put y.portN g.die n }
      let s := { s with ticket := i + 1, txs := Tab.put s.txs i tx }
      (s.retire k (pendTok t tok) lits m).txRun i

/-- R331: `put` f = 0. -/
def execPutWin (d : Dst) (a b : Src) (m : Bool) (s : State) : Out := portWith d a (some b) 0 m s
/-- R335: `put` f = 1. -/
def execPutLaunch (d : Dst) (a : Src) (m : Bool) (s : State) : Out := portWith d a none 2 m s
/-- R331: `get`. -/
def execGet (d : Dst) (a b : Src) (m : Bool) (s : State) : Out := portWith d a (some b) 1 m s

/-- R329: PUT_ACK_RECEIVE. -/
def execPutAckReceive (tx : Nat) (reply : PeerReply) (s : State) : Out :=
  match Tab.find s.txs tx with
  | none => .next s
  | some x =>
    if x.kind = 1 || !x.sent || x.fault.isSome then .next s
    else
      match reply with
      | .ok => .next ((if x.kind = 0 then s.addOrigin x.handle x.len else s).endTx tx x none)
      | .reason r => .next (s.endTx tx x (if x.kind = 2 then none else some (remoteFault x r.toNat)))

/-- R329: GET_DATA_LAND. -/
def execGetDataLand (tx : Nat) (reply : PeerReply) (bytes : List (BitVec 8)) (s : State) : Out :=
  match Tab.find s.txs tx with
  | none => .next s
  | some x =>
    if x.kind ≠ 1 || !x.sent || x.data.isSome || x.fault.isSome then .next s
    else
      match reply with
      | .reason r => .next (s.endTx tx x (some (remoteFault x r.toNat)))
      | .ok => if bytes.length = x.len then .next (s.txLand tx x bytes) else .next s

/-! ## wcnt (R333) -/

/-- The counter of a window that a `wcnt` form names. -/
def Window.counter (w : Window) (target : Bool) : Pair := if target then w.target else w.origin

/-- A `wcnt` on a window of the thread's ASID. -/
def wcntWith (d : Dst) (a : Src) (flds : List Fld) (go : State → Nat → Thread → Nat → Window → State) (s : State) : Out :=
  s.issue (Req.any (fd d 2 :: fa a 1 :: flds)) fun k t =>
    let h := (a.get32 s k t).toNat
    match (if h < 4096 then s.windowOf (s.ctxOf k).asid h else none) with
    | none => s.trapAt k t (fabricTrap 1 0 h 0 0)
    | some w => go s k t h w

/-- The reading forms: they order nothing. -/
def wcntRead (d : Dst) (a : Src) (target m : Bool) (s : State) : Out :=
  wcntWith d a [] (fun s k t _ w =>
    s.finishV k t (d.dests t.wb.toNat 2) (some (pairWords (w.counter target))) 0 false none (lits1 a) m) s

/-- The waiting forms: a completed one acquires at device scope. -/
def wcntWait (d : Dst) (a b : Src) (target m : Bool) (s : State) : Out :=
  wcntWith d a [fb b 2] (fun s k t h w =>
    if (b.get64 s k t).toNat ≤ (w.counter target).toNat then
      (s.acquire k .device).finishV k { t with stall := none } (d.dests t.wb.toNat 2) (some (pairWords (w.counter target))) 0 false none
        (lits2 a b) m
    else s.stallAt k t (.wcnt h) (regsOf [fd d 2, fa a 1, fb b 2] t)) s

/-- R333: `wcnt` rdo. -/
def execWcntRdo (d : Dst) (a : Src) (m : Bool) (s : State) : Out := wcntRead d a false m s
/-- R333: `wcnt` rdt. -/
def execWcntRdt (d : Dst) (a : Src) (m : Bool) (s : State) : Out := wcntRead d a true m s
/-- R333: `wcnt` wto. -/
def execWcntWto (d : Dst) (a b : Src) (m : Bool) (s : State) : Out := wcntWait d a b false m s
/-- R333: `wcnt` wtt. -/
def execWcntWtt (d : Dst) (a b : Src) (m : Bool) (s : State) : Out := wcntWait d a b true m s

/-- R333: COUNTER_WAIT_TIMEOUT. -/
def execCounterWaitTimeout (th : Nat) (s : State) : Out :=
  match Tab.find s.threads th with
  | none => .next s
  | some t =>
    match t.stall with
    | some (.wcnt h, since) =>
      if s.clock - since ≤ (s.ctxOf th).limit then .next s
      else .next (s.trapAt th { t with stall := none } (fabricTrap 8 0 h 0 0))
    | _ => .next s

/-! ## Links (R325, R326) -/

/-- Sequence number of a flit. -/
def flitSeq (f : BitVec 2048) : BitVec 16 := f.extractLsb' 0 16

/-- Every kept flit before a sequence number has been acknowledged (log 78). -/
def Port.acked (p : Port) (seq : BitVec 16) : Port :=
  if p.kept.any fun f => flitSeq f == seq then { p with kept := p.kept.dropWhile fun f => flitSeq f != seq }
  else if seq == p.seqOut then { p with kept := [] } else p

/-- A retry request arrives (R326): the flits from the one it names on are sent again; the sender counts how often in a row the other end
asks for the same flit (log 78). -/
def Port.resend (p : Port) (seq : BitVec 16) : Port :=
  let p := p.acked seq
  let times := match p.asked with | some (q, n) => if q == seq then n + 1 else 1 | none => 1
  { p with wire := p.kept.reverse ++ p.wire, asked := some (seq, times) }

/-- A credit flit arrives (R324): buffers are free again at the other end, and flits before its sequence number have been accepted. -/
def Port.credit (p : Port) (payload : BitVec 1920) : Port :=
  let p := p.acked (Config.creditSeq payload)
  { p with room := (p.room.zipIdx).map fun (n, vc) => n + (Config.creditRoom payload (BitVec.ofNat 2 vc)).toNat }

/-- A flit is accepted (R324 to R326): it takes its effect by its type, and a data flit or a notice is handed on, which frees its buffer
again.  Reserved bits are not looked at (log 78). -/
def Port.accept (p : Port) (flit : BitVec 2048) : Port :=
  let head : BitVec 4 := flit.extractLsb' 16 4
  let payload : BitVec 1920 := flit.extractLsb' 96 1920
  let p := { p with expect := p.expect + 1, fails := 0, inbox := (flitVc head, payload) :: p.inbox.filter fun x => x.1 != flitVc head }
  if flitType head = 1 then p.resend (Config.retrySeq payload)
  else if flitType head = 2 then (p.credit payload).push []
  else p.push [(0xb, Config.creditPayload p.expect (flitVc head))]

/-- A flit is not accepted and a retry request asks for the one expected (R326): where its CRC fails, that one has failed once more; one that is
only out of sequence has not. -/
def Port.reject (p : Port) (failed : Bool) : Port :=
  ({ p with fails := if failed then p.fails + 1 else p.fails } : Port).push [(0x7, Config.retryPayload p.expect)]

/-- R326: FLIT_RECEIVE: a flit whose CRC matches and whose sequence number is the next one is accepted; otherwise a retry
request goes out. -/
def execFlitReceive (port : Nat) (flit : BitVec 2048) (s : State) : Out :=
  match Tab.find s.ports port with
  | none => .next s
  | some p =>
    if !p.up || p.retraining then .next s
    else
      let sound := crc32c (bytesOf 252 flit) == flit.extractLsb' 2016 32
      if sound && flitSeq flit == p.expect then .next { s with ports := Tab.put s.ports port (p.accept flit) }
      else .next { s with ports := Tab.put s.ports port (p.reject !sound), outbox := .retry port p.expect :: s.outbox }

/-- A flit of this end has failed 16 times in a row at the other end. -/
def Port.worn (p : Port) : Bool := match p.asked with | some (_, n) => decide (16 ≤ n) | none => false

/-- R326: LINK_RETRAIN: after 16 failures in a row of a flit at either end. -/
def execLinkRetrain (port : Nat) (s : State) : Out :=
  match Tab.find s.ports port with
  | none => .next s
  | some p =>
    if p.up && !p.retraining && (decide (16 ≤ p.fails) || p.worn) then
      .next { s with ports := Tab.put s.ports port { p with retraining := true } }
    else .next s

/-- A port is down: what it had not delivered is lost, and puts and gets that had flits on it fault (R326). -/
def State.portDown (s : State) (port : Nat) : State :=
  let s := { s with ports := Tab.upd s.ports port fun p => { p with up := false, retraining := false, queued := [], kept := [] } }
  (s.txs.filter fun (_, tx) => tx.sent && tx.data.isNone && tx.fault.isNone && tx.port == port).foldl (fun s (i, tx) => s.endTx i tx (some (remoteFault tx 6))) s

/-- R326: LINK_RETRAINING_END: traffic resumes, or the port is down. -/
def execLinkRetrainingEnd (port : Nat) (ok : Bool) (s : State) : Out :=
  match Tab.find s.ports port with
  | none => .next s
  | some p =>
    if !p.retraining then .next s
    else if ok then .next { s with ports := Tab.put s.ports port (({ p with retraining := false, fails := 0, asked := none } : Port).push []) }
    else .next (s.portDown port)

end Sys2Proof.Machine
end

