-- ==== Sys2Proof/Machine/Collectives.lean ====
section
/-!
DEFINITION. Collectives: start records (R337), the chunk operations of a schedule (R336, R338, R339), traces (R340), switch
reduction (R341), the end of a collective (R342) and absence (R343).
-/
namespace Sys2Proof

/-- Reduction slots of a schedule, ascending. -/
def Schedule.slots (s : Schedule) : List Nat :=
  sortNat (s.ops.filterMap fun o => match o.kind with | .reduce n => some n | _ => none)

/-- An operation is a `recv`. -/
def SchedOp.isRecv (o : SchedOp) : Bool := match o.kind with | .recv _ _ => true | _ => false

end Sys2Proof

namespace Sys2Proof.Machine

/-! ## Status bits (R342) -/

/-- FALLBACK. -/
def collFallback : BitVec 6 := 1
/-- ORDDEP. -/
def collOrddep : BitVec 6 := 2
/-- ABSENT. -/
def collAbsent : BitVec 6 := 4
/-- TIMEOUT. -/
def collTimeout : BitVec 6 := 8
/-- MISMATCH. -/
def collMismatch : BitVec 6 := 16
/-- FAULT. -/
def collFault : BitVec 6 := 32

/-- RECORD, REPLAY and ENDPOINT of a start record. -/
def Collective.record (c : Collective) : Bool := c.flags.getLsbD 0 && c.trace != 0
/-- REPLAY. -/
def Collective.replay (c : Collective) : Bool := c.flags.getLsbD 1
/-- ENDPOINT. -/
def Collective.endpoint (c : Collective) : Bool := c.flags.getLsbD 2

/-! ## A sequencer's accesses -/

/-- Reads bytes of the ASID's memory, none on a fault; `die` is the serving die. -/
def State.collRead (s : State) (asid die addr n : Nat) : State × Option (List Byte) :=
  if !isGlobal (addr + n - 1) then (s, none)
  else
    match s.targetPlaces asid die Need.engineRead (n / 65536 + 2) addr n with
    | (s, none) => (s, none)
    | (s, some l) => if l.any fun (pa, m) => s.poisoned pa m then (s, none) else (s, some (l.flatMap fun (pa, m) => s.readMem pa m))

/-- Writes bytes of the ASID's memory; false on a fault, which writes nothing. -/
def State.collWrite (s : State) (asid die addr : Nat) (b : List Byte) : State × Bool :=
  if !isGlobal (addr + b.length - 1) then (s, false)
  else
    match s.targetPlaces asid die Need.engineWrite (b.length / 65536 + 2) addr b.length with
    | (s, none) => (s, false)
    | (s, some l) => (s.putRanges l b, true)

/-- Address of an operand: an offset from a base of the base table. -/
def Collective.at_ (c : Collective) (x : Nat × Nat) : Nat := (c.bases.getD x.1 0).toNat + x.2

/-! ## Traces and the end (R340, R342) -/


/-- The bytes of a trace. -/
def traceBytes (slots : List Nat) (order : Tab (List Nat)) : List Byte :=
  slots.flatMap fun n => let l := Tab.getD order n []; natBytes 2 l.length ++ l.flatMap (natBytes 2)

/-- The ranks that a trace in memory names for a slot: the slots before it are passed over. -/
def State.traceOf (s : State) (asid die : Nat) : List Nat → Nat → Nat → State × Option (List Nat)
  | [], _, _ => (s, none)
  | n :: r, addr, slot =>
    match s.collRead asid die addr 2 with
    | (s, none) => (s, none)
    | (s, some b) =>
      let count := natOf b
      if n = slot then
        if count = 0 then (s, some [])
        else
          match s.collRead asid die (addr + 2) (2 * count) with
          | (s, none) => (s, none)
          | (s, some b) => (s, some ((chunksOf 2 count b).map natOf))
      else State.traceOf s asid die r (addr + 2 + 2 * count) slot

/-- A collective ends (R342): the trace, the status word, then the completion value or its complement. -/
def State.endColl (s : State) (i : Nat) (bits : BitVec 6) : State :=
  match Tab.find s.colls i with
  | none => s
  | some c =>
    let bits := c.bits ||| bits
    let s := { s with colls := Tab.del s.colls i }
    let s := if c.record then
        match Tab.find s.scheds c.handle with
        | some x => (s.collWrite c.asid c.die c.trace.toNat (traceBytes x.sched.slots c.order)).1
        | none => s
      else s
    let s := if c.status = 0 then s else (s.collWrite c.asid c.die c.status.toNat (bytesOf 8 (bits.zeroExtend 64))).1
    s.completionWrite c.asid c.die c.completion (if bits.extractLsb' 3 3 = 0 then c.value else ~~~c.value) (c.tag.extractLsb' 0 32)

/-! ## Starts (R337, Table 18-5) -/

/-- The order of combining decides the bits of an element type (Table 18-6). -/
def orderDependent (ety : Nat) : Bool := ety == 4 || ety == 7 || ety == 0x12 || ety == 0x13

/-- A start record. -/
def parseStart (b : List Byte) (asid die : Nat) (owner : Option Nat) : Collective :=
  let step := field b 0x3c 4
  { asid := asid, handle := field b 0 8, tag := BitVec.ofNat 64 (field b 8 8), bases := [], trace := BitVec.ofNat 64 (field b 0x18 8),
    status := BitVec.ofNat 64 (field b 0x20 8), completion := BitVec.ofNat 64 (field b 0x28 8), value := BitVec.ofNat 64 (field b 0x30 8),
    flags := BitVec.ofNat 32 (field b 0x38 4), stepMs := if step = 0 then 100 else step, owner := owner, die := die, deps := [], done := [],
    waiting := [], staging := [], order := [], bits := 0, absent := [], reserved := false }


/-- A start record is accepted: its instance begins, or ends at once with FAULT. -/
def State.startColl (s : State) (c : Collective) (base : Nat) (reserved : Bool) : State :=
  let i := s.ticket
  let s := { s with ticket := i + 1 }
  let fail (s : State) : State := ({ s with colls := Tab.put s.colls i c }).endColl i collFault
  match Tab.find s.scheds c.handle with
  | none => fail s
  | some x =>
    if x.asid ≠ c.asid || reserved then fail s
    else
      match s.collRead c.asid c.die base 128 with
      | (s, none) => fail s
      | (s, some b) =>
        let ops := x.sched.ops.zipIdx
        let asks := ops.filter fun (o, _) => !c.endpoint && o.switch
        let exact (o : SchedOp) : Bool := decide (1 ≤ o.ety) && decide (o.ety ≤ 3)
        let c := { c with
          bases := (chunksOf 8 16 b).map (valOf 64)
          deps := ops.foldl (fun m (o, n) => if o.deps = 0 then m else Tab.put m n o.deps) []
          waiting := ops.foldl (fun m (o, n) => if o.isRecv && o.deps == 0 then Tab.put m n s.clock else m) []
          bits := if asks.all fun (o, _) => exact o then 0 else collFallback
          reserved := asks.any fun (o, _) => exact o }
        { s with colls := Tab.put s.colls i c
                 fused := if (Store.read s.fused 2).ult x.version then Store.write s.fused 2 x.version else s.fused }

/-- Accepts complete slots of a collective queue window in circular order, up to one that ends at once with writes that wait for a frame
(R236). -/
def State.acceptColls (s : State) (w : Nat) : Nat → State
  | 0 => s
  | fuel + 1 =>
    match Tab.find s.queues w with
    | none => s
    | some q =>
      if !q.collective || q.closed || !q.full q.next then s
      else
        let slot := q.next
        let b := Store.reads q.bytes (128 * slot) 128
        let q2 := { q with bytes := Store.clear q.bytes (128 * slot) 128, written := Tab.del q.written slot, owners := Tab.del q.owners slot,
                           next := (slot + 1) % 512, accepted := q.accepted + 1 }
        let c := parseStart b q.asid q.die (Tab.find q.owners slot)
        let bad := decide (8 ≤ field b 0x38 4) || !zeroField b 0x40 64
        let t := ({ s with queues := Tab.put s.queues w q2 }).startColl c (field b 0x10 8) bad
        if t.starved then s.waiting t else t.acceptColls w fuel

/-- R337: COLLECTIVE_START_ACCEPT: a write into a collective queue window, or no byte at all: complete slots are accepted. -/
def execCollectiveStartAccept (w off : Nat) (bytes : List (BitVec 8)) (owner : Option Nat) (s : State) : Out :=
  match Tab.find s.queues w with
  | none => .next s
  | some q =>
    let cells := (bytes.zipIdx).filterMap fun (b, i) => if off + i < 65536 then some (off + i, b) else none
    .next (({ s with queues := Tab.put s.queues w (q.write cells owner) }).acceptColls w 512)

/-! ## Chunk operations (R336) -/

/-- An operation completes: its successors' counters fall, and a `recv` whose counter is 0 starts to wait. -/
def State.opDone (s : State) (i op : Nat) (o : SchedOp) (sched : Schedule) : State :=
  { s with colls := Tab.upd s.colls i fun c =>
      let deps := o.succ.foldl (fun m n => if Tab.getD m n 0 ≤ 1 then Tab.del m n else Tab.put m n (Tab.getD m n 0 - 1)) c.deps
      let fresh := o.succ.filter fun n => Tab.getD deps n 0 == 0 && (match sched.ops[n]? with | some x => x.isRecv | none => false)
      { c with done := op :: c.done, deps := deps, waiting := fresh.foldl (fun m n => Tab.put m n s.clock) (Tab.del c.waiting op) } }

/-- Runs an operation of an instance that is ready; where one of its accesses waits for a frame (R236) it is tried again. -/
def opRun (i op : Nat) (go : State → Collective → LoadedSched → SchedOp → State) (s : State) : Out :=
  match Tab.find s.colls i with
  | none => .next s
  | some c =>
    match Tab.find s.scheds c.handle with
    | none => .next s
    | some x =>
      match x.sched.ops[op]? with
      | none => .next s
      | some o => if c.done.contains op || Tab.getD c.deps op 0 != 0 then .next s else s.unlessStarved (go s c x o)

/-- Packs a sender's values with their residuals (R339): the bytes and the new residuals. -/
def packResidual (f : BlkFmt) : Nat → List Word → List Word → List Byte × List Word
  | 0, _, _ => ([], [])
  | fuel + 1, xs, rs =>
    if xs.isEmpty then ([], [])
    else
      let ys := (xs.zip rs).map fun (x, r) => addW x r
      let g := ys.take f.count
      let full := (g ++ List.replicate (f.count - g.length) 0).map fp32
      let l := (packGroup f full false).1
      let kind := match checkBlock l false with | .ok b => b | .error _ => .zero
      let res := (g.zipIdx).map fun (y, i) => BitVec.ofNat 32 (fsub Fmt.fp32 .rn (fp32 y) (blockElem l kind i)).bits
      let (b, r) := packResidual f fuel (xs.drop f.count) (rs.drop f.count)
      (Line.get l 0 64 ++ b, res ++ r)

/-- The block format of an element type that is sent packed. -/
def packedType (ety : Nat) : Option BlkFmt := if ety = 0x12 then some .s6 else if ety = 0x13 then some .s12 else none

/-- R336: SCHEDULE_SEND. -/
def execScheduleSend (inst op : Nat) (s : State) : Out :=
  opRun inst op (fun s c x o =>
    match o.kind with
    | .send peer =>
      let addr := c.at_ o.src
      match s.collRead c.asid c.die addr o.len with
      | (s, none) => s.endColl inst collFault
      | (s, some b) =>
        let (s, b) : State × List Byte := match packedType o.ety with
          | none => (s, b)
          | some f =>
            let xs := wordsOf b
            let rs := match x.residuals.find? fun (a, d, _) => a == op && d == addr with
              | some (_, _, r) => r
              | none => List.replicate xs.length 0
            let (b, r) := packResidual f (xs.length + 1) xs rs
            let keep := x.residuals.filter fun (a, d, _) => !(a == op && d == addr)
            ({ s with scheds := Tab.put s.scheds c.handle { x with residuals := (op, addr, r) :: keep } }, b)
        let msg := OutMsg.chunk (x.sched.modules.getD peer 0) x.sched.rank c.tag op b
        (s.send c.die msg).opDone inst op o x.sched
    | _ => s) s

/-- R336: SCHEDULE_RECV: a peer's chunk goes into a reduction slot. -/
def execScheduleRecv (inst op rank : Nat) (bytes : List (BitVec 8)) (s : State) : Out :=
  opRun inst op (fun s c x o =>
    match o.kind with
    | .recv peer slot =>
      if rank ≠ peer then s
      else
        ({ s with colls := Tab.put s.colls inst { c with staging := c.staging ++ [(op, slot, rank, bytes)] } }).opDone inst op o x.sched
    | _ => s) s

/-- A cell combined with a contribution (Table 18-6): scales that differ set NaN. -/
def cellJoin (a b : BitVec 128) : BitVec 128 :=
  cellMake a (cellInt a + cellInt b) (b.extractLsb' 120 8 ||| (if a.extractLsb' 112 8 = b.extractLsb' 112 8 then 0 else 2))

/-- Combines element by element (Table 18-6): destination and contribution of one length, none for a type that is not there. -/
def combine (ety : Nat) (d x : List Byte) : Option (List Byte) :=
  let n := d.length
  let each (w : Nat) (f : List Byte → List Byte → List Byte) : Option (List Byte) :=
    some (((chunksOf w n d).zip (chunksOf w n x)).flatMap fun (a, b) => f a b)
  let words (f : Word → Word → Word) : Option (List Byte) := each 4 fun a b => bytesOf 4 (f (valOf 32 a) (valOf 32 b))
  if ety = 1 then words (· + ·)
  else if ety = 2 then each 8 fun a b => bytesOf 8 (valOf 64 a + valOf 64 b)
  else if ety = 3 then each 16 fun a b => bytesOf 16 (cellJoin (valOf 128 a) (valOf 128 b))
  else if ety = 4 ∨ ety = 0x12 ∨ ety = 0x13 then words addW
  else if ety = 5 then words fun a b => BitVec.ofNat 32 (fmnx .max a b).bits
  else if ety = 6 then words fun a b => BitVec.ofNat 32 (fmnx .min a b).bits
  else if ety = 7 then
    each 2 fun a b => bytesOf 2 (BitVec.ofNat 16 (fadd Fmt.bf16 .rn (bf16 (valOf 16 a)) (bf16 (valOf 16 b))).bits)
  else none

/-- Widens packed blocks exactly (R338), none for a block that is not valid. -/
def widenBlocks (f : BlkFmt) : Nat → List Byte → Option (List Byte)
  | 0, _ => some []
  | fuel + 1, b =>
    if b.isEmpty then some []
    else
      let l := Line.of (b.take 64)
      match checkBlock l false with
      | .error _ => none
      | .ok k =>
        let ws := (List.range f.count).map fun i => BitVec.ofNat 32 (Fmt.fp32.ofVal .rn (blockElem l k i)).bits
        (widenBlocks f fuel (b.drop 64)).map fun r => bytesOfWords ws ++ r

/-- The contribution of a slot that may be combined now (R340): under REPLAY the one that the trace names next. -/
def Collective.nextIn (c : Collective) (slot : Nat) (trace : Option (List Nat)) : Option (Nat × Nat × Nat × List Byte) :=
  let here := c.staging.filter fun (_, n, _, _) => n == slot
  match trace with
  | none => here.head?
  | some l => match l[(Tab.getD c.order slot []).length]? with
    | some r => here.find? fun (_, _, q, _) => q == r
    | none => none

/-- A contribution of a slot that the trace does not place there (R340). -/
def Collective.misplaced (c : Collective) (slot : Nat) (trace : Option (List Nat)) : Bool :=
  match trace with
  | none => false
  | some l => c.staging.any fun (_, n, r, _) => n == slot && !l.contains r

/-- Combines a staged contribution into the destination of a `reduce`. -/
def State.reduceWith (s : State) (inst op slot : Nat) (c : Collective) (x : LoadedSched) (o : SchedOp) (y : Nat × Nat × Nat × List Byte) :
    State :=
  let bytes := match packedType o.ety with
    | some f => widenBlocks f (y.2.2.2.length / 64 + 1) y.2.2.2
    | none => some y.2.2.2
  match bytes, s.collRead c.asid c.die (c.at_ o.dst) o.len with
  | some b, (s, some d) =>
    match combine o.ety d (b.take o.len) with
    | none => s.endColl inst collFault
    | some r =>
      match s.collWrite c.asid c.die (c.at_ o.dst) r with
      | (s, false) => s.endColl inst collFault
      | (s, true) =>
        let c := { c with
          staging := c.staging.filter fun z => z.1 != y.1
          order := Tab.put c.order slot (Tab.getD c.order slot [] ++ [y.2.2.1])
          bits := if orderDependent o.ety && !c.replay then c.bits ||| collOrddep else c.bits }
        ({ s with colls := Tab.put s.colls inst c }).opDone inst op o x.sched
  | _, (s, _) => s.endColl inst collFault

/-- R338, R340: SCHEDULE_REDUCE. -/
def execScheduleReduce (inst op slot : Nat) (s : State) : Out :=
  opRun inst op (fun s c x o =>
    match o.kind with
    | .reduce n =>
      if n ≠ slot then s
      else
        let (s, trace, bad) : State × Option (List Nat) × Bool :=
          if !c.replay then (s, none, false)
          else match s.traceOf c.asid c.die x.sched.slots c.trace.toNat slot with
            | (s, some l) => (s, some l, false)
            | (s, none) => (s, none, true)
        if bad then s.endColl inst collFault
        else if c.misplaced slot trace then s.endColl inst collMismatch
        else match c.nextIn slot trace with
          | none => s
          | some y => s.reduceWith inst op slot c x o y
    | _ => s) s

/-- R336: SCHEDULE_COPY. -/
def execScheduleCopy (inst op : Nat) (s : State) : Out :=
  opRun inst op (fun s c x o =>
    match o.kind with
    | .copy =>
      match s.collRead c.asid c.die (c.at_ o.src) o.len with
      | (s, none) => s.endColl inst collFault
      | (s, some b) =>
        match s.collWrite c.asid c.die (c.at_ o.dst) b with
        | (s, false) => s.endColl inst collFault
        | (s, true) => s.opDone inst op o x.sched
    | _ => s) s

/-- R336: SCHEDULE_GATE: the word has reached its value. -/
def execScheduleGate (inst op : Nat) (s : State) : Out :=
  opRun inst op (fun s c x o =>
    match o.kind with
    | .gate v =>
      match s.collRead c.asid c.die (c.at_ o.src) 8 with
      | (s, none) => s.endColl inst collFault
      | (s, some b) => if v.toNat ≤ natOf b then s.opDone inst op o x.sched else s
    | _ => s) s

/-- R342: SCHEDULE_SIGNAL. -/
def execScheduleSignal (inst op : Nat) (s : State) : Out :=
  opRun inst op (fun s _ _ o => match o.kind with | .signal => s.endColl inst 0 | _ => s) s

/-! ## Timers, absence and reservations (R341, R343) -/

/-- R343: STEP_TIMER_EXPIRY: a `recv` has waited beyond the step timer for a rank that is not absent. -/
def execStepTimerExpiry (inst op : Nat) (s : State) : Out :=
  opRun inst op (fun s c _ o =>
    match o.kind, Tab.find c.waiting op with
    | .recv peer _, some since =>
      if (Tab.find c.absent peer).isSome || decide (s.clock - since ≤ clocksOf (1000 * c.stepMs)) then s else s.endColl inst collTimeout
    | _, _ => s) s

/-- A rank of a collective is absent, or present again (R343): the step timers of the `recv` operations that await it pause, and go on. -/
def State.noticed (s : State) (inst rank : Nat) (present : Bool) : State :=
  match Tab.find s.colls inst with
  | none => s
  | some c =>
    match Tab.find c.absent rank, present with
    | none, false => { s with colls := Tab.put s.colls inst { c with absent := Tab.put c.absent rank s.clock } }
    | some gone, true =>
      let awaits (op : Nat) : Bool := match Tab.find s.scheds c.handle with
        | some x => match x.sched.ops[op]? with
          | some o => match o.kind with | .recv peer _ => peer == rank | _ => false
          | none => false
        | none => false
      let later (op since : Nat) : Nat := if awaits op then since + (s.clock - max since gone) else since
      { s with colls := Tab.put s.colls inst { c with absent := Tab.del c.absent rank, waiting := Tab.mapVal c.waiting later } }
    | _, _ => s

/-- R343: ABSENT_NOTICE. -/
def execAbsentNotice (inst rank : Nat) (present : Bool) (s : State) : Out := .next (s.noticed inst rank present)

/-- R343: RESERVATION_RELEASE: after 1 ms of continuous absence of a rank the reservations held are released. -/
def execReservationRelease (inst : Nat) (s : State) : Out :=
  match Tab.find s.colls inst with
  | none => .next s
  | some c =>
    if c.absent.all fun (_, since) => decide (s.clock - since ≤ clocksOf 1000) then .next s
    else
      let fell := if c.reserved then collFallback else 0
      .next { s with colls := Tab.put s.colls inst { c with bits := c.bits ||| collAbsent ||| fell, reserved := false } }

/-- R341: SWITCH_RESERVATION_LOSS: a collective that holds a reservation goes on at the endpoints. -/
def execSwitchReservationLoss (inst : Nat) (s : State) : Out :=
  match Tab.find s.colls inst with
  | none => .next s
  | some c =>
    if c.reserved then .next { s with colls := Tab.put s.colls inst { c with bits := c.bits ||| collFallback, reserved := false } }
    else .next s

/-- Absent or present notices of the collectives that a context owns (R343): to the other ranks, and this module's own instance takes note
that its rank is absent. -/
def State.sendNotices (s : State) (ctx : Nat) (present : Bool) : State :=
  (s.colls.filter fun (_, c) => c.owner == some ctx).foldl (fun s (i, c) =>
    match Tab.find s.scheds c.handle with
    | some x =>
      let others := (x.sched.modules.zipIdx).filter fun (_, r) => r != x.sched.rank
      others.foldl (fun s (m, _) => s.send c.die (.notice m c.tag present)) (s.noticed i x.sched.rank present)
    | none => s) s

end Sys2Proof.Machine
end

