-- ==== Sys2Proof/Machine/Phases.lean ====
section
/-!
DEFINITION. The end of a phase and its commit (R180 to R184, R389), relaunches (R390), the completion of a launch (R171, R172), the
teardown of an ASID (R395), and pre-emption (R286 to R290).
-/
namespace Sys2Proof.Machine

/-! ## Commit (R389) -/

/-- Where an entry of a buffer is performed: a page that has become shared since it was written is copied first (R236). -/
def State.commitPlace (s : State) (asid : Nat) (p : Place) (va : Nat) : State × Place :=
  match p with
  | .mem _ =>
    match s.leafOf asid va with
    | .leaf _ e _ =>
      if bit e 7 then
        match s.copyShared asid va with
        | some s => (s, match s.fwPlace asid va with | some pa => .mem pa | none => p)
        | none => (s, p)
      else (s, p)
    | _ => (s, p)
  | p => (s, p)

/-- Performs one entry of a block's buffer at its home. -/
def State.commitEntry (s : State) (b : Nat) (e : BufEntry) : State :=
  let core := (s.block b).core
  let c := (s.block b).ctx
  match e with
  | .store p va bytes =>
    let (s, p) := s.commitPlace (s.ctx c).asid p va
    (s.dropLineAt core p).writePlace p bytes (some c)
  | .op p va k n =>
    let (s, p) := s.commitPlace (s.ctx c).asid p va
    let s := ((s.dropLineAt core p).homeRun p k).1
    match k, p with
    | .bnk _ _, .bank die _ =>
      s.updAsid (s.ctx c).asid fun a => { a with bankDone := Tab.put a.bankDone die (Tab.getD a.bankDone die [] ++ [n]) }
    | _, _ => s
  | .wadd k h slot x => s.applyWadd k h slot x
  | .pctl k h slot code a _ _ => s.applyPctl k h slot code a

/-- The copy of a shared page for which a block's commit waits, since the state pool has no frame for it (R236). -/
def State.commitWants (s : State) (b : Nat) : Option CopyReq :=
  let asid := (s.ctx (s.block b).ctx).asid
  (s.block b).buffer.findSome? fun e => match e.target with
    | some (.mem _, va) =>
      (match s.leafOf asid va with
        | .leaf _ e _ => if bit e 7 && (s.copyShared asid va).isNone then some { asid := asid, va := BitVec.ofNat 64 va, thread := none } else none
        | _ => none)
    | _ => none

/-- A commit waits for the copy of a page. -/
def State.commitWait (s : State) (q : CopyReq) : State := s.askCopy q.asid q.va.toNat

/-- The first arrival by `pctl` of buffered entries that goes beyond A (R308): `room` is what a particle may still take, `made` are the
arrivals of the entries before. -/
def overArrival (room : Nat → Nat → Nat) : List (Nat × Nat) → List BufEntry → Option BufEntry
  | _, [] => none
  | made, .pctl k h slot code a pc order :: r =>
    if code ≠ 0 then overArrival room made r
    else if room h slot ≤ (made.filter (· == (h, slot))).length then some (.pctl k h slot code a pc order)
    else overArrival room ((h, slot) :: made) r
  | made, _ :: r => overArrival room made r

/-- Arrivals that a particle may still take in its episode; a population that drains, or is gone, takes no notice of them. -/
def State.arrivalRoom (s : State) (h slot : Nat) : Nat :=
  match Tab.find s.pops h with
  | some p => if p.state = .draining then 65536 else p.a - p.arrivals slot
  | none => 65536

/-- The first arrival beyond A of blocks that are to commit, with its block. -/
def State.commitOver (s : State) (bs : List Nat) : Option (Nat × BufEntry) :=
  match overArrival s.arrivalRoom [] (bs.flatMap fun b => (s.block b).buffer) with
  | none => none
  | some e => (bs.find? fun b => (s.block b).buffer.contains e).map fun b => (b, e)

/-- An arrival beyond A is found as its phase commits: it has no effect, and its thread takes the trap, or leaves a record where it has
exited (R299, R308, R411); the commit goes on afterwards. -/
def State.refuseArrival (s : State) (b : Nat) (e : BufEntry) : State :=
  match e with
  | .pctl k h slot _ _ pc order =>
    let i := popTrap 0x05 h slot
    if s.tokenWaits k (some i) then s
    else
      let s := s.updBlock b fun y => { y with buffer := y.buffer.erase e }
      match Tab.find s.threads k with
      | none => s
      | some t =>
        if t.status == .exited then s.pushRec (dieOf (s.coreOf k)) (s.threadRec k i pc false)
        else s.putThread k { t with due := t.due ++ [{ info := i, faultPc := pc, order := order }] }
  | _ => s

/-- Commits a block's phase: the buffer in issue order, then the queued spawns. -/
def State.commitBlock (s : State) (b : Nat) : State :=
  let x := s.block b
  let s := x.buffer.foldl (fun s e => s.commitEntry b e) s
  let s := x.spawns.foldl (fun s a => s.queueSpawn (s.ctx x.ctx).launch a) s
  (s.updBlock b fun y => { y with buffer := [], firstRead := [], spawns := [], committed := true }).timelineSettle

/-- Something of a block that its phase's end takes is poisoned: an entry of its buffer as it is read back (R389), or a register that a thread
carries into the next phase (log 36). -/
def State.commitBad (s : State) (b carry : Nat) : Bool :=
  (s.block b).bufBad || (s.blockThreads b).any fun (_, t) => t.status != .exited && t.bad.any fun r => decide (r < carry)

/-! ## Phase records (R183, Table 8-2) -/

/-- The context's task is a spawned block's. -/
def Ctx.spawned (c : Ctx) : Bool :=
  match c.origin.kind with
  | .spawn _ => true
  | .phase (r :: _) => field r 0x20 2 == 0xffff
  | _ => false

/-- Waves of a block. -/
def State.blockWaves (s : State) (b : Nat) : Nat := (s.waves.filter fun (w, _) => w / 32 == b).length

/-- The phase record of a block that resumes at a PC. -/
def State.phaseRecord (s : State) (c : Ctx) (b : Nat) (resume : Pair) : List Byte :=
  let x := s.block b
  let l := Tab.find s.launches c.launch
  let n := s.blockWaves b
  let carry := c.header.carry
  let prio := match l with | some l => l.priority | none => 0
  let deadline := match l with | some l => l.deadline | none => 0
  let number := match l with | some l => l.number.toNat | none => 0
  let present := (s.blockThreads b).foldl (fun m (k, t) => if t.status == .exited then m else m + 2 ^ tidOf k) 0
  let lane (w j i : Nat) : Word :=
    match Tab.find s.threads (1024 * b + 32 * w + i) with
    | some t => if t.status == .exited then 0 else Store.read t.regs j
    | none => 0
  bytesOf 8 c.hdrAddr ++ bytesOf 8 x.workId ++ bytesOf 8 resume ++
    natBytes 8 (c.asid + prio * 2 ^ 16 + deadline * 2 ^ 24 + number * 2 ^ 32) ++
    natBytes 2 (if c.spawned then 0xffff else x.gidx) ++ natBytes 1 carry ++ natBytes 1 n ++ natBytes 1 (if c.origin.pinned then 1 else 0) ++
    List.replicate 27 0 ++ natBytes 128 present ++
    ((List.range n).flatMap fun w => (List.range carry).flatMap fun j => (List.range 32).flatMap fun i => bytesOf 4 (lane w j i))

/-! ## PHASE_END (R182) -/

/-- No command of a block's engines, operation of its rings or put or get of its threads is outstanding (R130, R204). -/
def State.enginesIdle (s : State) (b : Nat) : Bool :=
  (s.block b).copyQ.isEmpty && (s.block b).matQ.isEmpty && !(s.ringQ.any fun r => blkOf r.thread == b) &&
    !(s.txs.any fun (_, t) => blkOf t.thread == b) && !(s.accordQ.any fun o => blkOf o.thread == b) &&
    !(s.accordReads.any fun o => blkOf o.thread == b)

/-- Faults of a gang's class V results and traps found while its threads wait at a `phend`: they take the trap in place of the end
of their wait (R411). -/
def State.phendTraps (s : State) (ts : List (Nat × Thread)) : State :=
  ts.foldl (fun s (k, _) =>
    match Tab.find s.threads k with
    | none => s
    | some t =>
      match t.status, t.dueNow with
      | .waiting .phend _, some d => s.takeDue k { t with status := .ready, arrivals := Tab.del t.arrivals phendKey } d
      | _, _ => s) s

/-- Every access of a gang is performed at device scope. -/
def State.gangRelease (s : State) (x : Ctx) (ts : List (Nat × Thread)) : State :=
  let s := ts.foldl (fun s (k, _) => s.drain k) s
  x.blocks.foldl (fun s b => s.l1Flush (s.block b).core x.asid) s

/-- A gang that has completed leaves nothing behind but its launch's count. -/
def State.finishGang (s : State) (c : Nat) (x : Ctx) : State := (s.dropCtx c).launchDown x.launch 1

/-- A gang's phase ends: its records are one task (R182, R189), none while the pool has no space. -/
def State.finishPhase (s : State) (c : Nat) (x : Ctx) (pc : Pair) : Option State :=
  let live := x.blocks.filter fun b => (s.blockThreads b).any fun (_, t) => t.status != .exited
  let records := live.map fun b => s.phaseRecord x b (pc + 4)
  let size := records.foldl (fun n r => n + r.length) 0
  let room := match Tab.find s.asids x.asid with | some a => decide (a.ctxUsed + size ≤ a.ctxPool) | none => false
  if !room then none
  else
    let core := match live with | b :: _ => (s.block b).core | [] => 0
    let ts := s.ctxThreads c
    let s := ts.foldl (fun s (k, t) => if t.status == .exited then s else s.tokenRecs k t) s
    let s := (s.dropCtx c).updAsid x.asid fun a => { a with ctxUsed := a.ctxUsed + size }
    some (s.addTask { launch := x.launch, header := x.header, hdr := x.hdrAddr, kind := .phase records, blocks := x.blocks.length,
                      pinned := x.origin.pinned, core := if x.blocks.length = 1 then core else 48 * clusterOf core, queued := 0,
                      unassigned := false })

/-- Engine faults that the threads of a gang leave in tokens at its phase's end find no room in their die's fault record queue (R134, R239). -/
def State.phaseRecsWait (s : State) (c : Nat) (live : List (Nat × Thread)) : Bool :=
  let n := live.foldl (fun n (_, t) => n + (t.toks.filter fun (_, x) => x != .pending).length) 0
  (Tab.find s.faultQ (s.ctx c).die).isSome && decide (s.recRoom (s.ctx c).die < n)

/-- A thread's arrival at the `phend` at a PC counts: it has been made, and the thread is neither parked nor stopped (R182).  The arrival of
one that has timed out stands while its handler runs (log 29). -/
def Thread.arrivedAt (t : Thread) (pc : Nat) : Bool :=
  Tab.find t.arrivals phendKey == some pc &&
    (match t.status with
      | .ready | .waiting _ _ => true
      | _ => false)

/-- A context discards its phase for poison that a block's commit finds (R389). -/
def State.commitDiscard (s : State) (c b : Nat) : State :=
  s.consumePoison c (s.threadRec (((s.blockThreads b).map Prod.fst).headD (1024 * b)) (accTrap 0x09 0 0x0a 0 1) 0 false)

/-- A block of a RELAUNCH phase commits when its last thread has exited and its engines are idle (R204, R389), its accesses performed first. -/
def State.commitEnded (s : State) (c : Nat) (b : Nat) : State :=
  let x := s.ctx c
  let ts := s.blockThreads b
  if !x.header.relaunch || x.state != .running || (s.block b).committed || ts.any (fun (_, t) => t.status != .exited || t.busy) ||
      !s.enginesIdle b then s
  else if s.commitBad b x.header.carry then s.commitDiscard c b
  else if let some q := s.commitWants b then s.commitWait q
  else if let some (b, e) := s.commitOver [b] then s.refuseArrival b e
  else ((ts.foldl (fun s (k, _) => s.drain k) s).l1Flush (s.block b).core x.asid).commitBlock b

/-- The blocks of a RELAUNCH phase commit as it ends for their gang: none while one of them holds poison or waits for the copy of a page. -/
def State.commitGang (s : State) (c : Nat) (x : Ctx) : State × Bool :=
  let bs := x.blocks.filter fun b => !(s.block b).committed
  match bs.find? fun b => s.commitBad b x.header.carry with
  | some b => (s.commitDiscard c b, false)
  | none =>
    match bs.findSome? s.commitWants with
    | some q => (s.commitWait q, false)
    | none =>
      match s.commitOver bs with
      | some (b, e) => (s.refuseArrival b e, false)
      | none => ((if x.header.relaunch then bs.foldl State.commitBlock s else s), true)

/-- R182: PHASE_END: every present thread of the gang has arrived at one `phend`, or every thread has exited, and its engines are
idle.  Blocks of a RELAUNCH phase that have ended by themselves commit before (R204, R389). -/
def execPhaseEnd (ctx : Nat) (s : State) : Out :=
  match Tab.find s.ctxs ctx with
  | none => .next s
  | some x =>
    let s := x.blocks.foldl (fun s b => s.commitEnded ctx b) s
    let ts := s.ctxThreads ctx
    let live := ts.filter fun (_, t) => t.status != .exited
    let pc := match live with | (_, t) :: _ => BitVec.ofNat 64 (Tab.getD t.arrivals phendKey 0) | [] => 0
    let here := live.all fun (_, t) => t.arrivedAt pc.toNat
    if (s.ctx ctx).state ≠ .running || !here then .next s
    else if live.any fun (_, t) => t.dueNow.isSome && (match t.status with | .waiting .phend _ => true | _ => false) then .next (s.phendTraps live)
    else if !(x.blocks.all s.enginesIdle) || ts.any (fun (_, t) => t.busy) || s.phaseRecsWait ctx live then .next s
    else
      let s1 := s.gangRelease x ts
      if (s1.ctxThreads ctx).any fun (_, t) => t.pend.any fun p => p.fault.isSome then .next s
      else
        match s1.commitGang ctx x with
        | (s1, false) => .next s1
        | (s1, true) =>
          if live.isEmpty then .next (s1.finishGang ctx x)
          else match s1.finishPhase ctx x pc with
            | some t => .next t
            | none => .next s

/-! ## PHASE_RELAUNCH (R390) -/

/-- R390: PHASE_RELAUNCH: the gang starts again on another cluster of its die from what the phase started with; a block that has committed
at its own end does not run again (log 80). -/
def execPhaseRelaunch (ctx : Nat) (s : State) : Out :=
  match Tab.find s.ctxs ctx with
  | none => .next s
  | some x =>
    if x.state ≠ .discarded then .next s
    else
      let others := ((List.range 4).map fun i => 4 * x.die + i).filter (· != x.cluster)
      match others.findSome? (s.fitIn x.origin), Tab.find s.launches x.launch with
      | some cores, some l =>
        let ended := (List.range x.blocks.length).filter fun i => (s.block (x.blocks.getD i 0)).committed
        let spawns := x.blocks.foldl (fun n b => n + (s.block b).spawns.length) 0
        let s := x.blocks.foldl (fun s b => (s.block b).buffer.foldl (fun s e =>
          match e with
          | .op (.bank die _) _ (.bnk _ _) n =>
            s.updAsid x.asid fun a => { a with bankDone := Tab.put a.bankDone die (Tab.getD a.bankDone die [] ++ [n]) }
          | _ => s) s) s
        let s := (s.dropCtx ctx).updAsid x.asid fun a => { a with ctxUsed := a.ctxUsed - 64 * spawns + x.origin.bytes }
        .next ((s.placeOn x.origin l cores x.poisoned ended).timelineSettle)
      | _, _ => .next s

/-! ## Launches and address spaces (R171, R395) -/

/-- The completion of a launch: its stores are performed at system scope, then the completion write is made, of the complement
where a context was killed (R171, R279), and none where a drop has ended the launch (R320). -/
def State.completeLaunch (s : State) (ln : Nat) (l : Launch) : State :=
  let s := s.l1FlushCores l.asid fun _ => true
  let s := if l.quiet then s else s.completionWrite l.asid l.die l.completion (if l.killed then ~~~l.value else l.value) l.number
  { s with launches := Tab.del s.launches ln }

/-- Keys of 8-byte entries that a table of `count` entries at an address holds. -/
def State.entriesAt (s : State) (table count : Nat) : List Nat :=
  sortNat ((s.mem.filter fun (a, _) => decide (table ≤ a ∧ a < table + 8 * count)).map fun (a, _) => (a - table) / 8)

/-- Entries of a table of a level (Table 12-2). -/
def tableSize : Nat → Nat
  | 0 => 32
  | 3 => 2 ^ 18
  | _ => 512

/-- Frames that a page table maps and is made of, by frame number. -/
def State.treeFrames (s : State) : Nat → Nat → List Nat
  | 0, table => (s.entriesAt table 32).flatMap fun i =>
      let e := BitVec.ofNat 64 (s.memNat (table + 8 * i) 8)
      if bit e 0 && bit e 1 && !bit e 6 then [leafFrame e / 65536] else []
  | l + 1, table => (s.entriesAt table (tableSize (l + 1))).flatMap fun i =>
      let e := BitVec.ofNat 64 (s.memNat (table + 8 * i) 8)
      if !bit e 0 then []
      else if bit e 2 then
        (if bit e 1 && !bit e 6 then (List.range (pageFrames (leafBits (l + 1)))).map fun j => leafFrame e / 65536 + j else [])
      else
        let next := (e.extractLsb' 8 33).toNat * 256
        next / 65536 :: State.treeFrames s l next

/-- Frees samples, unloads methods and forgets the context of an ASID in a sequencer (R350). -/
def Sillage.forget (g : Sillage) (asid : Nat) : Sillage :=
  let gone := (g.samples.filter fun (_, x) => x.asid == asid).map Prod.fst
  { methods := g.methods.filter fun (_, m) => m.asid != asid
    samples := g.samples.filter fun (_, x) => x.asid != asid
    queue := g.queue.filter fun i => !gone.contains i
    closed := g.closed.filter (· != asid)
    started := Tab.del g.started asid
    ended := Tab.del g.ended asid }

/-- The frames of HBM that an address space is made of and maps, by frame number; host memory and the Accord region lie outside of them. -/
def State.spaceFrames (s : State) (root : Nat) : List Nat :=
  (((List.range 32).map fun i => root / 65536 + i) ++ s.treeFrames 3 root).filter fun f => decide (f * 65536 < 2 ^ 40)

/-- An address space is returned frame by frame. -/
def State.returnFrames (s : State) (root : Nat) : State := { s with freeFrames := sortNat (s.freeFrames ++ s.spaceFrames root) }

/-- A context is killed at the teardown of its ASID: firmware posts the kill (R409), with a record that names no thread, since none has
trapped (log 86). -/
def State.killPosted (s : State) (c : Nat) : State :=
  if !(s.ctxs.any fun e => e.1 == c) then s
  else
    let x := s.ctx c
    let core := match x.blocks.find? (· != 0) with | some b => (s.block b).core | none => 0
    let n := match Tab.find s.launches x.launch with | some l => l.number | none => 0
    (s.postEvent 2 x.asid (mkRecord 0 0 x.asid 0 0 false 0 core 0 0xff 0 ++ bytesOf 4 n)).killCtx c none

/-- Step 1 of the teardown of an ASID (R395): its contexts are killed and its launches and collectives complete; no new work begins, and its
samples and methods are gone at once, so that none of them leaves a record (R350). -/
def State.teardown (s : State) (asid : Nat) : State :=
  match Tab.find s.asids asid with
  | none => s
  | some _ =>
    let cs := (s.ctxs.filter fun (_, c) => c.asid == asid).map Prod.fst
    let s := cs.foldl State.killPosted (s.drainAsid asid)
    let ls := s.launches.filter fun (_, l) => l.asid == asid
    let s := { s with tasks := s.tasks.filter fun (_, t) => !(ls.any fun (k, _) => k == t.launch) }
    let s := ls.foldl (fun s (k, l) => s.completeLaunch k { l with killed := true }) s
    let s := ((s.colls.filter fun (_, c) => c.asid == asid).map Prod.fst).foldl (fun s i => s.endColl i collFault) s
    { s with
      pops := s.pops.filter fun (_, p) => p.asid != asid
      queues := Tab.mapVal s.queues fun _ q => if q.asid == asid then { q with closed := true } else q
      copyReqs := s.copyReqs.filter fun q => q.asid != asid
      sillage := Tab.mapVal s.sillage fun _ g => g.forget asid
      asids := Tab.upd s.asids asid fun a => { a with closing := true } }

/-- An access of an ASID is in flight (R395 step 2): a put or get of its own, an Accord write, or a put or get of a peer that waits at one
of its windows. -/
def State.inFlight (s : State) (asid : Nat) : Bool :=
  s.txs.any (fun (_, t) => t.asid == asid) || s.accordQ.any (fun o => o.asid == asid) ||
    s.accordReads.any (fun o => o.asid == asid) ||
    s.delayed.any fun t => match Tab.find s.windows t.handle with | some w => w.asid == asid | none => false

/-- Steps 3 and 4 (R395): the ASID's lines are invalidated without being written back, and its key is destroyed: its frames hold what was
encrypted under it. -/
def State.destroyKey (s : State) (asid : Nat) : State :=
  let s := s.drainAsid asid
  let old := match Tab.find s.asids asid with | some a => (s.spaceFrames a.root).map fun f => (f, a.key) | none => []
  { s with
    oldKeys := old.foldl (fun m (f, key) => Tab.put m f key) s.oldKeys
    l1 := s.l1.filter fun (_, l) => l.asid != asid
    tlb := s.tlb.filter fun t => t.asid != asid
    asids := Tab.upd s.asids asid fun a => { a with live := false, key := 0, keyGen := a.keyGen + 1 } }

/-- Steps 5 and 6 (R395): what the ASID held is cleared, and its frames return. -/
def State.endTeardown (s : State) (asid : Nat) : State :=
  match Tab.find s.asids asid with
  | none => s
  | some a =>
    let s := s.returnFrames a.root
    { s with
      bank := a.banks.foldl (fun m (die, (b, l)) => Store.clear m (die * 2 ^ 26 + b * 65536) (l * 65536)) s.bank
      badWords := s.badWords.filter fun w => !a.banks.any fun (die, (b, l)) => w.within (.bank die (b * 65536)) (l * 65536)
      windows := s.windows.filter fun (_, w) => w.asid != asid
      scheds := s.scheds.filter fun (_, x) => x.asid != asid
      backing := s.backing.filter fun x => x.1 != asid
      accordPages := s.accordPages.filter fun x => x.2.2 != asid
      rebuilt := s.rebuilt.filter fun x => !(s.accordPages.any fun y => y.1 == x.1 && y.2.2 == asid)
      sillage := Tab.mapVal s.sillage fun _ g => g.forget asid
      asids := Tab.put s.asids asid
        { live := false, key := 0, closing := false, keyGen := a.keyGen, root := 0, limit := 0, used := 0, ctxPool := 0, ctxUsed := 0,
          statePool := 0, stateUsed := 0, relaunchPool := 0, launches := 0, banks := [], bankN := [], bankDone := [], portN := [],
          portDone := [], msgQueue := none, produced := 0, debug := false, collective := none } }.settleSets

/-- The next steps of a teardown that is under way, in their order: none while an access of the ASID is in flight. -/
def State.teardownNext (s : State) (asid : Nat) : Option State :=
  match Tab.find s.asids asid with
  | none => none
  | some a =>
    if !a.closing then none
    else if !a.live then some (s.endTeardown asid)
    else if s.inFlight asid then none
    else some (s.destroyKey asid)

/-- Teardowns that are under way go on. -/
def State.teardowns (s : State) : Option State := s.asids.findSome? fun (n, _) => s.teardownNext n

/-- An ASID has nothing left from which a launch could come. -/
def State.spent (s : State) (asid : Nat) : Bool :=
  asid != fwAsid && !(s.launches.any fun (_, l) => l.asid == asid) && !(s.queues.any fun (_, q) => q.asid == asid && !q.closed) &&
    !(s.pops.any fun (_, p) => p.asid == asid)

/-- R171: LAUNCH_COMPLETE: every task of the launch has completed. -/
def execLaunchComplete (launch : Nat) (s : State) : Out :=
  match Tab.find s.launches launch with
  | none => .next s
  | some l =>
    if l.open_ ≠ 0 then .next s
    else
      let t := s.completeLaunch launch l
      s.unlessStarved (if t.spent l.asid then t.teardown l.asid else t)

/-! ## Pre-emption (R286 to R290) -/

/-- Takes a context's threads out of their runs, each at its next instruction (R66, R286). -/
def State.dissolve (s : State) (c : Nat) : State :=
  let gone (k : Nat) : Bool := (s.ctx c).blocks.contains (blkOf k)
  { s with
    threads := Tab.mapVal s.threads fun k t => if gone k then { t with runV := [] } else t
    groups := (Tab.mapVal s.groups fun _ g =>
      { g with members := g.members.filter (fun k => !gone k), todo := g.todo.filter (fun k => !gone k) }).filter
        fun (_, g) => !g.members.isEmpty }

/-- Steps 1 to 3 of R286 for a context that is resident; a debugger's stop of it stands. -/
def State.preempt (s : State) (c : Nat) : State :=
  let x := s.ctx c
  if x.state != .running && x.state != .debugStop then s
  else
    let s := ((s.updCtx c fun y => { y with state := .stopping, noticed := true, held := x.state == .debugStop }).dissolve c).withdrawWaits c
    s.sendNotices c false

/-- R286: PREEMPT_REQUEST. -/
def execPreemptRequest (ctx : Nat) (s : State) : Out := .next (s.preempt ctx)

/-- A line's coordinator has begun to serve a writing operation: the first to arrive (R371). -/
def State.accordBegun (s : State) (o : AccordOp) : Bool := (takeOp o.set o.line s.accordQ).map Prod.fst == some o

/-- Results that hold a pre-emption back: those of Accord writes that their coordinator has not begun to serve do not (R381). -/
def State.holdsBack (s : State) (k : Nat) (t : Thread) : Bool :=
  t.pend.any fun p => !(s.accordQ.any fun o => o.thread == k && o.order == p.order && !s.accordBegun o)

/-- A piece of a copy whose follow-on has entered the matrix context is still to be credited: the piece under way is finished first (R286). -/
def State.creditsWait (s : State) (x : Ctx) : Bool :=
  x.blocks.any fun b => (s.block b).copyQ.any fun c => c.entered && !c.uncredited.isEmpty

/-- The checkpoint of a block's matrix command: the C values after its last completed chunk go into the scratchpad image (R288). -/
def State.checkpointC (s : State) (b : Nat) : State :=
  match (s.block b).matQ with
  | cmd :: _ =>
    match cmd.mode, cmd.part with
    | .inl f, some _ => s.writeC b cmd f
    | _, _ => s
  | [] => s

/-- Pieces of a copy that were not delivered and credited are delivered again in full (R288). -/
def CopyCmd.checkpoint (c : CopyCmd) : CopyCmd :=
  { c with done := c.done.filter (fun x => !c.uncredited.contains x), uncredited := [], pos := 0 }

/-- R287: CONTEXT_EVICTABLE: results are written, engines are checkpointed and scratchpads are in the image. -/
def execContextEvictable (ctx : Nat) (s : State) : Out :=
  match Tab.find s.ctxs ctx with
  | none => .next s
  | some x =>
    let ts := s.ctxThreads ctx
    if x.state ≠ .stopping || ts.any (fun (k, t) => s.holdsBack k t) || s.creditsWait x then .next s
    else
      let s := x.blocks.foldl State.checkpointC (s.gangRelease x ts)
      let kept := x.blocks.map fun b => (s.waves.filter fun (w, _) => w / 32 == b && s.waveLive w).foldl
        (fun n (_, v) => n + (v.alloc - x.header.base) / 64) 0
      let cores := dedup (x.blocks.map fun b => (s.block b).core)
      let s := x.blocks.foldl (fun s b => s.updBlock b fun y => { y with copyQ := y.copyQ.map CopyCmd.checkpoint, saved := true }) s
      let s := s.updCtx ctx fun y => { y with state := .out, kept := kept }
      .next (cores.foldl State.racqGrant s)

/-- A context's kept extension fits the cores on which it resumes (R210). -/
def State.keptFits (s : State) (x : Ctx) (cores : List Nat) : Bool :=
  (x.kept.zip cores).all fun (n, core) => decide (s.extension core + n ≤ 64)

/-- Moves a block of a resuming context to a core: its waves take the lowest free slots. -/
def State.moveBlock (s : State) (b core : Nat) : State :=
  let slots := s.freeSlots core
  let ws := ((s.waves.filter fun (w, _) => w / 32 == b).map Prod.fst).zipIdx
  let s := (s.takeSlots core (slots.take ws.length)).updBlock b fun y => { y with core := core, saved := false }
  ws.foldl (fun s (w, i) => s.updWave w fun v => { v with slot := slots.getD i 0 }) s

/-- R290: CONTEXT_RESUME: the context is placed whole on cores of its own die and restored. -/
def execContextResume (ctx : Nat) (cores : List Nat) (s : State) : Out :=
  match Tab.find s.ctxs ctx with
  | none => .next s
  | some x =>
    let live := x.blocks.filter (· != 0)
    if x.state ≠ .out || cores.any (fun c => dieOf c != x.die) || !s.coresFit { x.origin with blocks := live.length } cores ||
        !s.keptFits { x with kept := (x.blocks.zip x.kept).filterMap fun (b, n) => if b = 0 then none else some n } cores then .next s
    else
      let s := cores.foldl (fun s c => s.l1Invalidate c x.asid) s
      let s := (live.zip cores).foldl (fun s (b, c) => s.moveBlock b c) s
      let s := s.updCtx ctx fun y =>
        { y with state := if y.held then .debugStop else .running, noticed := false, held := false, kept := []
                 cluster := clusterOf (cores.getD 0 0), ran := dedup (y.ran ++ cores) }
      .next (s.sendNotices ctx true)

end Sys2Proof.Machine
end

