-- ==== Sys2Proof/Machine/Events.lean ====
section
/-!
DEFINITION. The events of issue and memory: fault records and their outcomes (R222, R223), evictions (R247), homes and bank
units (R254, R258), invalidations (R238), results that return (R64, R411), runs, groups and the scheduler (R60, R177, R178), trap
entry (R278), and the time-outs with their reports (R123, R162, R198, R201 to R203).
-/
namespace Sys2Proof.Machine

/-! ## Fault records (R222, R223) -/

/-- R222: FAULT_RECORD_DEFERRED: a thread parked unrecorded appends its record, with those of its instruction's other threads (R221), once
there is space. -/
def execFaultRecordDeferred (th : Nat) (s : State) : Out :=
  match Tab.find s.threads th with
  | none => .next s
  | some t =>
    match t.status with
    | .unrecorded _ issue => .next (s.recordIssue (dieOf (s.coreOf th)) issue)
    | _ => .next s

/-- The trap of a refused replay (R223): its kind and size are the record's. -/
def refusedTrap (rec : List Byte) : TrapInfo :=
  let access := valOf 8 ((rec.drop 0x13).take 1)
  { cause := 0x09, addr := valOf 64 (rec.take 8), detail := protDetail 0x06 (access.extractLsb' 0 3), kind := access.extractLsb' 0 3,
    size := access.extractLsb' 4 4 }

/-- A thread parked by a record meets its outcome: it replays, or raises the protection trap. -/
def State.outcomeThread (s : State) (k : Nat) (t : Thread) (replay : Bool) (rec : List Byte) : State :=
  if replay then s.putThread k { t with status := .ready, readyAt := s.clock } else s.trapAt k { t with status := .ready } (refusedTrap rec)

/-- A copy engine command stalled on a record meets its outcome (R151). -/
def State.outcomeCopy (s : State) (blk : Nat) (c : CopyCmd) (replay : Bool) (rec : List Byte) : State :=
  if replay then s.setCopy blk c.n { c with stalled := none }
  else s.failCopy blk c { engTrap 0x09 (refusedTrap rec).addr.toNat 0x06 3 with kind := (refusedTrap rec).kind }

/-- A put or get stalled on a record meets its outcome (R332). -/
def State.outcomeTx (s : State) (i : Nat) (x : FabricTx) (replay : Bool) (rec : List Byte) : State :=
  if replay then State.txRun { s with txs := Tab.put s.txs i { x with stalled := none } } i
  else s.endTx i x (some { refusedTrap rec with detail := protDetail 0x06 (refusedTrap rec).kind })

/-- A sample stalled on a record meets its outcome (R359). -/
def State.outcomeSample (s : State) (cl i : Nat) (replay : Bool) (rec : List Byte) : State :=
  if replay then s.updSample cl i fun x => { x with stalled := none }
  else (s.updSample cl i fun x => { x with stalled := none }).sampleFault cl i 0x12 (some ((refusedTrap rec).addr, (refusedTrap rec).kind))

/-- Everyone who waits for a record meets its outcome. -/
def State.outcomeAll (s : State) (die n : Nat) (replay : Bool) (rec : List Byte) : State :=
  let ts := s.threads.filter fun (_, t) => t.status == .parked die n
  let s := ts.foldl (fun s (k, _) =>
    match Tab.find s.threads k with
    | some t => if t.status == .parked die n then s.outcomeThread k t replay rec else s
    | none => s) s
  let cs := s.blocks.flatMap fun (b, x) => (x.copyQ.filter fun c => c.stalled == some (die, n)).map fun c => (b, c)
  let s := cs.foldl (fun s (b, c) => s.outcomeCopy b c replay rec) s
  let xs := s.txs.filter fun (_, x) => x.stalled == some (die, n)
  let s := xs.foldl (fun s (i, x) => s.outcomeTx i x replay rec) s
  let ss := s.sillage.flatMap fun (cl, g) => (g.samples.filter fun (_, x) => x.stalled == some (die, n)).map fun (i, _) => (cl, i)
  ss.foldl (fun s (cl, i) => s.outcomeSample cl i replay rec) s

/-- Firmware takes what needs no answer, or has one, off the head of a queue, and waiting records follow. -/
def State.consumeQueue (s : State) (die : Nat) : State :=
  match Tab.find s.faultQ die with
  | none => s
  | some q =>
    let q := s.consume q (q.append - q.consumed)
    ({ s with faultQ := Tab.put s.faultQ die q }).drainRecs die (Tab.getD s.recWait die []).length

/-- The bytes of a record that is in a queue, replayable and without an outcome. -/
def State.pendingRec (s : State) (die n : Nat) : Option (List Byte) :=
  match Tab.find s.faultQ die with
  | none => none
  | some q =>
    let rec_ := s.readMem (q.slot n) 32
    if q.consumed ≤ n && n < q.append && field rec_ 0x13 1 / 8 % 2 == 1 && field rec_ 0x1e 1 == 0 then some rec_ else none

/-- A record that firmware has still to take from a die's queue is poisoned (R383). -/
def State.queuePoisoned (s : State) (die : Nat) : Bool :=
  match Tab.find s.faultQ die with
  | none => false
  | some q => (List.range (q.append - q.consumed)).any fun i => s.poisoned (q.slot (q.consumed + i)) 32

/-- R223: FAULT_OUTCOME_WRITE: firmware writes the outcome of record `seq` of a die's queue, having made the page resident for
outcome 1; values other than 1 are treated as 2.  Poison in the queue, or in an entry on the way to the page, has its die fenced (R383). -/
def execFaultOutcomeWrite (die seq : Nat) (outcome : BitVec 8) (s : State) : Out :=
  if s.queuePoisoned die then .next (s.fence die) else
  match s.pendingRec die seq with
  | none => .next (s.consumeQueue die)
  | some r =>
    if outcome = 0 then .next s
    else if let some d := s.walkBad (field r 0x10 2) (field r 0 8) then .next (s.fence d)
    else
      let s := if outcome = 1 then (s.makeResident (field r 0x10 2) (field r 0 8)).getD s else s
      let s := s.setOutcome die seq outcome
      .next ((s.outcomeAll die seq (outcome == 1) r).consumeQueue die)

/-! ## Caches, homes and translations -/

/-- R247: L1_EVICTION: a line leaves a core's L1; its dirty bytes are written back to their home. -/
def execL1Eviction (core line : Nat) (s : State) : Out := .next (s.l1Drop (2 ^ 35 * core + line))

/-- The second half of a 16-byte access of a thread: it orders towards its line alone (R244). -/
def HomeKind.half : HomeKind → Bool
  | .ldHalf _ _ => true
  | .stHalf _ => true
  | _ => false

/-- An earlier operation on its way of the same thread comes before this one: any on its line (R245), and on other lines every operation at a
home, since a program whose accesses conflict at their homes alone gives what its program orders give (R267). -/
def State.heldBack (s : State) (h : HomeOp) : Bool :=
  (s.homeQ ++ s.bankQ).any fun g => g.thread == h.thread && decide (g.prog < h.prog) &&
    (decide (g.place.line.1 = h.place.line.1) || (!g.kind.half && !h.kind.half))

/-- R254: HOME_OPERATION_EXECUTE: one operation is performed at its home; those of one thread keep their order. -/
def execHomeOperationExecute (i : Nat) (s : State) : Out :=
  match s.homeQ[i]? with
  | none => .next s
  | some h => if s.heldBack h then .next s else .next (({ s with homeQ := dropAt s.homeQ i }).homeExec h)

/-- R258: BANK_OPERATION_EXECUTE: one `bnk` is performed at its bank and its number returned. -/
def execBankOperationExecute (i : Nat) (s : State) : Out :=
  match s.bankQ[i]? with
  | none => .next s
  | some h => if s.heldBack h then .next s else .next (({ s with bankQ := dropAt s.bankQ i }).homeExec h)

/-- R238: TRANSLATION_INVALIDATION: cached entries of an ASID that meet a range are discarded, and accesses that used one have been
performed at device scope when it completes: it waits for Accord operations and for the buffered writes of phases (R388) in the range. -/
def execTranslationInvalidation (asid : Nat) (va len : Nat) (s : State) : Out :=
  if s.accordUses asid va len || s.bufferUses asid va len then .next s
  else .next (((s.drainAsid asid).l1FlushCores asid fun _ => true).tlbDrop asid va len)

/-! ## Results (R64, R411) -/

/-- A thread's results are written, and so are those of every thread with which its last run ended (R64). -/
def State.parked (s : State) (t : Thread) : Bool :=
  t.busy || (t.run != 0 && s.threads.any fun (_, u) => u.run == t.run && u.busy)

/-- The threads of a run become ready at their new PC once every class V result of the run has been written (R64, R178); after a `yld` they
have been so since it (R207). -/
def State.runReady (s : State) (run : Nat) : State :=
  if run = 0 || s.threads.any (fun (_, u) => u.run == run && u.busy) then s
  else { s with threads := Tab.mapVal s.threads fun k u =>
           if u.run == run && !u.yielded && (s.groupOf k).isNone && u.status == .ready then { u with readyAt := s.clock } else u }

/-- A result that has returned is written: its registers and flags, or its fault, which the thread takes at a boundary. -/
def State.writeResult (s : State) (k : Nat) (t : Thread) (p : Pend) (vs : List Word) : State :=
  let t := { t with pend := t.pend.filter fun x => x.order != p.order }
  match p.fault with
  | some i =>
    if t.status == .exited then (s.putThread k t).pushRec (dieOf (s.coreOf k)) (s.threadRec k i p.pc false)
    else s.putThread k { t with due := addDue t.due [{ info := i, faultPc := p.pc, order := p.order }] }
  | none =>
    let fd := if p.traps && t.status != .exited then s.fpDue k t p.flags p.pc p.order else []
    let s := s.putThread k { t.putRegs p.dests vs with due := addDue t.due fd }
    s.raise k p.flags

/-- The late fault of a thread that has exited becomes a record, and its die's queue has no room for it (R239). -/
def State.resultHeldUp (s : State) (k : Nat) (t : Thread) (p : Pend) : Bool :=
  let die := dieOf (s.coreOf k)
  t.status == .exited && p.fault.isSome && (Tab.find s.faultQ die).isSome && s.recRoom die == 0

/-- R64: CLASS_V_RESULT_WRITE: the result of the instruction with a number in its thread's program order is written. -/
def execClassVResultWrite (th ticket : Nat) (s : State) : Out :=
  match Tab.find s.threads th with
  | none => .next s
  | some t =>
    match t.pend.find? (fun p => p.order == ticket) with
    | none => .next s
    | some p =>
      match p.vals with
      | some vs =>
        if s.resultHeldUp th t p then .next s
        else
          let s := if p.fault.isNone then s.updWave (waveKey th) fun w =>
              { w with kregs := writeKregs w.kregs p.dests vs, kbad := w.kbad.filter fun n => !p.dests.contains (.k n) }
            else s
          let done := s.writeResult th t p vs
          .next (if p.dests.isEmpty then done else done.runReady t.run)
      | none =>
        if p.fault.isNone || s.resultHeldUp th t p then .next s
        else
          let done := s.writeResult th t p []
          .next (if p.dests.isEmpty then done else done.runReady t.run)

/-! ## Runs and groups (R60, R177, R178) -/

/-- R60: RUN_IMPLICIT_END: the 64th instruction of a run ends it. -/
def execRunImplicitEnd (g : Nat) (s : State) : Out :=
  match Tab.find s.groups g with
  | none => .next s
  | some x => if x.ended || x.count ≠ 64 || !x.todo.isEmpty then .next s else .next (s.endRun g x)

/-- R178: SCHEDULER_YIELD: a group that has issued 16 runs in a row yields: its members become ready at the moment of the yield.  One that
has executed `yld` has its members' readiness from that (R207). -/
def execSchedulerYield (g : Nat) (s : State) : Out :=
  match Tab.find s.groups g with
  | none => .next s
  | some x =>
    if x.ended && decide (16 ≤ x.runs) then
      .next { s with
        threads := if x.runs = 16 then
            Tab.mapVal s.threads fun k t => if x.members.contains k then { t with readyAt := s.clock } else t
          else s.threads
        groups := Tab.del s.groups g }
    else .next s

/-- A thread's run has ended and its class V results are written: in a context that stops, it counts as stopped (R283). -/
def State.atRest (s : State) (k : Nat) (t : Thread) : Bool := (s.groupOf k).isNone && !t.busy

/-- A ready thread stands still in a context that the debugger has stopped, be it resident or out (R202, R283). -/
def State.stoppedAt (s : State) (k : Nat) (t : Thread) : Bool :=
  let c := s.ctxOf k
  (c.state == .debugStop || c.held) && !t.freed && s.atRest k t

/-- A debugger's stop has been reached: no thread of the context runs or awaits a result (R283, R409). -/
def State.stopReached (s : State) (c : Nat) : Bool :=
  let x := s.ctx c
  (x.state == .debugStop || (x.state == .out && x.held)) && (s.ctxThreads c).all fun (k, t) => t.status == .exited || s.atRest k t

/-- Firmware tells the debugger of a stop that has been reached (R409, type 6). -/
def State.tellStop (s : State) : Option State :=
  s.ctxs.findSome? fun (c, x) =>
    match x.stopFor with
    | none => none
    | some (core, wave, lane, a) =>
      if s.stopReached c then
        some ((s.postEvent 6 x.asid (debugPayload core wave lane a 1)).updCtx c fun y => { y with stopFor := none })
      else none

/-- A thread may start a run: it is ready, its context runs or the debugger has let it go, no run holds it, and the results of its last
run are written (R64, R177, R283). -/
def State.mayStart (s : State) (k : Nat) (t : Thread) : Bool :=
  t.status == .ready && !s.waitsOff k t && (s.groupOf k).isNone && !s.parked t

/-- A group stalls in its run (R65): the next thread waits in place, or all wait at a convergent instruction. -/
def State.stalled (s : State) (g : Group) : Bool :=
  match g.todo with
  | [] => decide (g.count ≠ 64)
  | k :: _ => match Tab.find s.threads k with | some t => t.stall.isSome | none => false

/-- One of two threads is the older, on a tie the one in the lower wave slot (R177, R178). -/
def State.older (s : State) (a b : Nat × Thread) : Bool :=
  a.2.readyAt < b.2.readyAt || (a.2.readyAt == b.2.readyAt && (decide ((s.wave a.1).slot < (s.wave b.1).slot) ||
    ((s.wave a.1).slot == (s.wave b.1).slot && decide (a.1 < b.1))))

/-- The thread of a list that is the oldest. -/
def State.oldest (s : State) : List (Nat × Thread) → Option (Nat × Thread)
  | [] => none
  | x :: r => some (r.foldl (fun b a => if s.older a b then a else b) x)

/-- The members of a new group at a thread's PC: for each home lane the oldest ready thread of the partition there (R177). -/
def State.members (s : State) (core part : Nat) (t : Thread) (asid : Nat) : List Nat :=
  let cs := s.threads.filter fun (k, x) =>
    x.pc == t.pc && s.mayStart k x && s.partOf k == 4 * core + part && (s.ctxOf k).asid == asid
  let l := (List.range 32).filterMap fun lane => s.oldest (cs.filter fun x => laneOf x.1 == lane)
  sortNat (l.map Prod.fst)

/-- The age of the group of some members (R178): the earliest time at which one of them became ready, and the slot of the wave of its
lowest-lane member. -/
def State.groupAge (s : State) (ms : List Nat) : Nat × Nat :=
  let ready := ms.filterMap fun k => (Tab.find s.threads k).map fun t => t.readyAt
  let low := ms.foldl (fun (b : Option Nat) k => match b with
    | none => some k
    | some j => if laneOf k < laneOf j then some k else b) none
  (match ready with | [] => 0 | x :: r => r.foldl min x, match low with | some k => (s.wave k).slot | none => 0)

/-- A thread is a test kernel's (R393). -/
def State.testThread (s : State) (k : Nat) : Bool := (s.ctxOf k).asid == fwAsid

/-- A group is a test kernel's. -/
def State.testGroup (s : State) (g : Group) : Bool := g.members.any s.testThread

/-- No group of a partition but a test kernel's is ready to issue (R392, R393). -/
def State.partQuiet (s : State) (core part : Nat) : Bool :=
  !(s.groups.any fun (_, g) => g.core == core && g.part == part && !g.ended && !s.testGroup g && !s.stalled g) &&
    !s.threads.any fun (k, t) => !s.testThread k && s.mayStart k t && s.partOf k == 4 * core + part

/-- The threads of a partition that may start a run: those of a test kernel where no other group is ready (R393). -/
def State.startable (s : State) (core part : Nat) : List (Nat × Thread) :=
  let l := s.threads.filter fun (k, t) => s.mayStart k t && s.partOf k == 4 * core + part
  if s.tests.isEmpty || s.partQuiet core part then l else l.filter fun (k, _) => !s.testThread k

/-- One age comes before another. -/
def ageBefore (a b : Nat × Nat) : Bool := a.1 < b.1 || (a.1 == b.1 && decide (a.2 < b.2))

/-- The threads at which the group that has just ended a run in a partition goes on: the scheduler keeps it while it has issued fewer than 16
runs in a row (R178). -/
def State.keptThreads (s : State) (core part : Nat) : List (Nat × Thread) :=
  let ended := s.groups.filter fun (_, g) => g.core == core && g.part == part && g.ended && decide (g.runs < 16)
  if ended.isEmpty then []
  else (s.startable core part).filter fun (k, _) => ended.any fun (_, g) => g.members.contains k

/-- The age of the group that a thread of a partition would start. -/
def State.startAge (s : State) (core part k : Nat) (t : Thread) : Nat × Nat := s.groupAge (s.members core part t (s.ctxOf k).asid)

/-- Of the threads that may start a run in a partition, those whose group the scheduler takes (R178): the group that has just ended a run,
at a PC where one of its members goes on; otherwise the oldest group, on a tie the one whose lowest-lane member has the lowest wave slot.  A
group is passed over only for older ones, 16 runs each, and a partition has at most 512 threads: the bound of R179. -/
def State.candidates (s : State) (core part : Nat) : List (Nat × Thread) :=
  if s.groups.any fun (_, g) => g.core == core && g.part == part && g.ended && decide (16 ≤ g.runs) then []
  else
    let kept := s.keptThreads core part
    if !kept.isEmpty then kept
    else
      let ages := (s.startable core part).map fun (k, t) => (k, t, s.startAge core part k t)
      ages.filterMap fun (k, t, a) => if ages.any fun (_, _, b) => ageBefore b a then none else some (k, t)

/-- The group of a partition that the scheduler has taken last, of those in their runs: the current one (R178). -/
def State.front (s : State) (core part : Nat) : Option (Nat × Group) :=
  match s.groups.filter fun (_, g) => g.core == core && g.part == part && !g.ended with
  | [] => none
  | x :: r => some (r.foldl (fun a b => if a.2.turn < b.2.turn then b else a) x)

/-- A partition's current group is in its run and does not stall: it goes on issuing (R178). -/
def State.busyPart (s : State) (core part : Nat) : Bool :=
  (s.keptThreads core part).isEmpty && (match s.front core part with
    | some (_, g) => !s.stalled g && !s.testGroup g
    | none => false)

/-- Groups of a partition in their runs whose stall is over: they go on once the scheduler takes them. -/
def State.resumable (s : State) (core part : Nat) : List (Nat × Group) :=
  s.groups.filter fun (_, g) => g.core == core && g.part == part && !g.ended && !s.stalled g && !s.testGroup g

/-- No group of a partition that is ready, to start a run or to go on with one, is older than a group (R178). -/
def State.unbeaten (s : State) (gk : Nat) (g : Group) : Bool :=
  let a := s.groupAge g.members
  !((s.resumable g.core g.part).any fun (k, h) => k != gk && ageBefore (s.groupAge h.members) a) &&
    !((s.startable g.core g.part).any fun (k, t) => ageBefore (s.startAge g.core g.part k t) a)

/-- The scheduler lets a group in its run issue (R178): it is the current one and does not stall, or that one stalls and no ready group of the
partition is older than it. -/
def State.mayIssue (s : State) (gk : Nat) (g : Group) : Bool :=
  (s.keptThreads g.core g.part).isEmpty && (!s.testGroup g || s.partQuiet g.core g.part) &&
    (match s.front g.core g.part with
      | some (f, h) => (f == gk && !s.stalled g) || (s.stalled h && s.unbeaten gk g)
      | none => false)

/-- A group that goes on with its run after a stall, in the place of the one that was the current one, is the current one of its partition. -/
def State.takeTurn (s : State) (gk : Nat) : State :=
  match Tab.find s.groups gk with
  | none => s
  | some g =>
    if (s.front g.core g.part).map Prod.fst == some gk || s.stalled g then s
    else { s with groups := Tab.put s.groups gk { g with turn := s.ticket }, ticket := s.ticket + 1 }

/-- R177: ISSUE_GROUP_FORM: a partition whose current group has ended or stalls starts a run of the group of a ready thread that the
scheduler takes (R178). -/
def execIssueGroupForm (core part th : Nat) (s : State) : Out :=
  match Tab.find s.threads th with
  | none => .next s
  | some t =>
    let here := s.groups.filter fun (_, g) => g.core == core && g.part == part
    let beaten := (s.keptThreads core part).isEmpty &&
      (s.resumable core part).any fun (_, g) => ageBefore (s.groupAge g.members) (s.startAge core part th t)
    if !(s.candidates core part).any (fun (k, _) => k == th) || s.busyPart core part || beaten then .next s
    else
      let ms := s.members core part t (s.ctxOf th).asid
      let last := here.find? fun (_, g) => g.ended && decide (g.runs < 16) && g.members.contains th
      let runs := match last with | some (_, g) => g.runs | none => 0
      let gone := here.filterMap fun (k, g) => if g.ended then some k else none
      let g : Group := { core := core, part := part, members := ms, todo := ms, count := 0, issue := s.ticket, began := s.clock,
                         allocs := s.allocsOf ms, closing := false, runs := runs, turn := s.ticket, ended := false }
      .next { s with
        threads := Tab.mapVal s.threads fun k x => if ms.contains k then { x with runV := [], run := s.ticket + 1, yielded := false } else x
        groups := Tab.put (s.groups.filter fun (k, _) => !gone.contains k) (s.ticket + 1) g
        ticket := s.ticket + 2 }

/-- R278: TRAP_ENTRY: a ready thread takes the trap that is due at its next instruction boundary. -/
def execTrapEntry (th : Nat) (s : State) : Out :=
  match Tab.find s.threads th with
  | none => .next s
  | some t =>
    match t.dueBefore with
    | none => .next s
    | some d => if t.status == .ready && !s.waitsOff th t then .next (s.takeDue th t d) else .next s

/-! ## Time-outs and their reports (R201 to R203) -/

/-- State of a missing thread in a report (Table 9-4). -/
def State.missState (s : State) (k : Nat) (t : Thread) : Nat :=
  if s.stoppedAt k t then 2
  else
    match t.status with
    | .parked _ _ | .unrecorded _ _ | .copying => 1
    | .stopped => if t.busy then 0 else 2
    | .waiting _ _ => 3
    | _ => 0

/-- An entry of a report: gang block index, wave, PC, state and lanes. -/
structure MissEntry where
  gidx : Nat
  wave : Nat
  pc : Nat
  state : Nat
  lanes : BitVec 32
  deriving DecidableEq, Repr

/-- The order of a report's entries. -/
def MissEntry.before (a b : MissEntry) : Bool :=
  a.gidx < b.gidx || (a.gidx == b.gidx && (a.wave < b.wave || (a.wave == b.wave && (a.pc < b.pc || (a.pc == b.pc && decide (a.state < b.state))))))

/-- Two entries name one place. -/
def MissEntry.same (a b : MissEntry) : Bool := a.gidx == b.gidx && a.wave == b.wave && a.pc == b.pc && a.state == b.state

/-- A thread joins the entries in their order. -/
def addMiss (e : MissEntry) : List MissEntry → List MissEntry
  | [] => [e]
  | x :: r => if e.same x then { x with lanes := x.lanes ||| e.lanes } :: r else if e.before x then e :: x :: r else x :: addMiss e r

/-- The entries of missing threads; `gang` says that they name gang block indices. -/
def State.missing (s : State) (gang : Bool) (l : List (Nat × Thread)) : List MissEntry :=
  l.foldl (fun es (k, t) =>
    addMiss { gidx := if gang then (s.block (blkOf k)).gidx else 0, wave := waveOf k, pc := t.pc.toNat, state := s.missState k t,
              lanes := laneBit (laneOf k) } es) []

/-- The 1,040 bytes of a report (Table 9-4). -/
def reportBytes (kind index phase count : Nat) (es : List MissEntry) : List Byte :=
  let head := natBytes 2 (min es.length 64) ++ natBytes 1 (if 64 < es.length then 1 else 0) ++ natBytes 1 kind ++ natBytes 1 index ++
    natBytes 1 0 ++ natBytes 2 count ++ natBytes 8 phase
  let body := (es.take 64).flatMap fun e =>
    natBytes 8 e.pc ++ bytesOf 4 e.lanes ++ natBytes 1 e.wave ++ natBytes 1 e.gidx ++ natBytes 1 e.state ++ natBytes 1 0
  head ++ body ++ List.replicate (1024 - body.length) 0

/-- Writes a wave's report: the address that its threads' traps report. -/
def State.writeReport (s : State) (w : Nat) (bytes : List Byte) : State × Pair :=
  let b := s.block (w / 32)
  let c := s.ctx b.ctx
  let off := c.reportOffset b.gidx (w % 32)
  (s.updCtx b.ctx fun x => { x with imageBytes := Store.writes x.imageBytes off bytes }, c.image + BitVec.ofNat 64 off)

/-- What a time-out event reports: the cause, the kind and index, the phase and the missing threads. -/
structure TimeoutKind where
  cause : BitVec 8
  kind : Nat
  index : Nat
  phase : Nat
  gang : Bool
  missing : List (Nat × Thread)
  deriving DecidableEq, Repr

/-- A wave's report may be written: every thread of an earlier event has returned or exited (R202). -/
def State.reportFree (s : State) (w : Nat) : Bool := (Tab.getD s.waves w Wave.absent).reported.isEmpty

/-- A thread's status as it enters the time-out trap: a barrier's arrival stands and its instruction acts as `wt` when it is executed
again (R162). -/
def Thread.timedOut (t : Thread) : Thread :=
  let key := match t.status with
    | .waiting (.bar i _) _ => some i
    | .waiting (.gbar i _) _ => some (i + 16)
    | .waiting (.barFirst gang i _ _) _ => some (if gang then i + 16 else i)
    | _ => none
  { t with status := .ready, again := match key with | some i => Tab.put t.again i t.pc.toNat | none => t.again }

/-- A time-out event of threads: the report of each of their waves is written, then they trap, those at one PC as one event. -/
def State.timeoutEvent (s : State) (x : TimeoutKind) (ks : List Nat) : State :=
  let es := s.missing x.gang x.missing
  let bytes := reportBytes x.kind x.index x.phase x.missing.length es
  let ws := dedup (ks.map waveKey)
  let (s, vas) := ws.foldl (fun (sv : State × List (Nat × Pair)) w =>
    let (s, va) := sv.1.writeReport w bytes
    (s.updWave w fun v => { v with reported := ks.filter fun k => waveKey k == w }, sv.2 ++ [(w, va)])) (s, ([] : List (Nat × Pair)))
  let pcs := dedup (ks.filterMap fun k => (Tab.find s.threads k).map fun t => t.pc.toNat)
  pcs.foldl (fun s pc =>
    let ev := s.ticket
    ks.foldl (fun s k =>
      match Tab.find s.threads k with
      | none => s
      | some t =>
        if t.pc.toNat ≠ pc || t.inHandler && t.trap.event == ev then s
        else
          let va := match vas.find? (fun y => y.1 == waveKey k) with | some y => y.2 | none => 0
          let i : TrapInfo := { cause := x.cause, addr := va, detail := BitVec.ofNat 32 (x.index + 256 * x.kind), kind := 0, size := 0 }
          match t.status with
          | .waiting _ _ => s.takeTrap k t.timedOut i t.pc t.pc ev
          | _ => s) { s with ticket := s.ticket + 1 }) s

/-- Threads of a list that wait at what `p` names and have waited longer than the time-out, their waves' reports free and their context
running or the debugger having let them go.  A wait that stands counts the time for which its context was out or stopped; the trap comes
once the context runs (log 68). -/
def State.expired (s : State) (ts : List (Nat × Thread)) (limit : Nat) (p : Thread → Bool) : List Nat :=
  ts.filterMap fun (k, t) =>
    if p t && decide (limit < s.clock - t.since) && s.reportFree (waveKey k) && !s.waitsOff k t then some k else none

/-- R123: CONVERGENT_TIMEOUT: counted from the first arrival at a PC, it takes every participant of a wave there. -/
def execConvergentTimeout (wave : Nat) (s : State) : Out :=
  let live := (s.waveThreads wave).filter fun (_, t) => t.status != .exited
  let since (t : Thread) : Nat := Tab.getD (Tab.getD s.waves wave Wave.absent).conv t.pc.toNat t.since
  match live.filter fun (_, t) => t.inConv with
  | [] => .next s
  | p :: r =>
    let first := r.foldl (fun (a b : Nat × Thread) => if since b.2 < since a.2 then b else a) p
    let pc := first.2.pc
    let limit := (s.ctxOf first.1).limit
    if limit < s.clock - since first.2 && s.reportFree wave && !s.waitsOff first.1 first.2 then
      let ks := (live.filter fun (_, t) => t.inConv && t.pc == pc).map Prod.fst
      let x : TimeoutKind := { cause := 0x0b, kind := 4, index := 0, phase := 0, gang := false,
                               missing := live.filter fun (k, _) => !ks.contains k }
      .next ((s.updWave wave fun v => { v with conv := Tab.del v.conv pc.toNat }).timeoutEvent x ks)
    else .next s

/-- Lanes that a waiting thread's own mask names and that have neither arrived at the join nor exited (R203). -/
def State.joinMissing (s : State) (w : Nat) (id : BitVec 7) (mask : BitVec 32) : List (Nat × Thread) :=
  (s.waveThreads w).filter fun (k, t) =>
    mask.getLsbD (laneOf k) && t.status != .exited &&
      (match t.status with | .waiting (.join i _) _ => i != id | _ => true)

/-- A thread waits at a join with an id and a mask. -/
def Thread.atJoin (t : Thread) (id : BitVec 7) (mask : BitVec 32) : Bool :=
  match t.status with
  | .waiting (.join i m) _ => i == id && m == mask
  | _ => false

/-- R198: JOIN_TIMEOUT: a thread that has waited too long, and those of its wave that wait there with its mask, trap; they leave W. -/
def execJoinTimeout (th : Nat) (s : State) : Out :=
  match Tab.find s.threads th with
  | none => .next s
  | some t =>
    match t.status with
    | .waiting (.join id mask) _ =>
      let w := waveKey th
      let ks := s.expired (s.waveThreads w) (s.ctxOf th).limit fun x => x.atJoin id mask
      if !ks.contains th then .next s
      else
        let x : TimeoutKind := { cause := 0x0b, kind := 3, index := id.toNat, phase := 0, gang := false,
                                 missing := s.joinMissing w id mask }
        .next ((s.timeoutEvent x ks).joinAt w id)
    | _ => .next s

/-- What a barrier, `phend` or timeline wait of a thread is, if it is one: kind, index and phase. -/
def Thread.barWaits (t : Thread) : Option (Nat × Nat × Nat) :=
  match t.status with
  | .waiting (.bar i p) _ => some (0, i, p)
  | .waiting (.gbar i p) _ => some (1, i, p)
  | .waiting (.barFirst gang i p _) _ => some (if gang then 1 else 0, i, p)
  | .waiting .phend _ => some (2, 0, t.pc.toNat)
  | .waiting (.timeline _ _) _ => some (5, 0, 0)
  | _ => none

/-- The missing threads of a wait (R203). -/
def State.barMissing (s : State) (k kind i phase : Nat) : List (Nat × Thread) :=
  let b := s.block (blkOf k)
  let live (l : List (Nat × Thread)) := l.filter fun (_, t) => t.status != .exited
  match kind with
  | 0 => let a := (s.barrier k false i).arrived; (live (s.blockThreads (blkOf k))).filter fun (x, _) => !a.contains x
  | 1 => let a := (s.barrier k true i).arrived; (live (s.ctxThreads b.ctx)).filter fun (x, _) => !a.contains x
  | 2 => (live (s.ctxThreads b.ctx)).filter fun (_, t) => match t.status with
    | .waiting .phend _ => t.pc.toNat != phase
    | _ => true
  | _ => []

/-- R162: BARRIER_TIMEOUT: a barrier, `phend` or timeline wait has lasted too long; every thread whose same wait has run out traps. -/
def execBarrierTimeout (th : Nat) (s : State) : Out :=
  match Tab.find s.threads th with
  | none => .next s
  | some t =>
    match t.barWaits with
    | none => .next s
    | some (kind, i, phase) =>
      let b := s.block (blkOf th)
      let ts := if kind = 0 then s.blockThreads (blkOf th) else if kind = 5 then s.waveThreads (waveKey th) else s.ctxThreads b.ctx
      let ks := s.expired ts (s.ctxOf th).limit fun x => x.barWaits == some (kind, i, phase)
      let miss := s.barMissing th kind i phase
      if !ks.contains th || (kind == 2 && miss.isEmpty) then .next s
      else
        let x : TimeoutKind := { cause := 0x0a, kind := kind, index := i, phase := if kind ≤ 1 then phase else 0, gang := kind == 1 || kind == 2,
                                 missing := miss }
        .next (s.timeoutEvent x ks)

end Sys2Proof.Machine
end

