-- ==== Sys2Proof/Machine/Reliability.lean ====
section
/-!
DEFINITION. Die fencing (R391) and the background activities: patrol scrub and calibration (R382, R392) and test kernels (R393).
-/
namespace Sys2Proof.Machine

/-! ## Fencing a die (R391) -/

/-- Cores of a die (R403). -/
def coresOf (die : Nat) : List Nat := (List.range 192).map fun i => 192 * die + i

/-- A physical address lies in a stack of a die. -/
def onDie (die pa : Nat) : Bool := decide (pa < 2 ^ 40) && stackOf pa / 4 == die

/-- Operations in flight of the other dies' threads are performed, those of the die's own threads are lost. -/
def State.cutLinks (s : State) (die : Nat) : State :=
  let far := dedup ((s.homeQ.filter fun h => dieOf (s.coreOf h.thread) != die).map fun h => h.thread)
  let s := far.foldl State.drain s
  { s with homeQ := [], bankQ := s.bankQ.filter fun h => dieOf (s.coreOf h.thread) != die
           accordQ := s.accordQ.filter fun o => o.sent || dieOf o.core != die
           l1 := s.l1.filter fun (k, _) => dieOf (k / 2 ^ 35) != die
           tlb := s.tlb.filter fun t => dieOf t.core != die }

/-- The die's storage and sequencers are lost. -/
def State.loseStorage (s : State) (die : Nat) : State :=
  { s with
    mem := s.mem.filter fun (a, _) => !onDie die a
    poison := s.poison.filter fun u => !onDie die (32 * u)
    badWords := s.badWords.filter fun w => match w with
      | .mem pa => !onDie die pa
      | .bank d _ => d != die
      | _ => true
    bank := s.bank.filter fun (a, _) => a / 2 ^ 26 != die
    l1 := s.l1.filter fun (k, _) => !onDie die (k % 2 ^ 35 * 64)
    faultQ := Tab.del s.faultQ die
    recWait := Tab.del s.recWait die
    sillage := s.sillage.filter fun (cl, _) => cl / 4 != die
    freeFrames := s.freeFrames.filter fun f => !onDie die (f * 65536) }

/-- Queued tasks of the die's cores: gangs and unpinned tasks wait for another cluster; the launch of a task pinned to a core of
the die is killed, since the task can run nowhere else. -/
def State.moveTasks (s : State) (die : Nat) : State :=
  let stuck (t : Task) : Bool := !t.unassigned && dieOf t.core == die
  let dead := dedup ((s.tasks.filter fun (_, t) => stuck t && t.pinned && t.blocks == 1).map fun (_, t) => t.launch)
  let s := { s with
    tasks := Tab.mapVal s.tasks fun _ t => if stuck t then { t with unassigned := true } else t
    launches := Tab.mapVal s.launches fun k l => if dead.contains k then { l with killed := true } else l }
  let gone := s.tasks.filter fun (_, t) => dead.contains t.launch
  let s := gone.foldl (fun s (_, t) =>
    match Tab.find s.launches t.launch with
    | some l => (s.updAsid l.asid fun a => { a with ctxUsed := a.ctxUsed - t.bytes }).launchDown t.launch 1
    | none => s) s
  { s with tasks := s.tasks.filter fun (_, t) => !dead.contains t.launch }

/-- Populations with a state frame on the die (R391 step 6). -/
def State.lostPops (s : State) (die : Nat) : List Nat :=
  s.pops.filterMap fun (h, p) => if p.state != .free && p.frames.any (onDie die) then some h else none

/-- Members of valid sets whose stack is on the die. -/
def State.lostMembers (s : State) (die : Nat) : List (Nat × Nat) :=
  (List.range 32).flatMap fun set =>
    ((List.range 5).filter fun m => bit (s.setOf set) 23 && decide (m < setCount (s.setOf set)) && setStack (s.setOf set) m / 4 == die).map
      fun m => (set, m)

/-- Fences a die. -/
def State.fenceDie (s : State) (die : Nat) : State :=
  if 4 ≤ die || s.fenced.contains die then s
  else
    let s := s.cutLinks die
    let s := (List.range 9).foldl (fun s j => s.portDown (9 * die + j)) s
    let pops := s.lostPops die
    let s := { (s.loseStorage die) with fenced := insertNat die s.fenced, stealing := true, tests := s.tests.filter fun r => dieOf r.core != die }
    let s := ((s.ctxs.filter fun (_, c) => c.die == die).map Prod.fst).foldl (fun s c => s.killCtx c none) s
    let s := s.moveTasks die
    let s := { s with txs := s.txs.filter fun (_, t) => t.die != die }
    let s := ((s.colls.filter fun (_, c) => c.die == die).map Prod.fst).foldl (fun s i => s.endColl i collFault) s
    let s := (s.lostMembers die).foldl (fun s (set, m) => s.loseMember set m) s
    let s := pops.foldl State.dropPop s
    let s := { s with starved := false, host := { s.host with boot := s.host.boot &&& ~~~(BitVec.ofNat 32 (2 ^ (4 + die))) } }
    s.postEvent 3 0xffff (natBytes 1 die)

/-- R391: DIE_FENCE. -/
def execDieFence (die : Nat) (s : State) : Out := .next (s.fenceDie die)

/-! ## Background activities (R382, R392) -/

/-- Accord copies whose data or tag lies in a 32-byte unit. -/
def State.copiesAt (s : State) (unit : Nat) : List (Nat × Nat × Nat) :=
  let pa := 32 * unit
  let off := pa % 2 ^ 36
  let lines := if s.accordBase ≤ off ∧ off < s.accordBase + s.accordLen then [(off - s.accordBase) / 64]
    else if s.accordBase + s.accordLen ≤ off ∧ off < s.accordBase + s.accordLen + s.accordLen / 8 then
      (List.range 4).map fun i => (off - s.accordBase - s.accordLen) / 8 + i
    else []
  lines.flatMap fun l => (s.accordPages.filter fun (_, p, _) => p == l / 1024).flatMap fun (set, _, _) =>
    ((setLive (s.setOf set)).filter fun m => setStack (s.setOf set) m == stackOf pa).map fun m => (set, l, m)

/-- R392: PATROL_SCRUB: a unit of HBM is read; an error in it, if there is one, is corrected in place and logged, which no program can see
(R382); one that cannot be corrected marks the unit poisoned, or, in an Accord copy, keeps the copy from answering (R377). -/
def execPatrolScrub (unit : Nat) (uncorrectable : Bool) (s : State) : Out :=
  if 2 ^ 40 ≤ 32 * unit || !paLegal (32 * unit) || s.lost (32 * unit) then .next s
  else if !uncorrectable then
    let (error, s) := s.pick 2
    .next (if error = 1 then s.logError 0 unit else s)
  else
    let bad := s.copiesAt unit
    let s := s.logError 0 unit
    if bad.isEmpty then .next { s with poison := insertNat unit s.poison }
    else .next { s with accordBad := s.accordBad ++ bad.filter fun x => !s.accordBad.contains x }

/-- The kind and the place of an error of a protected word or unit in firmware's log (R382, log 36). -/
def EccUnit.logAs (c : EccUnit) : Nat × Nat :=
  match c with
  | .reg k n => (6, 512 * k + n)
  | .kreg w n => (7, 16 * w + n)
  | .word (.mem pa) => (8, pa)
  | .word (.spad b off) => (9, 2 ^ 20 * b + off)
  | .word (.bank d off) => (10, 2 ^ 26 * d + off)
  | .word (.image _ off) => (8, off)
  | .l1 key i => (11, 8 * key + i)
  | .unit u => (0, u)
  | .entry b => (12, b)

/-- An error that cannot be corrected poisons a word or unit; one that holds nothing has nothing to poison (R382). -/
def State.poisonUnit (s : State) (c : EccUnit) : State :=
  match c with
  | .reg k n => { s with threads := Tab.upd s.threads k fun t => { t with bad := insertNat n t.bad } }
  | .kreg w n => { s with waves := Tab.upd s.waves w fun v => { v with kbad := insertNat n v.kbad } }
  | .word (.mem pa) => { s with badWords := (Place.mem (8 * (pa / 8))) :: s.badWords.filter (· != .mem (8 * (pa / 8))) }
  | .word (.spad b off) => { s with badWords := (Place.spad b (8 * (off / 8))) :: s.badWords.filter (· != .spad b (8 * (off / 8))) }
  | .word (.bank d off) => { s with badWords := (Place.bank d (8 * (off / 8))) :: s.badWords.filter (· != .bank d (8 * (off / 8))) }
  | .word (.image _ _) => s
  | .l1 key i => { s with l1 := Tab.upd s.l1 key fun l => { l with bad := l.bad ||| BitVec.ofNat 8 (2 ^ (i % 8)) } }
  | .unit u => { s with poison := insertNat u s.poison }
  | .entry b => { s with blocks := Tab.upd s.blocks b fun x => { x with bufBad := !x.buffer.isEmpty } }

/-- R382: ECC finds an error in an array, on a read or by a scrub: one that it corrects is logged, and no program sees it; one that it cannot
correct is logged and poisons the word or unit. -/
def State.eccError (s : State) (c : EccUnit) (corrected : Bool) : State :=
  let s := s.logError c.logAs.1 c.logAs.2
  if corrected then s else s.poisonUnit c

/-- R392: CALIBRATION: one lane of a port is recalibrated; traffic continues. -/
def execCalibration (port lane : Nat) (s : State) : Out :=
  .next { s with ports := Tab.upd s.ports port fun p => { p with lane := lane } }

/-! ## Test kernels (R393) -/

/-- Address of a test kernel's image in firmware's address space: the header, and the code behind it (log 87). -/
def testVa (image : Nat) : Nat := 2 ^ 48 + image % 2 ^ 16 * 2 ^ 32

/-- Firmware's address space for test kernels (R393), under firmware's key. -/
def State.openFw (s : State) : Option State :=
  match Tab.find s.asids fwAsid with
  | some _ => some s
  | none =>
    match s.allocFrames none 32 with
    | none => none
    | some (s, pa) =>
      let a : Asid :=
        { live := true, key := s.fwKey, closing := false, keyGen := 0, root := pa, limit := 2 ^ 40, used := 0, ctxPool := 2 ^ 40, ctxUsed := 0,
          statePool := 0, stateUsed := 0, relaunchPool := 2 ^ 40, launches := 0, banks := [], bankN := [], bankDone := [],
          portN := [], portDone := [], msgQueue := none, produced := 0, debug := false, collective := none }
      some { s with asids := Tab.put s.asids fwAsid a }

/-- Firmware puts bytes into pages of its own, readable, writable and executable. -/
def State.mapFw (s : State) (va : Nat) (b : List Byte) : Nat → Option State
  | 0 => some s
  | n + 1 =>
    match s.allocFrames none 1 with
    | none => none
    | some (s, pa) =>
      match s.setLeaf fwAsid va 16 (mkLeaf pa 7 true false 0) with
      | none => none
      | some s => (s.writeMem pa (b.take 65536)).mapFw (va + 65536) (b.drop 65536) n

/-- The image of a test kernel stands in firmware's memory with its result area. -/
def State.mapTest (s : State) (image : Nat) (x : TestImage) : Option State :=
  match s.openFw with
  | none => none
  | some s =>
    match s.leafOf fwAsid (testVa image) with
    | .unmapped => s.mapFw (testVa image) x.payload ((max x.payload.length (x.area.1 + x.area.2) + 65535) / 65536)
    | _ => some s

/-- A wave slot of a partition of a core that no task can use (R393): the partition is quarantined, or no queued task fits the core. -/
def State.idleSlot (s : State) (core part : Nat) : Option Nat :=
  let used := s.usedSlots core
  let bad := (Tab.getD s.power.quarantine core 0).getLsbD part
  if bad || !(s.tasks.any fun (_, t) => s.coreFits core t.waves t.header) then
    ((List.range 64).filter fun n => n % 4 == part && !used.contains n).getLast?
  else none

/-- The launch of a test kernel: one block of one full wave, which completes without a write, of a priority below every task's. -/
def testLaunch (image core : Nat) : Launch :=
  { asid := fwAsid, number := 0, hdr := BitVec.ofNat 64 (testVa image), args := 0, completion := 0, value := 0, extents := [32, 1, 1, 1, 1, 1],
    widths := [5, 0, 0, 0, 0, 0], b := 1, g := 1, priority := 0, deadline := 3, die := dieOf core, open_ := 1, killed := false,
    population := none, quiet := true }

/-- A test kernel starts in a wave slot of its core, none where its image has no form that runs or finds no frame. -/
def State.startTest (s : State) (r : TestRun) (slot : Nat) : Option State :=
  match Tab.find s.images r.image with
  | none => none
  | some x =>
    match x.header, s.mapTest r.image x with
    | some h, some s =>
      let ln := s.ticket
      let l := testLaunch r.image r.core
      let t : Task := { launch := ln, header := h, hdr := l.hdr, kind := .gang 0, blocks := 1, pinned := true, core := r.core, queued := 0,
                        unassigned := false }
      let c := ln + 1
      let s := ({ s with ticket := c, launches := Tab.put s.launches ln l }).placeOn t l [r.core] 0 []
      let s := s.updWave (32 * (c + 1)) fun v => { v with slot := slot }
      some { s with tests := (s.tests.filter fun y => y.core != r.core) ++ [{ r with slot := some slot, ctx := c }] }
    | _, _ => none

/-- Firmware places an image as a test kernel on a core that holds none; an image that starts raises the fused counter of its kind to its
version (R397). -/
def State.placeTest (s : State) (image core part : Nat) : State :=
  if 768 ≤ core || s.fenced.contains (dieOf core) || s.tests.any (fun r => r.core == core) then s
  else
    match Tab.find s.images image, s.idleSlot core part with
    | some x, some n =>
      match s.startTest { core := core, slot := none, image := image, ctx := 0, first := none } n with
      | some s => { s with fused := if (Store.read s.fused 3).ult x.version then Store.write s.fused 3 x.version else s.fused }
      | none => s
    | _, _ => s

/-- A test kernel that has lost its slot starts again in one that no task can use. -/
def State.resumeTest (s : State) (r : TestRun) : State :=
  if r.slot.isSome then s
  else
    match (List.range 4).findSome? (s.idleSlot r.core) with
    | some n => (s.startTest r n).getD s
    | none => s

/-- Firmware's work on test kernels in a turn in which nothing else happens (R392, R393): those without a slot go on, and another may be placed. -/
def State.idle (s : State) : State :=
  if s.images.isEmpty then s
  else
    let s := s.tests.foldl State.resumeTest s
    let (n, s) := s.pick (1 + s.images.length)
    if n = 0 then s
    else
      let (core, s) := s.pick 768
      let (part, s) := s.pick 4
      s.placeTest ((s.images.map Prod.fst).getD (n - 1) 0) core part

/-- The kernel runs again on another core, the first from `other` on that can hold it (R393). -/
def State.rerunTest (s : State) (image core slot other : Nat) : State :=
  let others := ((List.range 768).map fun j => (other + j) % 768).filter fun c =>
    c != core && !s.fenced.contains (dieOf c) && !s.tests.any fun r => r.core == c
  match others with
  | [] => s
  | c :: _ => s.resumeTest { core := c, slot := none, image := image, ctx := 0, first := some (core, slot) }

/-- The test of a core is over and its result area is as the image says: firmware may clear the quarantine of the partition that ran it (R386). -/
def State.testPassed (s : State) (core slot : Nat) (clears : Bool) : State :=
  let q := Tab.getD s.power.quarantine core 0 &&& ~~~(BitVec.ofNat 4 (2 ^ (slot % 4)))
  let s := { s with stealing := false }
  if !clears then s
  else { s with power := { s.power with quarantine := if q = 0 then Tab.del s.power.quarantine core else Tab.put s.power.quarantine core q } }

/-- The core of a first run has failed: the partition that ran it, or the whole core, is quarantined (R393). -/
def State.testFailed (s : State) (core slot : Nat) (whole : Bool) : State :=
  let s := { s with stealing := true }
  if whole then (List.range 4).foldl (fun s p => s.quarantinePart (4 * core + p)) s else s.quarantinePart (4 * core + slot % 4)

/-- Bytes of firmware's own memory, page by page; none where a page cannot be read. -/
def State.fwReadAll (s : State) : List (Nat × Nat) → State × Option (List Byte)
  | [] => (s, some [])
  | (va, n) :: r =>
    match s.fwRead fwAsid va n with
    | (s, none) => (s, none)
    | (s, some b) =>
      match State.fwReadAll s r with
      | (s, some c) => (s, some (b ++ c))
      | x => x

/-- R393: TEST_KERNEL_END: a test kernel on a core has ended: the digest of its result area is compared with the image's.  On a mismatch the
kernel runs again on another core; where that run matches, the first core is quarantined, and otherwise the image is suspect.  The
test is over: levelled stealing stays only where another runs or where the core has failed it (R191).  What R386 and R393 leave to firmware the
event says: `choice`, whether a match clears the quarantine of the partition that ran it, or a failure quarantines the whole core; and
`other`, from which core on another is looked for (log 41). -/
def execTestKernelEnd (core image : Nat) (choice : Bool) (other : Nat) (s : State) : Out :=
  match Tab.find s.images image, s.tests.find? fun r => r.core == core && r.image == image with
  | some x, some r =>
    match r.slot with
    | none => .next s
    | some slot =>
      if s.ctxs.any (fun e => e.1 == r.ctx) then .next s
      else
        let s := { s with tests := s.tests.filter fun y => y.core != core }
        let (s, area) := s.fwReadAll (pagePieces (testVa image + x.area.1) x.area.2)
        let good := match area with | some b => Config.sha384 b == x.result | none => false
        .next (match good, r.first with
          | true, none => s.testPassed core slot choice
          | false, none => s.rerunTest image core slot other
          | true, some (c, n) => s.testFailed c n choice
          | false, some _ => { s with power := { s.power with suspect := s.power.suspect ++ [image] } })
  | _, _ => .next s

end Sys2Proof.Machine
end

