-- ==== Sys2Proof/Machine/Module.lean ====
section
/-!
DEFINITION. The module: reset and boot (R401, R402), power (R403), cooling (R404), and the host's accesses to the registers and
apertures of the host link (R399, R400, R405, R406).
-/
namespace Sys2Proof.Machine

/-! ## Reset and boot (R402) -/

/-- Boot status (Table 23-1). -/
def bootStatus (code : BitVec 8) (dies : BitVec 4) (fail ready mem : Bool) : Word :=
  code ++ (0 : BitVec 16) ++ dies ++ BitVec.ofBool fail ++ BitVec.ofBool ready ++ BitVec.ofBool mem ++ (1 : BitVec 1)

/-- The module when its reset begins: what its storage held is gone; host memory, the fused counters, the modules of the domain and
the model's own fields stay. -/
def State.cleared (s : State) (boot : BootIn) : State :=
  { State.reset with
    agenda := s.agenda, picks := s.picks, ticket := s.ticket, bootIn := boot, domain := s.domain, fused := s.fused,
    glitches := s.glitches, chunkErrs := s.chunkErrs, mem := s.mem.filter fun (a, _) => decide (2 ^ 40 ≤ a) }

/-- A fault record queue for a live die (R239): it lies at the lowest frames of its first stack that are free. -/
def State.giveFaultQ (s : State) (k die : Nat) : State :=
  match s.allocFrames (some (4 * die)) ((2 ^ k * 32 + 65535) / 65536) with
  | some (s, pa) => { s with faultQ := Tab.put s.faultQ die { base := pa, k := k, append := 0, consumed := 0 } }
  | none => s

/-- A port after its training, with the receive buffers reserved at the other end (R324). -/
def Port.trained (up : Bool) (buffers : List Nat) : Port :=
  { up := up, retraining := false, expect := 0, fails := 0, asked := none, inbox := [], seqOut := 0, room := buffers, queued := [], kept := [], wire := [],
    lane := 0 }

/-- log2 of the record count of a fault record queue: 6 to 16 (R239). -/
def bootQueueK (b : BootIn) : Nat := max 6 (min 16 b.faultK)

/-- READY (R401). -/
def State.isReady (s : State) : Bool := s.host.boot.getLsbD 2

/-- Until READY, a configuration request that would touch device state is answered with Configuration Request Retry Status (R402). -/
def State.configRetry (s : State) : Bool := !s.isReady

/-- The dies that a list leaves out. -/
def diesBut (l : List Nat) : List Nat := (List.range 4).filter fun d => !l.contains d

/-- The DIES field for some dies. -/
def diesBits (l : List Nat) : BitVec 4 := l.foldl (fun m d => m ||| BitVec.ofNat 4 (2 ^ d)) 0

/-- Dies are fenced during the boot: firmware posts event 3 for each (R402, R409). -/
def State.fenceAtBoot (s : State) (dies : List Nat) : State :=
  (dies.filter fun d => !s.fenced.contains d).foldl (fun s d => ({ s with fenced := insertNat d s.fenced }).postEvent 3 0xffff (natBytes 1 d)) s

/-- The boot stops (R402): FAIL and its code. -/
def State.bootFail (s : State) (code : BitVec 8) (mem : Bool) : State := { s with host := { s.host with boot := bootStatus code 0 true false mem } }

/-- An envelope's header has the form of a kind (R396). -/
def headOk (kind : Nat) (h : List Byte) (payload : Nat) : Bool :=
  field h 0 4 == 0x47535950 && field h 4 2 == 1 && field h 6 2 == kind && zeroField h 0xc 4 && decide (field h 0x10 8 = payload)

/-- The bytes that both signatures of an envelope cover: 0x000 to 0x1F7. -/
def envelopeSigned (e : Envelope) : List Byte := e.head ++ e.digest ++ e.rsaKey ++ e.slhKey

/-- An envelope of Table 22-2 from its bytes, none where they are too few. -/
def envelopeOf (b : List Byte) : Option Envelope :=
  let n := field b 0x10 8
  if b.length < 0x42d8 + n then none
  else some { head := b.take 0x18, digest := (b.drop 0x18).take 48, rsaKey := (b.drop 0x48).take 384, slhKey := (b.drop 0x1c8).take 48,
              rsaSig := (b.drop 0x1f8).take 384, slhSig := (b.drop 0x378).take 16224, payload := (b.drop 0x42d8).take n }

/-- Security version of an envelope. -/
def envelopeVersion (e : Envelope) : Nat := field e.head 8 4

/-- Why an envelope of a kind is rejected (R396, R397), none where it is accepted: 1 its form, 2 a key, 3 a signature, 4 the digest, 5 its
security version; the numbers are those of firmware's log (log 88). -/
def State.refusal (s : State) (kind : Nat) (e : Envelope) : Option Nat :=
  if !headOk kind e.head e.payload.length then some 1
  else if envelopeVersion e < (Store.read s.fused kind).toNat then some 5
  else if Config.sha384 e.rsaKey != (Config.fusedDigest kind).1 || Config.sha384 e.slhKey != (Config.fusedDigest kind).2 then some 2
  else if !Config.rsaVerify e.rsaKey (envelopeSigned e) e.rsaSig || !Config.slhVerify e.slhKey (envelopeSigned e) e.slhSig then some 3
  else if Config.sha384 e.payload != valOf 384 e.digest then some 4
  else none

/-- Firmware logs why it has rejected an envelope of a kind (R397). -/
def State.logRefusal (s : State) (kind reason : Nat) : State := s.logError 5 (kind + 16 * reason)

/-- Step 2 of Table 23-2 with an envelope that is rejected: FAIL with CODE 1. -/
def State.bootRejected (s : State) (reason : Nat) : State := (s.bootFail 1 false).logRefusal 1 reason

/-- Steps 3 and 4 of Table 23-2: memory and the links of the dies that are live; where none remains, FAIL. -/
def State.bootStorage (s : State) (b : BootIn) : State :=
  let s := s.fenceAtBoot ((List.range 4).filter b.badDies.contains)
  let s := if (diesBut s.fenced).isEmpty then s else s.fenceAtBoot ((List.range 4).filter b.badLinks.contains)
  let live := diesBut s.fenced
  if live.isEmpty then s.bootFail (if (diesBut b.badDies).isEmpty then 2 else 3) false
  else
    { s with
      accordBase := b.accordBase, accordLen := b.accordLen, fwVersion := BitVec.ofNat 32 (envelopeVersion b.firmware)
      fwMeasure := Config.sha384 b.firmware.payload
      host := { s.host with boot := bootStatus 0 (diesBits live) false false true } }

/-- Steps 2 to 4 of Table 23-2: the firmware's envelope comes first. -/
def State.bootMemory (s : State) (b : BootIn) : State :=
  match s.refusal 1 b.firmware with
  | some r => s.bootRejected r
  | none => s.bootStorage b

/-- A test kernel's image as it is loaded; its header is one of one wave, or the kernel never runs (log 87). -/
def testImage (e : Envelope) : TestImage :=
  { measure := Config.sha384 e.payload, result := Config.testDigest e.payload, version := BitVec.ofNat 32 (envelopeVersion e), payload := e.payload
    header := (parseHeader e.payload).filter fun h => h.waves == 1 && !h.relaunch
    area := Config.testArea e.payload }

/-- The test kernels' images are loaded; what is rejected is logged (R397). -/
def State.loadTests (s : State) (b : BootIn) : State :=
  (b.tests.zipIdx).foldl (fun s (e, i) =>
    match s.refusal 3 e with
    | some r => s.logRefusal 3 r
    | none => { s with images := Tab.put s.images i (testImage e) }) s

/-- Steps 5 to 8 of Table 23-2: key slots, quarantines, fabric ports and READY; a die that fails a step is fenced, and where none remains the
boot stops with the code of the step that the last one failed.  The firmware's image has started: the fused counter rises to its version (R397). -/
def State.bootReady (s : State) (b : BootIn) : State :=
  let s := { s with fwKey := Config.newKey s.ticket, ticket := s.ticket + 1 }
  let s := s.fenceAtBoot ((List.range 4).filter b.badTests.contains)
  let tested := diesBut s.fenced
  let s := if tested.isEmpty then s else s.fenceAtBoot ((List.range 4).filter b.badFabric.contains)
  let live := diesBut s.fenced
  if live.isEmpty then s.bootFail (if tested.isEmpty then 5 else 4) true
  else
    let s := { s with
      stealing := false
      power := { s.power with quarantine := b.quarantine.foldl (fun q (c, m) => Tab.put q c m) [] }
      ports := (List.range 36).map fun p => (p, Port.trained (live.contains (p / 9) && !b.badPorts.contains p) b.buffers)
      fused := if (Store.read s.fused 1).ult s.fwVersion then Store.write s.fused 1 s.fwVersion else s.fused }
    let s := live.foldl (fun s d => s.giveFaultQ (bootQueueK b) d) (s.loadTests b)
    { s with host := { s.host with boot := bootStatus 0 (diesBits live) false true true } }

/-- R402: MODULE_RESET: everything is cleared and the system controllers run their ROM; the steps of the boot follow. -/
def execModuleReset (boot : BootIn) (s : State) : Out :=
  let s := s.cleared boot
  .next { s with host := { s.host with boot := 1 } }

/-- The next steps of a boot that is under way (Table 23-2); none once READY or FAIL is set. -/
def State.bootNext (s : State) : Option State :=
  if s.host.boot.getLsbD 2 || s.host.boot.getLsbD 3 || !s.host.boot.getLsbD 0 then none
  else some (if s.host.boot.getLsbD 1 then s.bootReady s.bootIn else s.bootMemory s.bootIn)

/-! ## Power and cooling (R403, R404) -/

/-- Clock of an island in MHz. -/
def State.islandClock (s : State) (i : Nat) : Nat := Tab.getD s.power.clocks i 2400

/-- Sets an island's clock. -/
def State.setClock (s : State) (i mhz : Nat) : State :=
  { s with power := { s.power with clocks := if mhz = 2400 then Tab.del s.power.clocks i else Tab.put s.power.clocks i mhz } }

/-- A core island of a live die: die * 64 + island, with islands 0 to 47. -/
def State.coreIsland (s : State) (i : Nat) : Bool := decide (i < 256) && decide (i % 64 < 48) && !s.fenced.contains (i / 64)

/-- Priority class of a context. -/
def State.prioOf (s : State) (c : Ctx) : Nat := match Tab.find s.launches c.launch with | some l => l.priority | none => 0

/-- Contexts that run, of the lowest priority class among them. -/
def State.lowestClass (s : State) : List Nat :=
  let cs := s.ctxs.filter fun (_, c) => c.state == .running && c.asid != fwAsid
  let low := cs.foldl (fun n (_, c) => min n (s.prioOf c)) 8
  (cs.filter fun (_, c) => s.prioOf c == low).map Prod.fst

/-- R403: POWER_SAMPLE: above the cap the busiest island above the floor goes down by 100 MHz, or, where every one is at the floor,
the tasks of the lowest priority class are pre-empted; below 0.95 of the cap the least busy lowered island goes up by 100 MHz. -/
def execPowerSample (r : Sensors) (s : State) : Out :=
  let s := { s with power := { s.power with sensors := r } }
  let islands := r.busiest.filter s.coreIsland
  if s.power.cap < r.power then
    match islands.find? fun i => decide (1200 < s.islandClock i) with
    | some i => .next (s.setClock i (max 1200 (s.islandClock i - 100)))
    | none => .next (s.lowestClass.foldl State.preempt s)
  else if 100 * r.power < 95 * s.power.cap then
    match islands.reverse.find? fun i => decide (s.islandClock i < 2400) && !s.power.held.contains i with
    | some i => .next (s.setClock i (min 2400 (s.islandClock i + 100)))
    | none => .next s
  else .next s

/-- Payload of a thermal or coolant event (Table 23-10, type 4). -/
def thermalPayload (die reading kind : Nat) : List Byte := natBytes 1 die ++ natBytes 1 0 ++ natBytes 2 reading ++ natBytes 1 kind

/-- R404: THERMAL_EVENT: an island at 100 °C is held at the floor; at 115 °C the die is fenced. -/
def execThermalEvent (die island temp : Nat) (s : State) : Out :=
  if 4 ≤ die || 64 ≤ island || s.fenced.contains die then .next s
  else
    let s := { s with power := { s.power with temps := Tab.put s.power.temps (64 * die + island) temp } }
    if 11500 ≤ temp then .next ((s.fenceDie die).postEvent 4 0xffff (thermalPayload die temp 1))
    else if 10000 ≤ temp && decide (island < 48) then
      let i := 64 * die + island
      let s := (s.setClock i 1200)
      let s := { s with power := { s.power with held := insertNat i s.power.held } }
      .next (s.postEvent 4 0xffff (thermalPayload die temp 0))
    else .next s

/-- R404: COOLANT_FLOW_LOW: below 2.0 L/min the cap becomes 1,500 W. -/
def execCoolantFlowLow (flow : Nat) (s : State) : Out :=
  let s := { s with power := { s.power with sensors := { s.power.sensors with flow := flow } } }
  if flow < 200 then .next (({ s with power := { s.power with cap := 1500 } }).postEvent 4 0xffff (thermalPayload 0 flow 2)) else .next s

/-! ## The host link (R399, R400, R405, R406) -/

/-- A submission or a write of the request buffer is discarded (Table 23-6, LOST). -/
def State.setLost (s : State) : State := { s with host := { s.host with stat := s.host.stat ||| 4 } }

/-- R406: REQUEST_BUFFER_WRITE: the bytes are kept while the mailbox is ready and not busy. -/
def execRequestBufferWrite (off : Nat) (bytes : List (BitVec 8)) (s : State) : Out :=
  if !s.isReady || s.host.stat.getLsbD 1 then .next s.setLost
  else .next { s with host := { s.host with req := Store.writes s.host.req off (bytes.take (4096 - off)) } }

/-- The event that serves a request: the command in the request buffer, with its action where it has one (Table 23-9). -/
def mbxEvent (code action : Nat) (seq : BitVec 16) : Instr :=
  match code with
  | 0x0001 => .mbxInfo seq
  | 0x0002 => .mbxAcknowledgeEvents seq
  | 0x0010 => .mbxCreateAsid seq
  | 0x0011 => .mbxTearDownAsid seq
  | 0x0012 => .mbxBankSegment seq
  | 0x0020 => .mbxMapPages seq
  | 0x0021 => .mbxUnmapPages seq
  | 0x0022 => .mbxAperture seq
  | 0x0023 => .mbxAccordSetEntry seq
  | 0x0024 => .mbxMapAccordPages seq
  | 0x0025 => .mbxReplaceAccordMember seq
  | 0x0030 => .mbxCreateLaunchQueue seq
  | 0x0031 => .mbxDestroyLaunchQueue seq
  | 0x0032 => .mbxReadOverrunCount seq
  | 0x0033 => .mbxCollectiveQueueWindow seq
  | 0x0040 => .mbxSetModuleNumber seq
  | 0x0041 => .mbxRegisterWindow seq
  | 0x0042 => .mbxUnregisterWindow seq
  | 0x0043 => .mbxAccessControlEntry seq
  | 0x0044 => .mbxLoadSchedule seq
  | 0x0050 => .mbxCreatePopulation seq
  | 0x0051 => match action with
    | 2 => .mbxPopulationPause seq
    | 3 => .mbxPopulationResume seq
    | 4 => .mbxPopulationCancel seq
    | _ => .mbxPopulationStart seq
  | 0x0052 => .mbxPopulationLaunches seq
  | 0x0053 => .mbxPopulationRead seq
  | 0x0060 => .mbxPreEmpt seq
  | 0x0061 => match action with
    | 1 => .mbxDebugDetach seq
    | 2 => .mbxDebugStopAll seq
    | 3 => .mbxDebugReleaseAll seq
    | _ => .mbxDebugAttach seq
  | 0x0062 => if action = 1 then .mbxImageWrite seq else .mbxImageRead seq
  | 0x0070 => .mbxPowerCap seq
  | 0x0071 => .mbxTelemetry seq
  | 0x0080 => .mbxAttestation seq
  | 0x0090 => .mbxHostMessageQueue seq
  | _ => .mbxUnknownCommand seq

/-- Command of the request buffer, and the byte that holds its action. -/
def State.mbxCode (s : State) : Nat × Nat := (natOf (Store.reads s.host.req 0 2), (Store.read s.host.req 0x12).toNat)

/-- A write of MBXGO (Table 23-5): SEQ is kept; GO = 1 submits the request buffer, which firmware serves at once. -/
def State.writeGo (s : State) (w : Word) : State :=
  let seq := w.extractLsb' 16 16
  if !w.getLsbD 0 then { s with host := { s.host with goSeq := seq } }
  else if s.host.stat.getLsbD 1 then s.setLost
  else
    { s with host := { s.host with goSeq := seq }
             agenda := .event (mbxEvent s.mbxCode.1 s.mbxCode.2 seq) :: s.agenda }

/-- A write of one 4-byte register (Table 23-4): registers that are read only, and offsets without a name, discard it.  Until READY every
mailbox write is discarded (R402), and a submission sets LOST (R406). -/
def State.writeReg (s : State) (off : Nat) (w : Word) : State :=
  if !s.isReady then (if off = 0x100 && w.getLsbD 0 then s.setLost else s)
  else
    match off with
    | 0x100 => s.writeGo w
    | 0x104 => { s with host := { s.host with stat := s.host.stat &&& ~~~(w &&& 4) } }
    | 0x108 => { s with host := { s.host with ien := w &&& 7 } }
    | _ => s

/-- What a host read of 4 bytes of BAR0 gives (Table 23-4, R5): GO, reserved bits and offsets without a name read 0. -/
def State.readReg (s : State) (off : Nat) : Word :=
  let h := s.host
  if off = 0 then h.boot
  else if off = 0x100 then h.goSeq ++ (0 : BitVec 16)
  else if off = 0x104 then h.stat
  else if off = 0x108 then h.ien
  else if off = 0x110 then h.evPosted.extractLsb' 0 32
  else if off = 0x114 then h.evPosted.extractLsb' 32 32
  else if off = 0x118 then h.evLost.extractLsb' 0 32
  else if off = 0x11c then h.evLost.extractLsb' 32 32
  else if 0x1000 ≤ off ∧ off < 0x2000 then valOf 32 (Store.reads h.req (off - 0x1000) 4)
  else if 0x2000 ≤ off ∧ off < 0x3000 then valOf 32 (Store.reads h.resp (off - 0x2000) 4)
  else if 0x4000 ≤ off ∧ off < 0x8000 then valOf 32 (Store.reads h.log (off - 0x4000) 4)
  else 0

/-- R405: REGISTER_WRITE: an aligned write of 4 or 8 bytes. -/
def execRegisterWrite (off : Nat) (value : BitVec 64) (wide : Bool) (s : State) : Out :=
  if wide then
    if off % 8 ≠ 0 then .next s
    else .next ((s.writeReg (off + 4) (value.extractLsb' 32 32)).writeReg off (value.extractLsb' 0 32))
  else if off % 4 ≠ 0 then .next s else .next (s.writeReg off (value.extractLsb' 0 32))

/-! ## The host's accesses to device memory (R399, R400, command 0x0022) -/

/-- Where an aperture lies among the offsets of a host access: BAR2 is 1 TiB from 0 on, and the HDM range follows it (log 82). -/
def Aperture.start (a : Aperture) : Nat := if a.hdm then 2 ^ 40 + a.offset else a.offset

/-- The aperture that holds an offset. -/
def State.apertureAt (s : State) (off : Nat) : Option Aperture :=
  s.host.apertures.find? fun a => decide (a.start ≤ off ∧ off < a.start + a.len)

/-- A host access cut at the edges of apertures and pages: each piece with its ASID and VA, none outside every aperture, and its length. -/
def State.hostPieces (s : State) (off n : Nat) : List (Option (Nat × Nat) × Nat) :=
  let edges := (s.host.apertures.flatMap fun a => [a.start, a.start + a.len]).filter fun e => decide (off < e ∧ e < off + n)
  let cuts := off :: sortNat (dedup edges)
  (cuts.zip (cuts.drop 1 ++ [off + n])).flatMap fun (a, b) =>
    match s.apertureAt a with
    | none => [(none, b - a)]
    | some x => (pagePieces (x.va.toNat + (a - x.start)) (b - a)).map fun (va, m) => (some (x.asid, va), m)

/-- A host write, piece by piece: what lies outside every aperture, or in a page without the right, is discarded. -/
def State.hostWrite (s : State) : List (Option (Nat × Nat) × Nat) → List Byte → State
  | [], _ => s
  | (p, m) :: r, b =>
    let s := match p with
      | none => s
      | some (asid, va) =>
        match s.fwReach asid 0 va m Need.store with
        | (s, .ok pa) => s.putRanges [(pa, m)] (b.take m)
        | (s, .error _) => s
    s.hostWrite r (b.drop m)

/-- A host read, piece by piece: ones where a write would be discarded. -/
def State.hostRead (s : State) : List (Option (Nat × Nat) × Nat) → State × List Byte
  | [] => (s, [])
  | (p, m) :: r =>
    let (s, b) := match p with
      | none => (s, List.replicate m 0xff)
      | some (asid, va) =>
        match s.fwReach asid 0 va m Need.load with
        | (s, .ok pa) => (s, s.readMem pa m)
        | (s, .error _) => (s, List.replicate m 0xff)
    let (s, l) := s.hostRead r
    (s, b ++ l)

/-- R400: BAR2_UNMAPPED_ACCESS: outside every mapped window a write is discarded and a read gives all ones; in an aperture the access
goes through the ASID's page table (command 0x0022).  Offsets from 2^40 on are those of the HDM range, which CXL.mem reaches (R399).
Reads are of 8 bytes. -/
def execBar2UnmappedAccess (off : Nat) (write : Option (List (BitVec 8))) (s : State) : Out :=
  match write with
  | some b => s.unlessStarved (s.hostWrite (s.hostPieces off b.length) b)
  | none =>
    let (t, b) := s.hostRead (s.hostPieces off 8)
    s.unlessStarved { t with host := { t.host with lastRead := b } }

end Sys2Proof.Machine
end

