-- ==== Sys2Proof/Machine/Image.lean ====
section
/-!
DEFINITION. The context image as firmware reads and writes it for a debugger (R216, R217, R285, Tables 10-3, 15-4 and 15-5).  The
manual gives no layout inside the gang record and the block records: those bytes read as free values, and writes to them have
no effect here.
-/
namespace Sys2Proof.Machine

/-! ## Register lines (R216, R217) -/

/-- The 32 lanes of a register of a wave; lanes that hold no thread are 0. -/
def State.regLine (s : State) (w j : Nat) : List Word :=
  (List.range 32).map fun l =>
    match Tab.find s.threads (1024 * (w / 32) + 32 * (w % 32) + l) with
    | some t => Store.read t.regs j
    | none => 0

/-- The form of a register line and its packed bytes (Table 10-3): the first form that gives every lane. -/
def packLine (l : List Word) : Nat × List Byte :=
  let v := l.getD 0 0
  let d := l.getD 1 0 - v
  if l.all (· == v) then (0, bytesOf 4 v)
  else if (l.zipIdx).all fun (x, i) => x == v + BitVec.ofNat 32 i * d then (1, bytesOf 4 v ++ bytesOf 4 d)
  else if l.all fun x => (x.extractLsb' 0 16).signExtend 32 == x then (2, l.flatMap fun x => bytesOf 2 x)
  else (3, l.flatMap fun x => bytesOf 4 x)

/-- The lanes of a slot's bytes under a tag. -/
def unpackLine (tag : Nat) (b : List Byte) : List Word :=
  let word (o n : Nat) : Word := BitVec.ofNat 32 (field b o n)
  (List.range 32).map fun l =>
    match tag with
    | 0 => word 0 4
    | 1 => word 0 4 + BitVec.ofNat 32 l * word 4 4
    | 2 => (BitVec.ofNat 16 (field b (2 * l) 2)).signExtend 32
    | _ => word (4 * l) 4

/-- The tag and the 128 bytes of a register's slot.  What firmware wrote there stands as long as the lanes read it so: the register
cache writes back only a line that has changed, the packed bytes at the start of the slot (R217). -/
def State.slot (s : State) (c : Ctx) (g w j : Nat) : Nat × List Byte :=
  let key := 32 * c.blocks.getD g 0 + w
  let base := c.waveOffset g w
  let raw := Store.reads c.imageBytes (base + 128 * j) 128
  let tag := (Store.read c.imageBytes (base + 0x10000 + j / 4)).toNat / 4 ^ (j % 4) % 4
  let l := s.regLine key j
  let held (i : Nat) : Bool := (Tab.find s.threads (1024 * (key / 32) + 32 * (key % 32) + i)).isSome
  if ((unpackLine tag raw).zip l).zipIdx.all fun ((x, y), i) => x == y || !held i then (tag, raw)
  else
    let (form, p) := packLine l
    (form, p ++ raw.drop p.length)

/-- A byte of the tag table. -/
def State.tagByte (s : State) (c : Ctx) (g w i : Nat) : Byte :=
  BitVec.ofNat 8 ((List.range 4).foldl (fun n k => n + (s.slot c g w (4 * i + k)).1 * 4 ^ k) 0)

/-- Firmware's bytes of a register's slot and its tag. -/
def setSlot (m : Store 8) (base j tag : Nat) (b : List Byte) : Store 8 :=
  let at_ := base + 0x10000 + j / 4
  let old := (Store.read m at_).toNat
  let new := old - old / 4 ^ (j % 4) % 4 * 4 ^ (j % 4) + tag * 4 ^ (j % 4)
  Store.write (Store.writes m (base + 128 * j) b) at_ (BitVec.ofNat 8 new)

/-! ## Thread records (Table 15-5) -/

/-- The state byte of a thread record. -/
def State.recState (s : State) (k : Nat) (t : Thread) : Nat :=
  match t.status with
  | .ready => if s.stoppedAt k t then 2 else if t.dueNow.isSome then 6 else 0
  | .parked _ _ | .unrecorded _ _ | .copying => 1
  | .waiting (.sysc _ _ _) _ => 7
  | .waiting _ _ => 3
  | .stopped => if t.busy then 0 else 2
  | .exited => 4

/-- The 64 bytes of a thread record. -/
def State.threadBytes (s : State) (k : Nat) : List Byte :=
  match Tab.find s.threads k with
  | none => List.replicate 29 0 ++ [5] ++ List.replicate 34 0
  | some t =>
    bytesOf 8 t.pc ++ bytesOf 8 t.trap.pc ++ bytesOf 8 t.trap.addr ++ bytesOf 4 t.trap.detail ++ bytesOf 1 t.trap.cause ++
      natBytes 1 (s.recState k t) ++ bytesOf 2 t.wb ++ natBytes 1 (if t.inHandler then 1 else 0) ++ List.replicate 7 0 ++
      bytesOf 8 t.trap.faultPc ++ List.replicate 16 0

/-- A thread as its record's bytes give it: the state byte lets it go out of a stop, stops it or ends it where it changes (R283).  A wait
of `seval` whose post stands is that of the `seval` at its PC: it goes where the PC is written (R347).  A thread that it ends leaves its wave's
report, its barriers and its joins as one that exits does (R202, R204). -/
def State.imageThread (s : State) (k : Nat) (b : List Byte) : State :=
  match Tab.find s.threads k with
  | none => s
  | some t =>
    let code := field b 0x1d 1
    let same := code = s.recState k t
    let status : Status := if same then t.status
      else match code with
        | 0 => .ready
        | 2 => .stopped
        | 4 => .exited
        | _ => t.status
    let pc : Pair := BitVec.ofNat 64 (field b 0 8)
    let trapPc : Pair := BitVec.ofNat 64 (field b 8 8)
    let stands (x : Pair) : Bool := (x != t.postKey || pc == t.pc) && (x != t.trap.pc || trapPc == t.trap.pc || !t.inHandler)
    let u : Thread := { t with
      pc := pc, posted := t.posted.filter stands, freed := if same then t.freed else code == 0
      wb := BitVec.ofNat 16 (field b 0x1e 2), status := status, inHandler := field b 0x20 1 % 2 == 1
      trap := { t.trap with pc := trapPc, addr := BitVec.ofNat 64 (field b 0x10 8),
                            detail := BitVec.ofNat 32 (field b 0x18 4), cause := BitVec.ofNat 8 (field b 0x1c 1),
                            faultPc := BitVec.ofNat 64 (field b 0x28 8) } }
    if status == .exited && t.status != .exited then (s.putThread k u).endThread k u else s.putThread k u

/-! ## Bytes of an image (Table 15-4) -/

/-- A byte of a wave area, none where it is part of nothing that the manual lays out. -/
def State.waveByte (s : State) (c : Ctx) (g w o : Nat) : Byte :=
  let key := 32 * c.blocks.getD g 0 + w
  let v := Tab.getD s.waves key Wave.absent
  if o < 0x10000 then (s.slot c g w (o / 128)).2.getD (o % 128) 0
  else if o < 0x10080 then s.tagByte c g w (o - 0x10000)
  else if o < 0x100b0 then (Store.read v.kregs ((o - 0x10080) / 4)).extractLsb' (8 * (o % 4)) 8
  else if o < 0x100b4 then v.status.extractLsb' (8 * (o % 4)) 8
  else if o < 0x10100 then 0
  else if o < 0x10900 then
    (s.threadBytes (1024 * c.blocks.getD g 0 + 32 * w + (o - 0x10100) / 64)).getD ((o - 0x10100) % 64) 0
  else if o < 0x10d10 then Store.read c.imageBytes (c.reportOffset g w + (o - 0x10900))
  else 0

/-- A byte of an image. -/
def State.imageByte (s : State) (c : Ctx) (off : Nat) : Byte :=
  let size := c.part
  let o := (off - 4096) % size
  let g := (off - 4096) / size
  if off < 4096 || o < 4096 then (Config.free (s.ticket + off)).extractLsb' 0 8
  else if o < 4096 + c.waves * waveArea then s.waveByte c g ((o - 4096) / waveArea) ((o - 4096) % waveArea)
  else Store.read (s.block (c.blocks.getD g 0)).spad (o - 4096 - c.waves * waveArea)

/-- Bytes of an image. -/
def State.imageRead (s : State) (c : Ctx) (off n : Nat) : List Byte := (List.range n).map fun i => s.imageByte c (off + i)

/-- A byte of an image after a write of bytes at an offset. -/
def State.imageWith (s : State) (c : Ctx) (off : Nat) (b : List Byte) (i : Nat) : Byte :=
  if off ≤ i ∧ i < off + b.length then b.getD (i - off) 0 else s.imageByte c i

/-- Bytes of an image after a write. -/
def State.imageAfter (s : State) (c : Ctx) (off : Nat) (b : List Byte) (i n : Nat) : List Byte :=
  (List.range n).map fun j => s.imageWith c off b (i + j)

/-- Changes register `j` of the lanes of a wave that hold a thread. -/
def State.setLine (s : State) (w j : Nat) (l : List Word) : State :=
  { s with threads := Tab.mapVal s.threads fun k t =>
      if waveKey k == w then { t with regs := Store.write t.regs j (l.getD (laneOf k) 0), bad := t.bad.filter (· != j) } else t }

/-- What a write of `n` bytes at an offset of a wave area changes, the area lying at `base` in the image of a context; `after` gives the
area's bytes once they are written. -/
def State.waveWrite (s : State) (ctx base key : Nat) (off n : Nat) (after : Nat → Nat → List Byte) : State :=
  let hits (a m : Nat) : Bool := decide (a < off + n ∧ off < a + m)
  let lines := (List.range 512).filter fun j => hits (128 * j) 128 || hits (0x10000 + j / 4) 1
  let s := lines.foldl (fun s j =>
    let tag := natOf (after (0x10000 + j / 4) 1) / 4 ^ (j % 4) % 4
    let b := after (128 * j) 128
    (s.setLine key j (unpackLine tag b)).updCtx ctx fun x => { x with imageBytes := setSlot x.imageBytes base j tag b }) s
  let s := if hits 0x10080 48 then
      s.updWave key fun v =>
        let kregs := (List.range 12).foldl (fun m i => Store.write m i (BitVec.ofNat 32 (natOf (after (0x10080 + 4 * i) 4)))) v.kregs
        let kbad := v.kbad.filter fun i => !decide (off ≤ 0x10080 + 4 * i ∧ 0x10080 + 4 * i + 4 ≤ off + n)
        { v with kregs := kregs, kbad := kbad }
    else s
  let s := if hits 0x100b0 4 then s.updWave key fun v => { v with status := BitVec.ofNat 32 (natOf (after 0x100b0 4)) &&& statusBits } else s
  (List.range 32).foldl (fun s l =>
    if hits (0x10100 + 64 * l) 64 then s.imageThread (1024 * (key / 32) + 32 * (key % 32) + l) (after (0x10100 + 64 * l) 64) else s) s

/-- A write of bytes at an offset of an image. -/
def State.imageWrite (s : State) (k : Nat) (c : Ctx) (off : Nat) (b : List Byte) : State :=
  let size := c.part
  let n := b.length
  (List.range c.blocks.length).foldl (fun (t : State) g =>
    let blk := c.blocks.getD g 0
    let waves := 4096 + size * g + 4096
    let spad := waves + c.waves * waveArea
    let t := (List.range c.waves).foldl (fun (t : State) w =>
      let base := waves + waveArea * w
      if decide (base < off + n) && decide (off < base + waveArea) then
        let t := t.waveWrite k base (32 * blk + w) (off - base) (n - (base - off)) fun a m => s.imageAfter c off b (base + a) m
        let rep := c.reportOffset g w
        t.updCtx k fun x => { x with imageBytes := (b.zipIdx).foldl (fun m (y, i) =>
          if rep ≤ off + i ∧ off + i < rep + 1040 then Store.write m (off + i) y else m) x.imageBytes }
      else t) t
    let t := t.cleanWords (.spad blk (off - spad)) (n - (spad - off))
    t.updBlock blk fun x => { x with spad := (b.zipIdx).foldl (fun m (y, i) =>
      if spad ≤ off + i ∧ off + i < spad + c.header.scratch then Store.write m (off + i - spad) y else m) x.spad }) s

end Sys2Proof.Machine
end

