-- ==== Sys2Proof/Machine/Mailbox.lean ====
section
/-!
DEFINITION. The mailbox (R405 to R410): requests, responses and the commands of Table 23-9.  A request is served in one event: the
host's write of MBXGO with GO = 1 while the request buffer names the command.  The two commands whose response follows other
events (0x0042 and 0x0060) leave BUSY set until then.
-/
namespace Sys2Proof.Machine

/-! ## Requests and responses (R406, R407) -/

/-- The response to a request: buffer, DSEQ, DONE, and MSI-X vector 0 (R406). -/
def State.respond (s : State) (seq : BitVec 16) (status : Nat) (payload : List Byte) : State :=
  let p := if status = 0 then payload else []
  let b := bytesOf 2 seq ++ natBytes 2 status ++ natBytes 4 p.length ++ List.replicate 8 0 ++ p
  let h := s.host
  { s with host := { h with
      resp := Store.writes h.resp 0 b
      stat := (seq ++ (0 : BitVec 16)) ||| (h.stat &&& 4) ||| 1
      msix := if h.ien.getLsbD 0 then 0 :: h.msix else h.msix } }

/-- What a command gives: a status that is not 0, or the state and the response's payload; or it is still being served. -/
inductive Served where
  | fail (status : Nat)
  /-- a status that is not 0 with what firmware logs of it (R397) -/
  | reject (s : State) (status : Nat)
  | done (s : State) (payload : List Byte)
  | busy (s : State)

/-- Every byte of a payload that no field covers is 0. -/
def reservedZero (fields : List (Nat × Nat)) (p : List Byte) : Bool :=
  (p.zipIdx).all fun (b, i) => b == 0 || fields.any fun (o, n) => decide (o ≤ i ∧ i < o + n)

/-- The payload length that fields take: the end of the last. -/
def fieldsEnd (fields : List (Nat × Nat)) : Nat := fields.foldl (fun n x => max n (x.1 + x.2)) 0

/-- Serves a command (R406, R407): `fields` are its payload's fields, `sel` accepts its action byte. -/
def mbxRun (code : Nat) (sel : Nat → Bool) (fields : List Byte → List (Nat × Nat)) (seq : BitVec 16) (go : State → List Byte → Served)
    (s : State) : Out :=
  let named := s.mbxCode.1 == code && sel s.mbxCode.2
  let busy := s.host.stat.getLsbD 1
  if !s.isReady || (busy && !(named && s.host.served == seq)) then .next s.setLost
  else if !named then .next s
  else
    let len := natOf (Store.reads s.host.req 4 4)
    let p := Store.reads s.host.req 16 (min len 4080)
    let fs := fields p
    let reserved := natOf (Store.reads s.host.req 2 2) + natOf (Store.reads s.host.req 8 8)
    if reserved ≠ 0 || 4080 < len || len ≠ fieldsEnd fs || !reservedZero fs p then .next (s.respond seq 2 [])
    else
      match go s p with
      | .fail n => .next (s.respond seq n [])
      | .reject t n => .next (t.respond seq n [])
      | .done t r => .next (t.respond seq 0 r)
      | .busy t => .next { t with host := { t.host with served := seq, stat := t.host.stat ||| 2 } }

/-- A command with fixed fields and no action. -/
def mbxCmd (code : Nat) (fields : List (Nat × Nat)) (seq : BitVec 16) (go : State → List Byte → Served) (s : State) : Out :=
  mbxRun code (fun _ => true) (fun _ => fields) seq go s

/-- Serves a command for a live ASID that its payload names. -/
def withAsid (s : State) (n : Nat) (go : Asid → Served) : Served :=
  if 1024 ≤ n then .fail 3
  else match Tab.find s.asids n with
    | some a => if a.live && !a.closing then go a else .fail 5
    | none => .fail 5

/-! ## Module -/

/-- The quarantine map: 4 bits for each core (command 0x0001). -/
def State.quarantineMap (s : State) : List Byte :=
  (List.range 384).map fun i => Tab.getD s.power.quarantine (2 * i + 1) 0 ++ Tab.getD s.power.quarantine (2 * i) 0

/-- Command 0x0001: info. -/
def execMbxInfo (seq : BitVec 16) (s : State) : Out :=
  mbxCmd 0x0001 [] seq (fun s _ => .done s (natBytes 4 1 ++ bytesOf 4 s.host.boot ++ natBytes 2 (s.module.getD 0xffff) ++ natBytes 2 0 ++
    bytesOf 4 s.fwVersion ++ bytesOf 8 s.host.evLost ++ s.quarantineMap)) s

/-- R409: command 0x0002: acknowledge events. -/
def execMbxAcknowledgeEvents (seq : BitVec 16) (s : State) : Out :=
  mbxCmd 0x0002 [(0, 8)] seq (fun s p =>
    let n := BitVec.ofNat 64 (field p 0 8)
    if n.ult s.host.evAck || s.host.evPosted.ult n then .fail 3
    else .done { s with host := { s.host with evAck := n } } []) s

/-- R327: command 0x0040: set module number. -/
def execMbxSetModuleNumber (seq : BitVec 16) (s : State) : Out :=
  mbxCmd 0x0040 [(0, 2)] seq (fun s p =>
    let n := field p 0 2
    if 512 ≤ n then .fail 3 else if !s.windows.isEmpty then .fail 5 else .done { s with module := some n } []) s

/-- R403: command 0x0070: power cap. -/
def execMbxPowerCap (seq : BitVec 16) (s : State) : Out :=
  mbxCmd 0x0070 [(0, 4)] seq (fun s p =>
    let n := field p 0 4
    if n < 1500 ∨ 4200 < n then .fail 3 else .done { s with power := { s.power with cap := n } } []) s

/-- Lowest core island clock of a die. -/
def State.lowestClock (s : State) (die : Nat) : Nat := (List.range 48).foldl (fun n j => min n (s.islandClock (64 * die + j))) 2400

/-- Hottest sensor of a die as last read. -/
def State.hottest (s : State) (die : Nat) : Nat := (List.range 64).foldl (fun n j => max n (Tab.getD s.power.temps (64 * die + j) 0)) 0

/-- Command 0x0071: telemetry. -/
def execMbxTelemetry (seq : BitVec 16) (s : State) : Out :=
  mbxCmd 0x0071 [] seq (fun s _ =>
    let r := s.power.sensors
    .done s (natBytes 4 r.power ++ natBytes 4 s.power.cap ++ natBytes 2 r.inlet ++ natBytes 2 r.flow ++
      ((List.range 4).flatMap fun d => natBytes 2 (s.hottest d)) ++
      ((List.range 4).flatMap fun d => natBytes 2 (s.lowestClock d)))) s

/-- R408: MBX_UNKNOWN_COMMAND: a code that is not in the table. -/
def execMbxUnknownCommand (seq : BitVec 16) (s : State) : Out :=
  let known := [0x0001, 0x0002, 0x0010, 0x0011, 0x0012, 0x0020, 0x0021, 0x0022, 0x0023, 0x0024, 0x0025, 0x0030, 0x0031, 0x0032, 0x0033, 0x0040,
    0x0041, 0x0042, 0x0043, 0x0044, 0x0050, 0x0051, 0x0052, 0x0053, 0x0060, 0x0061, 0x0062, 0x0070, 0x0071, 0x0080, 0x0090]
  if !s.isReady || s.host.stat.getLsbD 1 then .next s.setLost
  else if known.contains s.mbxCode.1 then .next s
  else .next (s.respond seq 1 [])

/-! ## Address spaces -/

/-- Command 0x0010: create ASID: the lowest slot that holds no live key, an empty root table, and the pools (R394). -/
def execMbxCreateAsid (seq : BitVec 16) (s : State) : Out :=
  mbxCmd 0x0010 [(0, 8), (8, 8), (16, 8), (24, 8)] seq (fun s p =>
    let free := (List.range 1024).find? fun n => match Tab.find s.asids n with | some a => !a.live && !a.closing | none => true
    match free with
    | none => .fail 4
    | some n =>
      match s.allocFrames none 32 with
      | none => .fail 4
      | some (s, pa) =>
        let gen := match Tab.find s.asids n with | some a => a.keyGen | none => 0
        let a : Asid :=
          { live := true, key := Config.newKey s.ticket, closing := false, keyGen := gen, root := pa, limit := field p 0 8, used := 0
            ctxPool := field p 8 8, ctxUsed := 0,
            statePool := field p 16 8, stateUsed := 0, relaunchPool := field p 24 8, launches := 0, banks := [], bankN := [], bankDone := [],
            portN := [], portDone := [], msgQueue := none, produced := 0, debug := false, collective := none }
        .done { s with ticket := s.ticket + 1, asids := Tab.put s.asids n a } (natBytes 2 n ++ natBytes 2 0 ++ bytesOf 4 gen)) s

/-- R395: command 0x0011: tear down ASID: the response follows the last step. -/
def execMbxTearDownAsid (seq : BitVec 16) (s : State) : Out :=
  mbxCmd 0x0011 [(0, 2)] seq (fun s p =>
    let n := field p 0 2
    let served := s.host.stat.getLsbD 1
    match Tab.find s.asids n with
    | none => .fail (if 1024 ≤ n then 3 else 5)
    | some a =>
      if a.closing then .busy s
      else if served && !a.live then .done s []
      else if !a.live then .fail 5
      else (let t := s.teardown n; if t.starved then .busy (s.waiting t) else .busy t)) s

/-- R227, R228: command 0x0012: bank segment: what is taken away is cleared.  A new segment for an ASID that has one takes the old one away
whole: the manual does not say whether bytes that both hold keep their contents (log 86). -/
def execMbxBankSegment (seq : BitVec 16) (s : State) : Out :=
  mbxCmd 0x0012 [(0, 2), (2, 1), (4, 2), (6, 2)] seq (fun s p =>
    let n := field p 0 2
    let die := field p 2 1
    let base := field p 4 2
    let len := field p 6 2
    withAsid s n fun a =>
      if 4 ≤ die ∨ 1024 < base + len then .fail 3
      else if s.fenced.contains die then .fail 5
      else
        let s := match Tab.find a.banks die with
          | some (b, l) =>
            { s with bank := Store.clear s.bank (die * 2 ^ 26 + b * 65536) (l * 65536)
                     badWords := s.badWords.filter fun w => !w.within (.bank die (b * 65536)) (l * 65536) }
          | none => s
        .done (s.updAsid n fun a =>
          { a with banks := if len = 0 then Tab.del a.banks die else Tab.put a.banks die (base, len) }) []) s

/-- Copies memory sparsely from one physical address to another. -/
def State.copyMem (s : State) (src dst n : Nat) : State :=
  (s.mem.filter fun (a, _) => decide (src ≤ a ∧ a < src + n)).foldl (fun s (a, b) => s.writeMem (dst + (a - src)) [b]) s

/-- Page size code of command 0x0020. -/
def pageBits : Nat → Option Nat
  | 0 => some 16
  | 1 => some 21
  | 2 => some 30
  | _ => none

/-- The die of a poisoned table entry that the walks for `n` pages of `2 ^ bits` bytes meet (R383). -/
def State.tablePoison (s : State) (asid bits : Nat) : Nat → Nat → Option Nat
  | 0, _ => none
  | n + 1, va =>
    if s.poison.isEmpty && s.badWords.isEmpty then none else
    match s.leafOf asid va with
    | .poison die => some die
    | _ => s.tablePoison asid bits n (va + 2 ^ bits)

/-- A command that walks an ASID's tables: it is served once a die with a poisoned entry has been fenced (R383). -/
def walkServed (s : State) (asid bits n va : Nat) (x : Served) : Served :=
  match s.tablePoison asid bits n va with
  | some die => .busy { s with agenda := .event (.dieFence die) :: s.agenda }
  | none => x

/-- Maps pages: the state, or the status. -/
def State.mapPages (s : State) (asid bits : Nat) (rights : BitVec 3) (fill : Nat) (stack : Option Nat) : Nat → Nat → Nat → Except Nat State
  | 0, _, _ => .ok s
  | n + 1, va, src =>
    match s.leafOf asid va with
    | .unmapped =>
      let frame : Option (State × BitVec 64) :=
        if fill = 0 then
          some (s, mkLeaf 0 rights false false 0 ||| BitVec.ofNat 64 ((match stack with | some k => k + 1 | none => 0) * 256))
        else match s.allocFrames stack (pageFrames bits) with
          | some (s, pa) => some (if fill = 2 then s.copyMem (2 ^ 40 + src) pa (2 ^ bits) else s, mkLeaf pa rights true false 0)
          | none => none
      match frame with
      | none => .error 4
      | some (s, e) =>
        match s.setLeaf asid va bits e with
        | none => .error 4
        | some s => s.mapPages asid bits rights fill stack n (va + 2 ^ bits) (src + 2 ^ bits)
    | _ => .error 3

/-- Command 0x0020: map pages (R234). -/
def execMbxMapPages (seq : BitVec 16) (s : State) : Out :=
  mbxCmd 0x0020 [(0, 2), (2, 1), (3, 1), (4, 1), (5, 1), (8, 8), (16, 4), (24, 8)] seq (fun s p =>
    let n := field p 0 2
    let va := field p 8 8
    let count := field p 16 4
    let stack := field p 5 1
    withAsid s n fun a =>
      match pageBits (field p 2 1) with
      | none => .fail 3
      | some bits =>
        if 8 ≤ field p 3 1 ∨ 3 ≤ field p 4 1 ∨ (16 ≤ stack ∧ stack ≠ 255) ∨ va % 2 ^ bits ≠ 0 ∨ 2 ^ 57 < va + count * 2 ^ bits ∨
            (field p 4 1 = 2 ∧ 2 ^ 40 < field p 24 8 + count * 2 ^ bits) then .fail 3
        else if a.limit < a.used + count * 2 ^ bits then .fail 4
        else walkServed s n bits count va <|
          match s.mapPages n bits (BitVec.ofNat 3 (field p 3 1)) (field p 4 1) (if stack = 255 then none else some stack) count va
              (field p 24 8) with
          | .error e => .fail e
          | .ok t => .done (t.charge n (count * 2 ^ bits)) []) s

/-- Takes one page away: the state and the page's size, or the status. -/
def State.unmapPage (s : State) (asid va : Nat) : Except Nat (State × Nat) :=
  match s.leafOf asid va with
  | .leaf at_ e bits =>
    if va % 2 ^ bits ≠ 0 then .error 3
    else if (s.stateOwner asid va).isSome || (bit e 1 && !bit e 6 && (s.queueAt (leafFrame e)).isSome) then .error 5
    else
      let s := ((s.drainAsid asid).l1FlushCores asid fun _ => true)
      let s := (s.writeMem at_ (natBytes 8 0)).tlbDrop asid va (2 ^ bits)
      let s := { s with backing := s.backing.filter fun x => !(x.1 == asid && x.2.1 == va) }
      let s := s.updAsid asid fun a => { a with used := a.used - 2 ^ bits }
      if bit e 6 then
        let set := (e.extractLsb' 41 5).toNat
        let page := leafFrame e / 65536
        .ok ({ s with accordPages := s.accordPages.filter fun x => !(x.1 == set && x.2.1 == page)
                      rebuilt := s.rebuilt.filter fun x => x.1 != set }.settleSets, bits)
      else if bit e 1 && decide (leafFrame e < 2 ^ 40) && !s.lost (leafFrame e) then .ok (s.freeFrom (leafFrame e) (pageFrames bits), bits)
      else .ok (s, bits)
  | _ => .error 3

/-- Takes pages away. -/
def State.unmapPages (s : State) (asid : Nat) : Nat → Nat → Except Nat State
  | 0, _ => .ok s
  | n + 1, va =>
    match s.unmapPage asid va with
    | .error e => .error e
    | .ok (s, bits) => s.unmapPages asid n (va + 2 ^ bits)

/-- Command 0x0021: unmap pages; Accord operations on them and buffered writes of phases to them are waited for (R238, R388). -/
def execMbxUnmapPages (seq : BitVec 16) (s : State) : Out :=
  mbxCmd 0x0021 [(0, 2), (8, 8), (16, 4)] seq (fun s p =>
    withAsid s (field p 0 2) fun _ => walkServed s (field p 0 2) 16 (field p 16 4) (field p 8 8) <|
      match s.unmapPages (field p 0 2) (field p 16 4) (field p 8 8) with
      | .error e => .fail e
      | .ok t =>
        let gone (va : Nat) : Bool := t.leafOf (field p 0 2) va == .unmapped
        if s.accordQ.any (fun o => o.asid == field p 0 2 && gone o.va.toNat) || s.accordReads.any (fun o => o.asid == field p 0 2 && gone o.va.toNat) ||
            s.bufferedAt (field p 0 2) gone then .busy s
        else .done t []) s

/-- Command 0x0022: aperture; a length of 0 unmaps the range at the offset, which must be the ASID's (R407). -/
def execMbxAperture (seq : BitVec 16) (s : State) : Out :=
  mbxCmd 0x0022 [(0, 2), (2, 1), (8, 8), (16, 8), (24, 8)] seq (fun s p =>
    let hdm := field p 2 1 == 1
    let off := field p 8 8
    let va := field p 16 8
    let len := field p 24 8
    let top := if hdm then 768 * 2 ^ 30 else 2 ^ 40
    let same (a : Aperture) : Bool := a.hdm == hdm
    withAsid s (field p 0 2) fun _ =>
      if 2 ≤ field p 2 1 ∨ off % 65536 ≠ 0 ∨ len % 65536 ≠ 0 ∨ top < off + len ∨ 2 ^ 57 < va + len then .fail 3
      else if len = 0 && s.host.apertures.any (fun a => same a && a.offset == off && a.asid != field p 0 2) then .fail 6
      else if len = 0 then
        .done { s with host := { s.host with apertures := s.host.apertures.filter fun a => !(same a && a.offset == off) } } []
      else if s.host.apertures.any fun a => same a && decide (a.offset < off + len) && decide (off < a.offset + a.len) then .fail 3
      else
        let a : Aperture := { asid := field p 0 2, hdm := hdm, offset := off, va := BitVec.ofNat 64 va, len := len }
        .done { s with host := { s.host with apertures := s.host.apertures ++ [a] } } []) s

/-- R410: command 0x0090: host message queue; its counts are zeroed. -/
def execMbxHostMessageQueue (seq : BitVec 16) (s : State) : Out :=
  mbxCmd 0x0090 [(0, 2), (2, 1), (8, 8)] seq (fun s p =>
    let n := field p 0 2
    let k := field p 2 1
    let va := field p 8 8
    withAsid s n fun _ =>
      if va = 0 then .done (s.updAsid n fun a => { a with msgQueue := none, produced := 0 }) []
      else if k < 4 ∨ 12 < k ∨ va % 64 ≠ 0 ∨ 2 ^ 57 < va + 64 + 64 * 2 ^ k then .fail 3
      else
        match s.fwWrite n va (List.replicate 64 0) with
        | (_, false) => .fail 3
        | (s, true) => .done (s.updAsid n fun a => { a with msgQueue := some (BitVec.ofNat 64 va, k), produced := 0 }) []) s

/-! ## Accord sets and pages (R367, R369, R380) -/

/-- A set entry with every member live (command 0x0023). -/
def setEntry (count members : Nat) : BitVec 64 :=
  BitVec.ofNat 64 (members % 2 ^ 20 + count * 2 ^ 20 + 2 ^ 23 + (2 ^ (min count 5) - 1) * 2 ^ 24)

/-- Every member of an entry lies on a die that is not fenced. -/
def State.membersLive (s : State) (e : BitVec 64) : Bool := (List.range (setCount e)).all fun m => !s.fenced.contains (setStack e m / 4)

/-- R367: command 0x0023: Accord set entry. -/
def execMbxAccordSetEntry (seq : BitVec 16) (s : State) : Out :=
  mbxCmd 0x0023 [(0, 1), (1, 1), (4, 4)] seq (fun s p =>
    let i := field p 0 1
    let e := setEntry (field p 1 1) (field p 4 4)
    if 32 ≤ i ∨ (field p 1 1 ≠ 3 ∧ field p 1 1 ≠ 5) ∨ 2 ^ 20 ≤ field p 4 4 ∨ !setLegal e ∨ !s.membersLive e then .fail 3
    else if !(s.accordGiven i).isEmpty then .fail 5
    else .done { s with sets := Store.write s.sets i e, rebuilt := s.rebuilt.filter (fun x => x.1 != i),
                        accordBad := s.accordBad.filter fun x => x.1 != i } []) s

/-- Zeroes every copy of a region page of a set, with tag 0 (R369). -/
def State.zeroAccord (s : State) (set page : Nat) : State :=
  let e := s.setOf set
  let s := (List.range (setCount e)).foldl (fun s m =>
    (s.clearMem (setStack e m * 2 ^ 36 + s.accordBase + 65536 * page) 65536).clearMem
      (setStack e m * 2 ^ 36 + s.accordBase + s.accordLen + 8192 * page) 8192) s
  { s with accordBad := s.accordBad.filter fun (a, l, _) => !(a == set && l / 1024 == page) }

/-- Gives Accord pages: the lowest region pages that no set holds. -/
def State.mapAccord (s : State) (asid set : Nat) (rights : BitVec 3) : Nat → Nat → Except Nat State
  | 0, _ => .ok s
  | n + 1, va =>
    match s.leafOf asid va with
    | .unmapped =>
      let used := s.accordPages.map fun x => x.2.1
      match (List.range (min (s.accordLen / 65536) (used.length + 1))).find? fun q => !used.contains q with
      | none => .error 4
      | some q =>
        let s := { (s.zeroAccord set q) with accordPages := s.accordPages ++ [(set, q, asid)], rebuilt := s.rebuilt.filter fun x => x.1 != set }
        match s.setLeaf asid va 16 (mkLeaf (65536 * q) rights true true set) with
        | none => .error 4
        | some s => s.mapAccord asid set rights n (va + 65536)
    | _ => .error 3

/-- R369: command 0x0024: map Accord pages. -/
def execMbxMapAccordPages (seq : BitVec 16) (s : State) : Out :=
  mbxCmd 0x0024 [(0, 2), (2, 1), (3, 1), (8, 8), (16, 4)] seq (fun s p =>
    let n := field p 0 2
    let set := field p 2 1
    let va := field p 8 8
    let count := field p 16 4
    withAsid s n fun a =>
      if 32 ≤ set ∨ 8 ≤ field p 3 1 ∨ va % 65536 ≠ 0 ∨ 2 ^ 57 < va + count * 65536 then .fail 3
      else if !bit (s.setOf set) 23 then .fail 5
      else if a.limit < a.used + count * 65536 then .fail 4
      else walkServed s n 16 count va <|
        match s.mapAccord n set (BitVec.ofNat 3 (field p 3 1)) count va with
        | .error e => .fail e
        | .ok t => .done (t.charge n (count * 65536)) []) s

/-- R380: command 0x0025: replace Accord member: it is entered with LIVE and REPAIR set. -/
def execMbxReplaceAccordMember (seq : BitVec 16) (s : State) : Out :=
  mbxCmd 0x0025 [(0, 1), (1, 1), (2, 1)] seq (fun s p =>
    let i := field p 0 1
    let m := field p 1 1
    let k := field p 2 1
    let e := s.setOf i
    let e2 := (e &&& ~~~(BitVec.ofNat 64 (15 * 2 ^ (4 * m)))) ||| BitVec.ofNat 64 (k * 2 ^ (4 * m))
    if 32 ≤ i ∨ 5 ≤ m ∨ 16 ≤ k then .fail 3
    else if !bit e 23 || setCount e ≤ m then .fail 3
    else if bit e (24 + m) then .fail 5
    else if !setLegal (e2 &&& 0x00ffffff) || s.fenced.contains (k / 4) then .fail 3
    else
      let e3 := e2 ||| BitVec.ofNat 64 (2 ^ (24 + m) + 2 ^ (29 + m))
      let t := { s with sets := Store.write s.sets i e3, rebuilt := s.rebuilt.filter (fun x => !(x.1 == i && x.2.1 == m)),
                        accordBad := s.accordBad.filter fun x => !(x.1 == i && x.2.2 == m) }
      .done (t.repairMember i m).settleSets []) s

/-! ## Queues (R169, R337) -/

/-- Creates a queue window under a number: its page is mapped for loads and stores (R169). -/
def State.createQueue (s : State) (num asid maxPrio va : Nat) (coll : Bool) : Served :=
  match s.leafOf asid va with
  | .unmapped =>
    match s.allocFrames none 1 with
    | none => .fail 4
    | some (s, pa) =>
      match s.setLeaf asid va 16 (mkLeaf pa 3 true false 0) with
      | none => .fail 4
      | some s =>
        let dies := (List.range 4).filter fun d => !s.fenced.contains d
        let (i, s) := s.pick dies.length
        let die := dies.getD i 0
        let q : LaunchQ :=
          { asid := asid, maxPrio := maxPrio, va := BitVec.ofNat 64 va, pa := pa, die := die, bytes := [], written := [], next := 0, accepted := 0,
            overruns := 0, collective := coll, owners := [], closed := false }
        .done { s with queues := Tab.put s.queues num q } (if coll then natBytes 1 die else natBytes 2 num ++ natBytes 1 die)
  | _ => .fail 3

/-- R169: command 0x0030: create launch queue, under the lowest free number. -/
def execMbxCreateLaunchQueue (seq : BitVec 16) (s : State) : Out :=
  mbxCmd 0x0030 [(0, 2), (2, 1), (8, 8)] seq (fun s p =>
    let va := field p 8 8
    withAsid s (field p 0 2) fun _ =>
      if 8 ≤ field p 2 1 ∨ va % 65536 ≠ 0 ∨ 2 ^ 57 < va + 65536 then .fail 3
      else
        match (List.range 4096).find? fun n => match Tab.find s.queues n with | some q => q.closed | none => true with
        | none => .fail 4
        | some n => walkServed s (field p 0 2) 16 1 va (s.createQueue n (field p 0 2) (field p 2 1) va false)) s

/-- Command 0x0031: destroy launch queue: packets accepted run on, and the window is unmapped. -/
def execMbxDestroyLaunchQueue (seq : BitVec 16) (s : State) : Out :=
  mbxCmd 0x0031 [(0, 2)] seq (fun s p =>
    let n := field p 0 2
    if 4096 ≤ n then .fail 3
    else
      match Tab.find s.queues n with
      | none => .fail 5
      | some q =>
        if q.closed then .fail 5
        else
          let s := { s with queues := Tab.put s.queues n { q with closed := true, bytes := [], written := [] } }
          .done ((s.clearLeaf q.asid q.va.toNat).freeFrom q.pa 1) []) s

/-- R169: command 0x0032: read overrun count. -/
def execMbxReadOverrunCount (seq : BitVec 16) (s : State) : Out :=
  mbxCmd 0x0032 [(0, 2)] seq (fun s p =>
    if 4096 ≤ field p 0 2 then .fail 3
    else
      match Tab.find s.queues (field p 0 2) with
      | some q => if q.closed then .fail 5 else .done s (bytesOf 8 q.overruns)
      | none => .fail 5) s

/-- R337: command 0x0033: the ASID's collective queue window; it stands beside the launch queues, under 4096 + ASID. -/
def execMbxCollectiveQueueWindow (seq : BitVec 16) (s : State) : Out :=
  mbxCmd 0x0033 [(0, 2), (8, 8)] seq (fun s p =>
    let n := field p 0 2
    let va := field p 8 8
    withAsid s n fun a =>
      if va % 65536 ≠ 0 ∨ 2 ^ 57 < va + 65536 then .fail 3
      else if a.collective.isSome then .fail 5
      else
        match walkServed s n 16 1 va (s.createQueue (4096 + n) n 0 va true) with
        | .done s r => .done (s.updAsid n fun a => { a with collective := some va }) r
        | x => x) s

/-! ## Fabric (R327, R328, R334, R336) -/

/-- R328: command 0x0041: register window. -/
def execMbxRegisterWindow (seq : BitVec 16) (s : State) : Out :=
  mbxCmd 0x0041 [(0, 2), (2, 2), (4, 1), (8, 8), (16, 8)] seq (fun s p =>
    let h := field p 0 2
    let rights := field p 4 1
    let base := field p 8 8
    let len := field p 16 8
    withAsid s (field p 2 2) fun _ =>
      if 4096 ≤ h ∨ 4 ≤ rights ∨ rights = 0 ∨ base % 65536 ≠ 0 ∨ len % 65536 ≠ 0 ∨ 2 ^ 48 < len ∨ 2 ^ 57 < base + len then .fail 3
      else if (Tab.find s.windows h).isSome then .fail 5
      else
        let w : Window := { asid := field p 2 2, base := BitVec.ofNat 64 base, len := len, canPut := rights % 2 == 1, canGet := 2 ≤ rights,
                            origin := 0, target := 0 }
        .done { s with windows := Tab.put s.windows h w } []) s

/-- A put or get to a window is in flight (R328): one of this module's, or one of a peer that waits here. -/
def State.windowBusy (s : State) (h : Nat) : Bool :=
  (s.txs.any fun (_, x) => x.handle == h && x.kind != 2) || s.delayed.any fun x => x.handle == h

/-- R328: command 0x0042: unregister window; it completes once nothing is in flight to it. -/
def execMbxUnregisterWindow (seq : BitVec 16) (s : State) : Out :=
  mbxCmd 0x0042 [(0, 2)] seq (fun s p =>
    let h := field p 0 2
    if 4096 ≤ h then .fail 3
    else if (Tab.find s.windows h).isNone then .fail 5
    else if s.windowBusy h then .busy s
    else .done { s with windows := Tab.del s.windows h } []) s

/-- An access-control entry as it is kept: reserved fields ignore writes and read 0 (R5, Table 18-4). -/
def accessBits (e : BitVec 64) : BitVec 64 := e &&& 0x33fffff3ff

/-- R334: command 0x0043: access-control entry. -/
def execMbxAccessControlEntry (seq : BitVec 16) (s : State) : Out :=
  mbxCmd 0x0043 [(0, 2), (8, 8)] seq (fun s p =>
    if 4096 ≤ field p 0 2 then .fail 3
    else .done { s with access := Store.write s.access (field p 0 2) (accessBits (BitVec.ofNat 64 (field p 8 8))) } []) s

/-- The schedule in bytes that firmware is to load, with its envelope, or the reason of the rejection (R397): 6 where the payload is none. -/
def State.scheduleIn (s : State) (b : List Byte) : Except Nat (Envelope × Schedule) :=
  match envelopeOf b with
  | none => .error 1
  | some e =>
    match s.refusal 2 e with
    | some r => .error r
    | none => match Config.scheduleOf e.payload with | some g => .ok (e, g) | none => .error 6

/-- R336, R397: command 0x0044: load schedule, under the lowest free handle; firmware logs a rejection. -/
def execMbxLoadSchedule (seq : BitVec 16) (s : State) : Out :=
  mbxCmd 0x0044 [(0, 2), (8, 8), (16, 8)] seq (fun s p =>
    let n := field p 0 2
    withAsid s n fun _ =>
      if field p 16 8 = 0 ∨ 2 ^ 57 < field p 8 8 + field p 16 8 then .fail 3
      else
        match s.collRead n 0 (field p 8 8) (field p 16 8) with
        | (t, none) => if t.starved then .busy (s.waiting t) else .fail 3
        | (t, some b) =>
          match t.scheduleIn b with
          | .error r => .reject (s.logRefusal 2 r) 6
          | .ok (e, g) =>
            let h := ((List.range (t.scheds.length + 1)).find? fun h => (Tab.find t.scheds h).isNone).getD 0
            let x : LoadedSched := { asid := n, sched := g, version := BitVec.ofNat 32 (envelopeVersion e), digest := Config.sha384 e.payload, residuals := [] }
            .done { t with scheds := Tab.put t.scheds h x } (natBytes 4 h)) s

/-! ## Populations -/

/-- Fields of command 0x0050. -/
def popFields (p : List Byte) : List (Nat × Nat) :=
  [(0, 2), (2, 1), (3, 1), (4, 4), (8, 8), (16, 1), (18, 2), (20, 4), (24, 4), (28, 4), (32, 8), (40, 2), (42, 2)] ++
    (List.range (min 64 (field p 42 2))).flatMap fun j => [(48 + 8 * j, 2), (52 + 8 * j, 4)]

/-- Slot ranges are contiguous and ascending: the first slots rise from 0 and lie below N. -/
def rangesOk (n : Nat) (l : List (Nat × Nat)) : Bool :=
  (l.map Prod.snd).head? == some 0 && (l.zip (l.drop 1)).all (fun (a, b) => decide (a.2 < b.2)) && l.all fun a => decide (a.2 < n)

/-- Every page of a range is unmapped. -/
def State.rangeFree (s : State) (asid va : Nat) : Nat → Bool
  | 0 => true
  | n + 1 => (match s.leafOf asid va with | .unmapped => true | _ => false) && s.rangeFree asid (va + 65536) n

/-- The population that a create request describes (Table 17-1). -/
def parsePop (p : List Byte) : Population :=
  { asid := field p 0 2, n := field p 4 4,
    members := (List.range (min 64 (field p 42 2))).map fun j => (field p (48 + 8 * j) 2, field p (52 + 8 * j) 4),
    seed := BitVec.ofNat 64 (field p 8 8), a := field p 16 1, theta := BitVec.ofNat 16 (field p 18 2), cutPolicy := field p 2 1 == 1,
    deadline := field p 20 4, period := field p 24 4, budget := field p 28 4, base := BitVec.ofNat 64 (field p 32 8), k := field p 40 2,
    priority := field p 3 1, z := 0, index := 0, state := .filling, demoted := false, recomp := false, cutrun := false, test := false,
    extinct := false, lastrs := false, essfail := false, zsat := false, lastS := 0, lastLmax := 0, parts := [], draw := none, mode := none,
    arrivedBy := [], held := [], samples := [], donors := [], snap := none, theta0 := BitVec.ofNat 16 (field p 18 2), started := 0
    admitted := false, rank := 0, wantPause := false, wantCancel := false, packets := [],
    posting := [], initial := [], initialBad := [], peersDone := false, peers := [] }

/-- The limits of Table 17-1. -/
def popOk (p : List Byte) (x : Population) : Bool :=
  decide (field p 2 1 < 2) && decide (x.priority < 8) && decide (1 ≤ x.n ∧ x.n ≤ 65536) && decide (1 ≤ x.a) && decide (1 ≤ x.period) &&
    decide (1 ≤ x.budget) && decide (x.deadline ≤ x.period) && decide (1 ≤ x.k ∧ x.k ≤ 512) && decide (field p 32 8 % 65536 = 0) &&
    decide (field p 32 8 + 65536 * x.k * x.n ≤ 2 ^ 57) && decide (1 ≤ field p 42 2 ∧ field p 42 2 ≤ 64) && rangesOk x.n x.members &&
    x.members.all (fun m => decide (m.1 < 512)) && decide ((dedup (x.members.map Prod.fst)).length = x.members.length)

/-- R294: command 0x0050: create population. -/
def execMbxCreatePopulation (seq : BitVec 16) (s : State) : Out :=
  mbxRun 0x0050 (fun _ => true) popFields seq (fun s p =>
    let x := parsePop p
    withAsid s x.asid fun _ =>
      if !popOk p x then .fail 3
      else
        match s.memberIndex x with
        | none => .fail 3
        | some i =>
          let (lo, hi) := x.range i
          let slots := (List.range (hi - lo)).map (lo + ·)
          let inUse := s.pops.foldl (fun n (_, q) => n + q.parts.length) 0
          walkServed s x.asid 16 (x.k * (hi - lo)) (x.base.toNat + 65536 * x.k * lo) <|
          if !s.rangeFree x.asid (x.base.toNat + 65536 * x.k * lo) (x.k * (hi - lo)) then .fail 3
          else if 1048576 < inUse + slots.length then .fail 4
          else
            match (List.range 4096).find? fun h => (Tab.find s.pops h).isNone with
            | none => .fail 4
            | some h =>
              let x := { x with parts := slots.map fun j => (j, Particle.new j) }
              match State.giveSlots { s with pops := Tab.put s.pops h x } h x slots with
              | none => .fail 4
              | some t => .done t (natBytes 2 h)) s

/-- Serves a command on a population. -/
def withPop (s : State) (h : Nat) (go : Population → Served) : Served :=
  if 4096 ≤ h then .fail 3 else match Tab.find s.pops h with | some p => go p | none => .fail 5

/-- Fields of command 0x0051. -/
abbrev popControl : List (Nat × Nat) := [(0, 2), (2, 1)]

/-- Firmware's copy of a population's state pages (R295): what is poisoned in a page stays poisoned in its copy (R382). -/
def State.keepInitial (s : State) (h : Nat) (p : Population) : State :=
  let s := s.l1FlushCores p.asid fun _ => true
  let pages := p.parts.flatMap fun (i, x) => (x.root.zipIdx).map fun (e, j) =>
    (i, j, (s.mem.filter fun (a, _) => decide (leafFrame e ≤ a ∧ a < leafFrame e + 65536)).map fun (a, b) => (a - leafFrame e, b))
  let bad := p.parts.flatMap fun (i, x) => (x.root.zipIdx).flatMap fun (e, j) =>
    if s.poisoned (leafFrame e) 65536 then
      ((List.range 2048).filter fun u => s.poisoned (leafFrame e + 32 * u) 32).map fun u => (i, j, u)
    else []
  s.updPop h fun q => { q with initial := pages.filter (fun (_, _, b) => !b.isEmpty), initialBad := bad }

/-- R322: command 0x0051 action 1: start, and the status for an action that is none of 1 to 4.  The decision of the other member modules comes
from outside (log 76); a population that has been dropped gets its initial pages and its launches again (R320). -/
def execMbxPopulationStart (seq : BitVec 16) (s : State) : Out :=
  mbxRun 0x0051 (fun a => !(a == 2 || a == 3 || a == 4)) (fun _ => popControl) seq (fun s p =>
    let h := field p 0 2
    if field p 2 1 ≠ 1 then .fail 3
    else withPop s h fun x =>
      if x.state ≠ .filling then .fail 5
      else if !s.admits h then .fail 4
      else
        let (others, s) := if x.members.length = 1 then (0, s) else s.pick 2
        if others = 1 then .fail 4
        else if x.recomp then (match s.recompute h with | some t => .done t [] | none => .fail 4)
        else .done ((s.keepInitial h x).startPop h) []) s

/-- R295: command 0x0051 action 2: pause, at the next boundary. -/
def execMbxPopulationPause (seq : BitVec 16) (s : State) : Out :=
  mbxRun 0x0051 (· == 2) (fun _ => popControl) seq (fun s p =>
    withPop s (field p 0 2) fun x =>
      if x.state ≠ .running then .fail 5 else .done (s.updPop (field p 0 2) fun q => { q with wantPause := true }) []) s

/-- R295: command 0x0051 action 3: resume. -/
def execMbxPopulationResume (seq : BitVec 16) (s : State) : Out :=
  mbxRun 0x0051 (· == 3) (fun _ => popControl) seq (fun s p =>
    withPop s (field p 0 2) fun x =>
      if x.state = .paused then .done (s.updPop (field p 0 2) fun q => { q with
          state := .running, started := s.clock
          snap := q.snap.map fun x => { x with started := true, draw := if x.started then x.draw else q.draw } }) []
      else if x.state = .running && x.wantPause then .done (s.updPop (field p 0 2) fun q => { q with wantPause := false }) []
      else .fail 5) s

/-- R318: command 0x0051 action 4: cancel. -/
def execMbxPopulationCancel (seq : BitVec 16) (s : State) : Out :=
  mbxRun 0x0051 (· == 4) (fun _ => popControl) seq (fun s p =>
    withPop s (field p 0 2) fun x =>
      if x.state = .running || x.state = .paused then .done (s.cancelPop (field p 0 2) x) [] else .fail 5) s

/-- Fields of command 0x0052. -/
def packetFields (p : List Byte) : List (Nat × Nat) := [(0, 2), (2, 2)] ++ (List.range (min 64 (field p 2 2))).map fun j => (8 + 8 * j, 8)

/-- Reads launch packets at addresses of an ASID. -/
def State.readPackets (s : State) (asid : Nat) : List Nat → State × Option (List (List Byte))
  | [] => (s, some [])
  | a :: r =>
    match s.collRead asid 0 a 128 with
    | (s, none) => (s, none)
    | (s, some b) =>
      match State.readPackets s asid r with
      | (s, some l) => (s, some (b :: l))
      | x => x

/-- R320: command 0x0052: population launches. -/
def execMbxPopulationLaunches (seq : BitVec 16) (s : State) : Out :=
  mbxRun 0x0052 (fun _ => true) packetFields seq (fun s p =>
    let n := field p 2 2
    withPop s (field p 0 2) fun x =>
      if n = 0 ∨ 64 < n then .fail 3
      else if x.state ≠ .filling then .fail 5
      else
        match s.readPackets x.asid ((List.range n).map fun j => field p (8 + 8 * j) 8) with
        | (t, none) => if t.starved then .busy (s.waiting t) else .fail 3
        | (t, some l) => .done (t.updPop (field p 0 2) fun q => { q with packets := l }) []) s

/-- Command 0x0053: population read; a free entry reads as the state free. -/
def execMbxPopulationRead (seq : BitVec 16) (s : State) : Out :=
  mbxCmd 0x0053 [(0, 2)] seq (fun s p =>
    if 4096 ≤ field p 0 2 then .fail 3
    else
      match Tab.find s.pops (field p 0 2) with
      | some x => .done s (bytesOf 4 x.word ++ natBytes 4 0 ++ bytesOf 8 x.index ++ bytesOf 8 x.z)
      | none => .done s (List.replicate 24 0)) s

/-! ## Pre-emption, debug sessions and images (R283, R286) -/

/-- Contexts of an ASID that have not reached step 6 of a pre-emption. -/
def State.resident (s : State) (asid : Nat) : List Nat :=
  s.ctxs.filterMap fun (k, c) => if c.asid == asid && (c.state == .running || c.state == .debugStop || c.state == .stopping) then some k else none

/-- R286: command 0x0060: pre-empt; it completes when every context of the ASID has reached step 6. -/
def execMbxPreEmpt (seq : BitVec 16) (s : State) : Out :=
  mbxCmd 0x0060 [(0, 2)] seq (fun s p =>
    withAsid s (field p 0 2) fun _ =>
      let t := (s.resident (field p 0 2)).foldl State.preempt s
      if (t.resident (field p 0 2)).isEmpty then .done t [] else .busy t) s

/-- R283: command 0x0061 action 0: attach, and the status for an action that is none of 0 to 3. -/
def execMbxDebugAttach (seq : BitVec 16) (s : State) : Out :=
  mbxRun 0x0061 (fun a => !(a == 1 || a == 2 || a == 3)) (fun _ => popControl) seq (fun s p =>
    withAsid s (field p 0 2) fun a =>
      if field p 2 1 ≠ 0 then .fail 3
      else if a.debug then .fail 5
      else .done (s.updAsid (field p 0 2) fun a => { a with debug := true }) []) s

/-- R283: command 0x0061 action 1: detach. -/
def execMbxDebugDetach (seq : BitVec 16) (s : State) : Out :=
  mbxRun 0x0061 (· == 1) (fun _ => popControl) seq (fun s p =>
    withAsid s (field p 0 2) fun a =>
      if a.debug then .done (s.updAsid (field p 0 2) fun a => { a with debug := false }) [] else .fail 5) s

/-- Contexts of an ASID. -/
def State.ctxsOf (s : State) (asid : Nat) : List Nat := s.ctxs.filterMap fun (k, c) => if c.asid == asid then some k else none

/-- R283: command 0x0061 action 2: stop every context. -/
def execMbxDebugStopAll (seq : BitVec 16) (s : State) : Out :=
  mbxRun 0x0061 (· == 2) (fun _ => popControl) seq (fun s p =>
    withAsid s (field p 0 2) fun a => if a.debug then .done ((s.ctxsOf (field p 0 2)).foldl State.hostStop s) [] else .fail 5) s

/-- A context's stopped threads go on. -/
def State.letGo (s : State) (c : Nat) : State :=
  let s := s.updCtx c fun x => { x with state := if x.state == .debugStop then .running else x.state, held := false }
  (s.ctxThreads c).foldl (fun s (k, t) =>
    let t := { t with freed := false }
    if t.status == .stopped then s.withdraw k t else s.putThread k t) s

/-- R283: command 0x0061 action 3: let every stopped thread go. -/
def execMbxDebugReleaseAll (seq : BitVec 16) (s : State) : Out :=
  mbxRun 0x0061 (· == 3) (fun _ => popControl) seq (fun s p =>
    withAsid s (field p 0 2) fun a => if a.debug then .done ((s.ctxsOf (field p 0 2)).foldl State.letGo s) [] else .fail 5) s

/-- Every thread of a context counts as stopped, but for those that the debugger has let go (R283). -/
def State.ctxStopped (s : State) (c : Nat) : Bool := (s.ctxThreads c).all fun (k, t) => t.freed || s.atRest k t

/-- The context whose image an image access names, and its offset and length; or the status. -/
def State.imageArgs (s : State) (p : List Byte) : Except Nat (Nat × Ctx × Nat × Nat) :=
  let off := field p 16 4
  let len := field p 20 4
  match s.ctxs.find? fun (_, c) => c.asid == field p 0 2 && c.image.toNat == field p 8 8 with
  | none => if s.ctxs.any fun (_, c) => c.image.toNat == field p 8 8 then .error 6 else .error 3
  | some (k, c) =>
    if len = 0 ∨ 4056 < len ∨ 4096 + c.blocks.length * c.part < off + len then .error 3
    else if c.state == .out || (c.state == .debugStop && s.ctxStopped k) then .ok (k, c, off, len)
    else .error 5

/-- Command 0x0062 direction 0: image read, and the status for a direction that is neither 0 nor 1. -/
def execMbxImageRead (seq : BitVec 16) (s : State) : Out :=
  mbxRun 0x0062 (fun a => !(a == 1)) (fun _ => [(0, 2), (2, 1), (8, 8), (16, 4), (20, 4)]) seq (fun s p =>
    withAsid s (field p 0 2) fun _ =>
      if field p 2 1 ≠ 0 then .fail 3
      else
        match s.imageArgs p with
        | .error e => .fail e
        | .ok (_, c, off, len) => .done { s with ticket := s.ticket + off + len } (s.imageRead c off len)) s

/-- Command 0x0062 direction 1: image write. -/
def execMbxImageWrite (seq : BitVec 16) (s : State) : Out :=
  mbxRun 0x0062 (· == 1) (fun p => [(0, 2), (2, 1), (8, 8), (16, 4), (20, 4), (24, field p 20 4)]) seq (fun s p =>
    withAsid s (field p 0 2) fun _ =>
      match s.imageArgs p with
      | .error e => .fail e
      | .ok (k, c, off, len) => .done (s.imageWrite k c off ((p.drop 24).take len)) []) s

/-! ## Attestation (R398) -/

/-- A list cut or filled up to a length. -/
def fitBytes (n : Nat) (b : List Byte) : List Byte := b.take n ++ List.replicate (n - b.length) 0

/-- The attestation report for a nonce: the envelope of kind 4 (Table 22-2). -/
def State.report (s : State) (nonce : List Byte) : List Byte :=
  let gens := (List.range 1024).map fun n => match Tab.find s.asids n with | some a => a.keyGen | none => 0
  let payload := nonce ++ Config.reportTail ([s.fwMeasure] ++ (s.scheds.map fun (_, x) => x.digest) ++ s.images.map fun (_, x) => x.measure)
    ((List.range 5).map (Store.read s.fused)) gens
  let head := natBytes 4 0x47535950 ++ natBytes 2 1 ++ natBytes 2 4 ++ bytesOf 4 (Store.read s.fused 4) ++ natBytes 4 0 ++ natBytes 8 payload.length ++
    bytesOf 48 (Config.sha384 payload) ++ fitBytes 384 Config.attestKeys.1 ++ fitBytes 48 Config.attestKeys.2
  head ++ fitBytes 384 (Config.rsaSign head) ++ fitBytes 16224 (Config.slhSign head) ++ payload

/-- R398: command 0x0080: attestation. -/
def execMbxAttestation (seq : BitVec 16) (s : State) : Out :=
  mbxCmd 0x0080 [(0, 48), (48, 2), (56, 8), (64, 8)] seq (fun s p =>
    withAsid s (field p 48 2) fun _ =>
      let r := s.report (p.take 48)
      if field p 64 8 < r.length then .fail 4
      else
        match s.collWrite (field p 48 2) 0 (field p 56 8) r with
        | (t, false) => if t.starved then .busy (s.waiting t) else .fail 3
        | (t, true) => .done t (natBytes 8 r.length)) s

end Sys2Proof.Machine
end

