-- ==== Sys2Proof/Machine/Dispatch.lean ====
section
/-!
DEFINITION. What each instruction and event does: one arm for each constructor of `Instr`.
-/
namespace Sys2Proof.Machine

def exec (i : Instr) (s : State) : Host.Outcome State Fault Refusal :=
  match i with
  | .nop m => Sys2Proof.Machine.execNop m s
  | .iadd d a b m => Sys2Proof.Machine.execIadd d a b m s
  | .isub d a b m => Sys2Proof.Machine.execIsub d a b m s
  | .imul d a b f m => Sys2Proof.Machine.execImul d a b f m s
  | .imad d a b f m => Sys2Proof.Machine.execImad d a b f m s
  | .imnx d a b f m => Sys2Proof.Machine.execImnx d a b f m s
  | .and d a b notb m => Sys2Proof.Machine.execAnd d a b notb m s
  | .or d a b notb m => Sys2Proof.Machine.execOr d a b notb m s
  | .xor d a b notb m => Sys2Proof.Machine.execXor d a b notb m s
  | .shl d a b m => Sys2Proof.Machine.execShl d a b m s
  | .shr d a b ari m => Sys2Proof.Machine.execShr d a b ari m s
  | .bfx d a b sx m => Sys2Proof.Machine.execBfx d a b sx m s
  | .bfi d a b m => Sys2Proof.Machine.execBfi d a b m s
  | .bits d a f m => Sys2Proof.Machine.execBits d a f m s
  | .add64 d a b f m => Sys2Proof.Machine.execAdd64 d a b f m s
  | .movi c v m => Sys2Proof.Machine.execMovi c v m s
  | .fadd d a b f m => Sys2Proof.Machine.execFadd d a b f m s
  | .fsub d a b f m => Sys2Proof.Machine.execFsub d a b f m s
  | .fmul d a b f m => Sys2Proof.Machine.execFmul d a b f m s
  | .ffma d a b f m => Sys2Proof.Machine.execFfma d a b f m s
  | .fmnx d a b f m => Sys2Proof.Machine.execFmnx d a b f m s
  | .frcp d a f m => Sys2Proof.Machine.execFrcp d a f m s
  | .fex d a f m => Sys2Proof.Machine.execFex d a f m s
  | .fscl d a b f m => Sys2Proof.Machine.execFscl d a b f m s
  | .fcls d a m => Sys2Proof.Machine.execFcls d a m s
  | .bfadd d a b f m => Sys2Proof.Machine.execBfadd d a b f m s
  | .bfmul d a b f m => Sys2Proof.Machine.execBfmul d a b f m s
  | .bffma d a b f m => Sys2Proof.Machine.execBffma d a b f m s
  | .fdot2 d a b f m => Sys2Proof.Machine.execFdot2 d a b f m s
  | .fdiv d a b f m => Sys2Proof.Machine.execFdiv d a b f m s
  | .fsgn d a b f m => Sys2Proof.Machine.execFsgn d a b f m s
  | .frnd d a f m => Sys2Proof.Machine.execFrnd d a f m s
  | .cvt d a code f m => Sys2Proof.Machine.execCvt d a code f m s
  | .icmp d a b f m => Sys2Proof.Machine.execIcmp d a b f m s
  | .fcmp d a b f m => Sys2Proof.Machine.execFcmp d a b f m s
  | .sel d a b w64 m => Sys2Proof.Machine.execSel d a b w64 m s
  | .shfl d a b f m => Sys2Proof.Machine.execShfl d a b f m s
  | .vote d a f m => Sys2Proof.Machine.execVote d a f m s
  | .wred d a f m => Sys2Proof.Machine.execWred d a f m s
  | .fwred d a f m => Sys2Proof.Machine.execFwred d a f m s
  | .wscn d a f m => Sys2Proof.Machine.execWscn d a f m s
  | .rdsr d code clr m => Sys2Proof.Machine.execRdsr d code clr m s
  | .kset d a w64 m => Sys2Proof.Machine.execKset d a w64 m s
  | .prm d a b m => Sys2Proof.Machine.execPrm d a b m s
  | .mov d a f m => Sys2Proof.Machine.execMov d a f m s
  | .idiv d a b f m => Sys2Proof.Machine.execIdiv d a b f m s
  | .iabs d a f m => Sys2Proof.Machine.execIabs d a f m s
  | .ld d a b f m => Sys2Proof.Machine.execLd d a b f m s
  | .st d a b f m => Sys2Proof.Machine.execSt d a b f m s
  | .lda d a b f m => Sys2Proof.Machine.execLda d a b f m s
  | .stl d a b f m => Sys2Proof.Machine.execStl d a b f m s
  | .atom d a b f m => Sys2Proof.Machine.execAtom d a b f m s
  | .cas d a b w64 m => Sys2Proof.Machine.execCas d a b w64 m s
  | .fxadd a b m => Sys2Proof.Machine.execFxadd a b m s
  | .fxrd d a raw m => Sys2Proof.Machine.execFxrd d a raw m s
  | .bnk d a b f m => Sys2Proof.Machine.execBnk d a b f m s
  | .fenceAcqrel f m => Sys2Proof.Machine.execFenceAcqrel f m s
  | .fenceAcq f m => Sys2Proof.Machine.execFenceAcq f m s
  | .fenceRel f m => Sys2Proof.Machine.execFenceRel f m s
  | .ldb d a b m => Sys2Proof.Machine.execLdb d a b m s
  | .cctlWb a m => Sys2Proof.Machine.execCctlWb a m s
  | .cctlWbinv a m => Sys2Proof.Machine.execCctlWbinv a m s
  | .cctlWball a m => Sys2Proof.Machine.execCctlWball a m s
  | .cctlWbinvall a m => Sys2Proof.Machine.execCctlWbinvall a m s
  | .cctlPf1 a m => Sys2Proof.Machine.execCctlPf1 a m s
  | .cctlPf2 a m => Sys2Proof.Machine.execCctlPf2 a m s
  | .cctlCreset d a m => Sys2Proof.Machine.execCctlCreset d a m s
  | .ldk d a b w64 m => Sys2Proof.Machine.execLdk d a b w64 m s
  | .atom64 d a b f m => Sys2Proof.Machine.execAtom64 d a b f m s
  | .bnz c idx => Sys2Proof.Machine.execBnz c idx s
  | .bz c idx => Sys2Proof.Machine.execBz c idx s
  | .jmp idx => Sys2Proof.Machine.execJmp idx s
  | .call c idx => Sys2Proof.Machine.execCall c idx s
  | .jind a => Sys2Proof.Machine.execJind a s
  | .calli d a => Sys2Proof.Machine.execCalli d a s
  | .ret a => Sys2Proof.Machine.execRet a s
  | .land m => Sys2Proof.Machine.execLand m s
  | .join a id => Sys2Proof.Machine.execJoin a id s
  | .barSync idx => Sys2Proof.Machine.execBarSync idx s
  | .barArr idx => Sys2Proof.Machine.execBarArr idx s
  | .barWt idx => Sys2Proof.Machine.execBarWt idx s
  | .gbarSync idx => Sys2Proof.Machine.execGbarSync idx s
  | .gbarArr idx => Sys2Proof.Machine.execGbarArr idx s
  | .gbarWt idx => Sys2Proof.Machine.execGbarWt idx s
  | .exit => Sys2Proof.Machine.execExit s
  | .trap code => Sys2Proof.Machine.execTrap code s
  | .brk => Sys2Proof.Machine.execBrk s
  | .yld => Sys2Proof.Machine.execYld s
  | .waitAll e => Sys2Proof.Machine.execWaitAll e s
  | .waitGe a e => Sys2Proof.Machine.execWaitGe a e s
  | .mma d a b f m => Sys2Proof.Machine.execMma d a b f m s
  | .cpy d a b m => Sys2Proof.Machine.execCpy d a b m s
  | .cpym d a b m => Sys2Proof.Machine.execCpym d a b m s
  | .ringInit d a b m => Sys2Proof.Machine.execRingInit d a b m s
  | .ringArrive d a b m => Sys2Proof.Machine.execRingArrive d a b m s
  | .ringWait d a b m => Sys2Proof.Machine.execRingWait d a b m s
  | .ringRelease d a b m => Sys2Proof.Machine.execRingRelease d a b m s
  | .mck d a clr m => Sys2Proof.Machine.execMck d a clr m s
  | .tlrd d e m => Sys2Proof.Machine.execTlrd d e m s
  | .spawn d a b core m => Sys2Proof.Machine.execSpawn d a b core m s
  | .phend => Sys2Proof.Machine.execPhend s
  | .putWin d a b m => Sys2Proof.Machine.execPutWin d a b m s
  | .putLaunch d a m => Sys2Proof.Machine.execPutLaunch d a m s
  | .get d a b m => Sys2Proof.Machine.execGet d a b m s
  | .wcntRdo d a m => Sys2Proof.Machine.execWcntRdo d a m s
  | .wcntRdt d a m => Sys2Proof.Machine.execWcntRdt d a m s
  | .wcntWto d a b m => Sys2Proof.Machine.execWcntWto d a b m s
  | .wcntWtt d a b m => Sys2Proof.Machine.execWcntWtt d a b m s
  | .mfillZero d m => Sys2Proof.Machine.execMfillZero d m s
  | .mfillSet d a m => Sys2Proof.Machine.execMfillSet d a m s
  | .pbind a b m => Sys2Proof.Machine.execPbind a b m s
  | .wadd a m => Sys2Proof.Machine.execWadd a m s
  | .wrd d fp m => Sys2Proof.Machine.execWrd d fp m s
  | .parv d f => Sys2Proof.Machine.execParv d f s
  | .pst d code m => Sys2Proof.Machine.execPst d code m s
  | .pctlItend d m => Sys2Proof.Machine.execPctlItend d m s
  | .pctlKill d m => Sys2Proof.Machine.execPctlKill d m s
  | .pctlTheta d a m => Sys2Proof.Machine.execPctlTheta d a m s
  | .pctlDraw d a m => Sys2Proof.Machine.execPctlDraw d a m s
  | .pctlUndraw d m => Sys2Proof.Machine.execPctlUndraw d m s
  | .rng d a part m => Sys2Proof.Machine.execRng d a part m s
  | .ppar d gen m => Sys2Proof.Machine.execPpar d gen m s
  | .scfgMeth d a b m => Sys2Proof.Machine.execScfgMeth d a b m s
  | .scfgStart d a b m => Sys2Proof.Machine.execScfgStart d a b m s
  | .scfgClose d m => Sys2Proof.Machine.execScfgClose d m s
  | .scfgStop d b m => Sys2Proof.Machine.execScfgStop d b m s
  | .seval d a m => Sys2Proof.Machine.execSeval d a m s
  | .sst d a wait m => Sys2Proof.Machine.execSst d a wait m s
  | .mld d a w64 m => Sys2Proof.Machine.execMld d a w64 m s
  | .mst a b w64 m => Sys2Proof.Machine.execMst a b w64 m s
  | .mcas d a b w64 m => Sys2Proof.Machine.execMcas d a b w64 m s
  | .mtag d a m => Sys2Proof.Machine.execMtag d a m s
  | .winb a add m => Sys2Proof.Machine.execWinb a add m s
  | .racq d a try_ => Sys2Proof.Machine.execRacq d a try_ s
  | .rrel d a m => Sys2Proof.Machine.execRrel d a m s
  | .sysr d code m => Sys2Proof.Machine.execSysr d code m s
  | .sysw a code m => Sys2Proof.Machine.execSysw a code m s
  | .eret => Sys2Proof.Machine.execEret s
  | .syscVersion d => Sys2Proof.Machine.execSyscVersion d s
  | .syscPost d a => Sys2Proof.Machine.execSyscPost d a s
  | .syscPrefault d a => Sys2Proof.Machine.execSyscPrefault d a s
  | .dbgxQuery d a m => Sys2Proof.Machine.execDbgxQuery d a m s
  | .dbgxNotify d a m => Sys2Proof.Machine.execDbgxNotify d a m s
  | .dbgxStop d a m => Sys2Proof.Machine.execDbgxStop d a m s
  | .faultRecordDeferred th => Sys2Proof.Machine.execFaultRecordDeferred th s
  | .faultOutcomeWrite die seq outcome => Sys2Proof.Machine.execFaultOutcomeWrite die seq outcome s
  | .l1Eviction core line => Sys2Proof.Machine.execL1Eviction core line s
  | .homeOperationExecute idx => Sys2Proof.Machine.execHomeOperationExecute idx s
  | .bankOperationExecute idx => Sys2Proof.Machine.execBankOperationExecute idx s
  | .sharedPageCopy idx => Sys2Proof.Machine.execSharedPageCopy idx s
  | .translationInvalidation asid va len => Sys2Proof.Machine.execTranslationInvalidation asid va len s
  | .classVResultWrite th ticket => Sys2Proof.Machine.execClassVResultWrite th ticket s
  | .runImplicitEnd g => Sys2Proof.Machine.execRunImplicitEnd g s
  | .schedulerYield g => Sys2Proof.Machine.execSchedulerYield g s
  | .issueGroupForm core part th => Sys2Proof.Machine.execIssueGroupForm core part th s
  | .convergentTimeout wave => Sys2Proof.Machine.execConvergentTimeout wave s
  | .joinTimeout th => Sys2Proof.Machine.execJoinTimeout th s
  | .barrierTimeout th => Sys2Proof.Machine.execBarrierTimeout th s
  | .phaseEnd ctx => Sys2Proof.Machine.execPhaseEnd ctx s
  | .registerAcquireTimeout th => Sys2Proof.Machine.execRegisterAcquireTimeout th s
  | .rrelStallEnd th => Sys2Proof.Machine.execRrelStallEnd th s
  | .trapEntry th => Sys2Proof.Machine.execTrapEntry th s
  | .matrixCommandRun blk => Sys2Proof.Machine.execMatrixCommandRun blk s
  | .copyCommandRun blk n => Sys2Proof.Machine.execCopyCommandRun blk n s
  | .copyPieceCredit blk n target => Sys2Proof.Machine.execCopyPieceCredit blk n target s
  | .ringOpApply idx => Sys2Proof.Machine.execRingOpApply idx s
  | .launchQueueWrite q off bytes => Sys2Proof.Machine.execLaunchQueueWrite q off bytes s
  | .gangPlacement task cores => Sys2Proof.Machine.execGangPlacement task cores s
  | .taskPlacement core => Sys2Proof.Machine.execTaskPlacement core s
  | .neighbourBalance cluster => Sys2Proof.Machine.execNeighbourBalance cluster s
  | .taskSteal core => Sys2Proof.Machine.execTaskSteal core s
  | .launchComplete launch => Sys2Proof.Machine.execLaunchComplete launch s
  | .preemptRequest ctx => Sys2Proof.Machine.execPreemptRequest ctx s
  | .contextEvictable ctx => Sys2Proof.Machine.execContextEvictable ctx s
  | .contextResume ctx cores => Sys2Proof.Machine.execContextResume ctx cores s
  | .syscAnswer th => Sys2Proof.Machine.execSyscAnswer th s
  | .barrierEpisodeEnd pop peers => Sys2Proof.Machine.execBarrierEpisodeEnd pop peers s
  | .cutDeadline pop => Sys2Proof.Machine.execCutDeadline pop s
  | .memoryPressureDrop asid => Sys2Proof.Machine.execMemoryPressureDrop asid s
  | .iterationOverrun pop used => Sys2Proof.Machine.execIterationOverrun pop used s
  | .collectiveStartAccept w off bytes owner => Sys2Proof.Machine.execCollectiveStartAccept w off bytes owner s
  | .scheduleSend inst op => Sys2Proof.Machine.execScheduleSend inst op s
  | .scheduleRecv inst op rank bytes => Sys2Proof.Machine.execScheduleRecv inst op rank bytes s
  | .scheduleReduce inst op slot => Sys2Proof.Machine.execScheduleReduce inst op slot s
  | .scheduleCopy inst op => Sys2Proof.Machine.execScheduleCopy inst op s
  | .scheduleGate inst op => Sys2Proof.Machine.execScheduleGate inst op s
  | .scheduleSignal inst op => Sys2Proof.Machine.execScheduleSignal inst op s
  | .stepTimerExpiry inst op => Sys2Proof.Machine.execStepTimerExpiry inst op s
  | .absentNotice inst rank present => Sys2Proof.Machine.execAbsentNotice inst rank present s
  | .reservationRelease inst => Sys2Proof.Machine.execReservationRelease inst s
  | .sillageStage cluster sample => Sys2Proof.Machine.execSillageStage cluster sample s
  | .sillageStepEnd cluster sample => Sys2Proof.Machine.execSillageStepEnd cluster sample s
  | .accordCoordinatorServe set line => Sys2Proof.Machine.execAccordCoordinatorServe set line s
  | .accordMemberLoss set member => Sys2Proof.Machine.execAccordMemberLoss set member s
  | .coordinatorTakeover set line held => Sys2Proof.Machine.execCoordinatorTakeover set line held s
  | .accordScrubVisit set line => Sys2Proof.Machine.execAccordScrubVisit set line s
  | .phaseRelaunch ctx => Sys2Proof.Machine.execPhaseRelaunch ctx s
  | .dieFence die => Sys2Proof.Machine.execDieFence die s
  | .moduleReset boot => Sys2Proof.Machine.execModuleReset boot s
  | .mbxInfo seq => Sys2Proof.Machine.execMbxInfo seq s
  | .mbxAcknowledgeEvents seq => Sys2Proof.Machine.execMbxAcknowledgeEvents seq s
  | .mbxCreateAsid seq => Sys2Proof.Machine.execMbxCreateAsid seq s
  | .mbxTearDownAsid seq => Sys2Proof.Machine.execMbxTearDownAsid seq s
  | .mbxBankSegment seq => Sys2Proof.Machine.execMbxBankSegment seq s
  | .mbxMapPages seq => Sys2Proof.Machine.execMbxMapPages seq s
  | .mbxUnmapPages seq => Sys2Proof.Machine.execMbxUnmapPages seq s
  | .mbxAperture seq => Sys2Proof.Machine.execMbxAperture seq s
  | .mbxAccordSetEntry seq => Sys2Proof.Machine.execMbxAccordSetEntry seq s
  | .mbxMapAccordPages seq => Sys2Proof.Machine.execMbxMapAccordPages seq s
  | .mbxReplaceAccordMember seq => Sys2Proof.Machine.execMbxReplaceAccordMember seq s
  | .mbxCreateLaunchQueue seq => Sys2Proof.Machine.execMbxCreateLaunchQueue seq s
  | .mbxDestroyLaunchQueue seq => Sys2Proof.Machine.execMbxDestroyLaunchQueue seq s
  | .mbxReadOverrunCount seq => Sys2Proof.Machine.execMbxReadOverrunCount seq s
  | .mbxCollectiveQueueWindow seq => Sys2Proof.Machine.execMbxCollectiveQueueWindow seq s
  | .mbxSetModuleNumber seq => Sys2Proof.Machine.execMbxSetModuleNumber seq s
  | .mbxRegisterWindow seq => Sys2Proof.Machine.execMbxRegisterWindow seq s
  | .mbxUnregisterWindow seq => Sys2Proof.Machine.execMbxUnregisterWindow seq s
  | .mbxAccessControlEntry seq => Sys2Proof.Machine.execMbxAccessControlEntry seq s
  | .mbxLoadSchedule seq => Sys2Proof.Machine.execMbxLoadSchedule seq s
  | .mbxCreatePopulation seq => Sys2Proof.Machine.execMbxCreatePopulation seq s
  | .mbxPopulationStart seq => Sys2Proof.Machine.execMbxPopulationStart seq s
  | .mbxPopulationPause seq => Sys2Proof.Machine.execMbxPopulationPause seq s
  | .mbxPopulationResume seq => Sys2Proof.Machine.execMbxPopulationResume seq s
  | .mbxPopulationCancel seq => Sys2Proof.Machine.execMbxPopulationCancel seq s
  | .mbxPopulationLaunches seq => Sys2Proof.Machine.execMbxPopulationLaunches seq s
  | .mbxPopulationRead seq => Sys2Proof.Machine.execMbxPopulationRead seq s
  | .mbxPreEmpt seq => Sys2Proof.Machine.execMbxPreEmpt seq s
  | .mbxDebugAttach seq => Sys2Proof.Machine.execMbxDebugAttach seq s
  | .mbxDebugDetach seq => Sys2Proof.Machine.execMbxDebugDetach seq s
  | .mbxDebugStopAll seq => Sys2Proof.Machine.execMbxDebugStopAll seq s
  | .mbxDebugReleaseAll seq => Sys2Proof.Machine.execMbxDebugReleaseAll seq s
  | .mbxImageRead seq => Sys2Proof.Machine.execMbxImageRead seq s
  | .mbxImageWrite seq => Sys2Proof.Machine.execMbxImageWrite seq s
  | .mbxPowerCap seq => Sys2Proof.Machine.execMbxPowerCap seq s
  | .mbxTelemetry seq => Sys2Proof.Machine.execMbxTelemetry seq s
  | .mbxAttestation seq => Sys2Proof.Machine.execMbxAttestation seq s
  | .mbxHostMessageQueue seq => Sys2Proof.Machine.execMbxHostMessageQueue seq s
  | .mbxUnknownCommand seq => Sys2Proof.Machine.execMbxUnknownCommand seq s
  | .counterWaitTimeout th => Sys2Proof.Machine.execCounterWaitTimeout th s
  | .flitReceive port flit => Sys2Proof.Machine.execFlitReceive port flit s
  | .linkRetrain port => Sys2Proof.Machine.execLinkRetrain port s
  | .linkRetrainingEnd port ok => Sys2Proof.Machine.execLinkRetrainingEnd port ok s
  | .putTargetReceive tx => Sys2Proof.Machine.execPutTargetReceive tx s
  | .putAckReceive tx reply => Sys2Proof.Machine.execPutAckReceive tx reply s
  | .getTargetRead tx => Sys2Proof.Machine.execGetTargetRead tx s
  | .getDataLand tx reply bytes => Sys2Proof.Machine.execGetDataLand tx reply bytes s
  | .peerLaunchReceive origin queue bytes => Sys2Proof.Machine.execPeerLaunchReceive origin queue bytes s
  | .powerSample r => Sys2Proof.Machine.execPowerSample r s
  | .thermalEvent die island temp => Sys2Proof.Machine.execThermalEvent die island temp s
  | .coolantFlowLow flow => Sys2Proof.Machine.execCoolantFlowLow flow s
  | .requestBufferWrite off bytes => Sys2Proof.Machine.execRequestBufferWrite off bytes s
  | .registerWrite off value wide => Sys2Proof.Machine.execRegisterWrite off value wide s
  | .bar2UnmappedAccess off write => Sys2Proof.Machine.execBar2UnmappedAccess off write s
  | .patrolScrub unit uncorrectable => Sys2Proof.Machine.execPatrolScrub unit uncorrectable s
  | .calibration port lane => Sys2Proof.Machine.execCalibration port lane s
  | .testKernelEnd core image choice other => Sys2Proof.Machine.execTestKernelEnd core image choice other s
  | .switchReservationLoss inst => Sys2Proof.Machine.execSwitchReservationLoss inst s

end Sys2Proof.Machine
end

