-- ==== Sys2Proof/Machine/Turns.lean ====
section
/-!
DEFINITION. The turns of a module: fetching an instruction (R43 to R45), one turn of an issue group, the events that the hardware and
firmware carry out by themselves and the order in which this model lets them happen where nothing outside says otherwise, and the
module that is ready to run one instruction placed in its memory.
-/
namespace Sys2Proof.Machine

/-! ## Fetching (R43, R44) -/

/-- `n` words from an address on; the first that cannot be fetched stops the fetch. -/
def State.fetchWords (s : State) (k : Nat) : Nat → Nat → State × Except Stop (List Word)
  | 0, _ => (s, .ok [])
  | n + 1, va =>
    match s.fetchWord k va with
    | (s, .error e) => (s, .error e)
    | (s, .ok w) =>
      match State.fetchWords s k n (va + 4) with
      | (s, .error e) => (s, .error e)
      | (s, .ok ws) => (s, .ok (w :: ws))

/-- The instruction at a PC with all of its words, or the words that decode to none. -/
def State.fetch (s : State) (k : Nat) (pc : Nat) : State × Except Stop (Except Reject Instr) :=
  match s.fetchWord k pc with
  | (s, .error e) => (s, .error e)
  | (s, .ok w) =>
    match s.fetchWords k (litCount w) (pc + 4) with
    | (s, .error e) => (s, .error e)
    | (s, .ok ws) => (s, .ok (decodeWord w ws))

/-- What executes an instruction. -/
abbrev Exec := Instr → State → Out

/-- The thread of the next instruction fetches and executes it: a trap found after an earlier issue comes first (R411), a fetch that
fails traps or parks the thread (R44), and words that decode to no instruction raise the illegal-instruction trap (R56, R57). -/
def State.runThread (s : State) (ex : Exec) (k : Nat) (t : Thread) : Out :=
  let s := { s with cur := k }
  match t.dueBefore with
  | some d => .next (s.takeDue k t d)
  | none =>
    match s.fetch k t.pc.toNat with
    | (s, .error e) => .next (s.stopThread k t e)
    | (s, .ok (.error _)) => .next (s.trapAt k t trapIllegal)
    | (s, .ok (.ok i)) => ex i s

/-- The thread whose turn it is in a group. -/
def State.groupThread (s : State) (g : Nat) : Option (Nat × Thread) :=
  match Tab.find s.groups g with
  | none => none
  | some x =>
    match x.todo with
    | [] => none
    | k :: _ =>
      match Tab.find s.threads k with
      | some t => if t.status = .ready then some (k, t) else none
      | none => none

/-- A turn of an issue group, where the scheduler lets it issue: it is its partition's current group from then on (R178). -/
def State.issueTurn (s : State) (ex : Exec) (g : Nat) : Out :=
  match s.groupThread g, Tab.find s.groups g with
  | some (k, t), some x => if s.mayIssue g x then (s.takeTurn g).runThread ex k t else .next s
  | _, _ => .next s

/-! ## The events that nothing outside the module brings about -/

/-- Groups that the scheduler lets issue (R178): those that do not stall, or those that do and try again. -/
def State.issuers (s : State) (stalled : Bool) : Tab Group :=
  s.groups.filter fun (k, g) => !g.ended && (match s.groupThread k with
    | some (_, t) => t.stall.isSome == stalled && s.mayIssue k g
    | none => false)

/-- Groups that go on: their next thread does not stall.  The one whose instruction was issued longest ago is first. -/
def State.runnable (s : State) : Option Nat :=
  let gs := s.issuers false
  match gs with
  | [] => none
  | x :: r => some (r.foldl (fun b a => if a.2.issue < b.2.issue then a else b) x).1

/-- A group that stalls in place tries again; they take turns. -/
def State.retrying (s : State) : Option Nat :=
  let gs := s.issuers true
  (gs[s.clock / 4 % (max 1 gs.length)]?).map Prod.fst

/-- Results, traps and the ends of runs (R60, R64, R178, R278). -/
def State.threadEvents (s : State) : List Instr :=
  (s.threads.filterMap fun (k, t) => if t.status == .ready && t.dueBefore.isSome then some (.trapEntry k) else none) ++
  (s.groups.filterMap fun (g, x) => if !x.ended && x.count == 64 then some (.runImplicitEnd g) else none) ++
  (s.groups.filterMap fun (g, x) => if x.ended && decide (16 ≤ x.runs) then some (.schedulerYield g) else none) ++
  (s.threads.flatMap fun (k, t) => t.pend.map fun p => .classVResultWrite k p.order)

/-- Operations at homes, bank units, rings and engines (R148, R151, R157, R254, R258). -/
def State.unitEvents (s : State) : List Instr :=
  (List.range s.homeQ.length).map .homeOperationExecute ++
  (List.range s.bankQ.length).map .bankOperationExecute ++
  (List.range s.ringQ.length).map .ringOpApply ++
  (s.blocks.flatMap fun (b, x) =>
    (if x.matQ.isEmpty then [] else [.matrixCommandRun b]) ++
      x.copyQ.flatMap fun c => .copyCommandRun b c.n :: c.uncredited.map fun (g, _) => .copyPieceCredit b c.n g)

/-- Accord, state pages and the Sillage sequencers (R236, R354, R355, R374, R380). -/
def State.memoryEvents (s : State) : List Instr :=
  (s.accordQ.map fun o => .accordCoordinatorServe o.set o.line) ++
  (List.range s.copyReqs.length).map .sharedPageCopy ++
  (s.sillage.flatMap fun (c, g) => g.samples.flatMap fun (i, x) =>
    if x.state == 1 then [.sillageStage c i, .sillageStepEnd c i] else []) ++
  (s.sets.flatMap fun (n, e) =>
    if (List.range 32).any fun m => bit e (29 + m) then (s.accordLines n).map fun l => .accordScrubVisit n l else [])

/-- Replayable records that wait for an outcome: die and number (R223). -/
def State.openRecords (s : State) : List (Nat × Nat) :=
  (s.threads.filterMap fun (_, t) => match t.status with | .parked d n => some (d, n) | _ => none) ++
  (s.blocks.flatMap fun (_, x) => x.copyQ.filterMap fun c => c.stalled) ++
  (s.txs.filterMap fun (_, x) => x.stalled) ++
  (s.sillage.flatMap fun (_, g) => g.samples.filterMap fun (_, x) => x.stalled)

/-- Firmware makes the page of a record resident, or refuses the replay where it has no frame for it (R223). -/
def State.recordOutcome (s : State) (die n : Nat) : Instr :=
  let ok := match s.pendingRec die n with
    | some r => (s.walkBad (field r 0x10 2) (field r 0 8)).isSome || (s.makeResident (field r 0x10 2) (field r 0 8)).isSome
    | none => true
  .faultOutcomeWrite die n (if ok then 1 else 2)

/-- Firmware's work for threads and queues (R169, R222, R223, R282, R337), and a mailbox command that is still served. -/
def State.firmwareEvents (s : State) : List Instr :=
  (s.openRecords.map fun (d, n) => s.recordOutcome d n) ++
  (s.faultQ.map fun (d, q) => .faultOutcomeWrite d q.append 1) ++
  (s.threads.filterMap fun (k, t) => match t.status with
    | .unrecorded _ _ => some (.faultRecordDeferred k)
    | .waiting (.sysc _ _ _) _ => some (.syscAnswer k)
    | _ => none) ++
  (if s.host.stat.getLsbD 1 then [mbxEvent s.mbxCode.1 s.mbxCode.2 s.host.served] else []) ++
  (s.queues.map fun (q, x) => if x.collective then .collectiveStartAccept q 0 [] none else .launchQueueWrite q 0 [])

/-- Cores on which a task may be placed: those of its own queue, or for a task without one the first that fit, or where none fits a
core that could hold it once it is free (R174). -/
def State.taskCores (s : State) (t : Task) : List Nat :=
  if t.unassigned then
    match (List.range 16).findSome? (s.fitIn t) with
    | some l => l
    | none => match (List.range 16).find? (fun cl => s.clusterCould cl t.waves t.blocks) with
      | some cl => (((List.range 48).map fun i => 48 * cl + i).filter fun c => s.coreCould c t.waves).take 1
      | none => []
  else (s.fitIn t (clusterOf t.core)).getD []

/-- Placement and the ends of phases, launches and pre-emptions (R171, R174, R182, R189, R214, R287, R290, R390). -/
def State.taskEvents (s : State) : List Instr :=
  (s.ctxs.flatMap fun (c, x) => match x.state with
    | .running => [.phaseEnd c]
    | .stopping => [.contextEvictable c]
    | .out => if s.host.stat.getLsbD 1 then []
        else ((List.range 4).filterMap fun j => s.fitIn { x.origin with blocks := (x.blocks.filter (· != 0)).length } (4 * x.die + j)).map
          fun l => .contextResume c l
    | .discarded => [.phaseRelaunch c]
    | .debugStop => []) ++
  (s.threads.filterMap fun (k, t) => match t.stall with | some (.rrel, _) => some (.rrelStallEnd k) | _ => none) ++
  (s.launches.filterMap fun (l, x) => if x.open_ = 0 then some (.launchComplete l) else none) ++
  ((s.tasks.filter fun (k, t) => (t.unassigned || t.blocks != 1) && s.gangTurn k t).map fun (k, t) => .gangPlacement k (s.taskCores t)) ++
  ((dedup (s.tasks.filterMap fun (_, t) => if !t.unassigned && t.blocks == 1 then some t.core else none)).map .taskPlacement)

/-- Populations, collectives and test kernels (R309, R319, R336, R343, R393). -/
def State.groupEvents (s : State) : List Instr :=
  (s.pops.map fun (h, _) => .barrierEpisodeEnd h []) ++
  ((dedup (s.pops.map fun (_, p) => p.asid)).map .memoryPressureDrop) ++
  (s.colls.flatMap fun (i, c) => match Tab.find s.scheds c.handle with
    | none => []
    | some x => (x.sched.ops.zipIdx).flatMap fun (o, n) =>
      match o.kind with
      | .send _ => [.scheduleSend i n]
      | .recv _ _ => [.stepTimerExpiry i n]
      | .reduce slot => [.scheduleReduce i n slot]
      | .copy => [.scheduleCopy i n]
      | .gate _ => [.scheduleGate i n]
      | .signal => [.scheduleSignal i n]) ++
  (s.colls.map fun (i, _) => .reservationRelease i) ++
  (s.tests.filterMap fun r => if r.slot.isSome then some (.testKernelEnd r.core r.image r.first.isNone (r.core + 1)) else none)

/-- Time-outs (R123, R162, R198, R213, R317, R333); each looks at the clock. -/
def State.timeoutEvents (s : State) : List Instr :=
  (s.waves.map fun (w, _) => .convergentTimeout w) ++
  (s.threads.flatMap fun (k, t) => match t.status, t.stall with
    | .waiting (.join _ _) _, _ => [.joinTimeout k]
    | .waiting (.racq _ _) _, _ => [.registerAcquireTimeout k]
    | .waiting _ _, _ => [.barrierTimeout k]
    | _, some (.wcnt _, _) => [.counterWaitTimeout k]
    | _, _ => []) ++
  (s.pops.map fun (h, _) => .cutDeadline h)

/-- The balancing of ready queues (R190, R191): a core steals only what it could place. -/
def State.balanceEvents (s : State) : List Instr :=
  if s.tasks.isEmpty then []
  else if s.levelled then
    (List.range 768).filterMap fun c =>
      if s.tasks.any fun (_, t) => t.blocks == 1 && !t.unassigned && !t.pinned && t.core != c && s.coresFit t [c] then some (.taskSteal c)
      else none
  else (List.range 16).map .neighbourBalance

/-- The state that an event leads to, where it changes anything. -/
def State.changed (s : State) (ex : Exec) (i : Instr) : Option State :=
  match ex i s with
  | .next t => if t = s then none else some t
  | _ => none

/-- The first event that changes anything. -/
def State.firstChange (s : State) (ex : Exec) (l : List Instr) : Option State := l.findSome? (s.changed ex)

/-- A put or get goes on (R331, R332). -/
def State.runTxs (s : State) : Option State :=
  s.txs.findSome? fun (i, x) =>
    if !x.stalled.isSome && (!x.sent || x.data.isSome || x.fault.isSome) then (let t := s.txRun i; if t = s then none else some t) else none

/-- Threads that have arrived at a `racq` in a group that ended make their request (R213). -/
def State.settleRacqs (s : State) : Option State := if s.racqLate.isEmpty then none else some (s.racqTogether s.racqLate)

/-- A list from its `n`-th element on, and then from its start. -/
def fromNth {α : Type} (n : Nat) (l : List α) : List α := l.drop (n % l.length) ++ l.take (n % l.length)

/-- An Accord read that waits for a majority is answered (R373, R376, R377). -/
def State.readAnswers (s : State) : Option State := (s.accordReads.find? s.readReady).map s.serveRead

/-- What the module does by itself, sort by sort. -/
def State.ownEvents (ex : Exec) : List (State → Option State) :=
  [State.settleRacqs, fun s => s.firstChange ex (fromNth (s.clock / 64) s.threadEvents), fun s => s.firstChange ex (fromNth (s.clock / 64) s.unitEvents),
   fun s => s.firstChange ex s.memoryEvents, State.readAnswers, State.tellStop, State.runTxs, State.retryPuts, State.teardowns,
   fun s => s.firstChange ex s.firmwareEvents,
   fun s => s.firstChange ex s.taskEvents, fun s => s.firstChange ex s.groupEvents, fun s => s.firstChange ex s.timeoutEvents,
   fun s => s.firstChange ex s.balanceEvents]

/-- The next event of the module by itself: the sorts take turns at coming first, so that none waits for ever behind another. -/
def State.ownEvent (s : State) (ex : Exec) : Option State :=
  (fromNth (s.clock / 4) (State.ownEvents ex)).findSome? fun f => f s

/-- A stalled group that the scheduler lets issue goes on with its run: its stall is over, so that it is ready (R65, R178). -/
def State.wouldResume (s : State) (ex : Exec) (g : Nat) : Bool :=
  match s.groupThread g, s.issueTurn ex g with
  | some (k, _), .next t => (match Tab.find t.threads k with | some y => y.stall.isNone | none => true)
  | _, _ => false

/-- For each partition whose groups have all ended or stall, a run of the group that the scheduler takes (R178); a stalled group that comes
first and whose stall is over goes on before it. -/
def State.starters (s : State) (ex : Exec) : List Instr :=
  let parts := dedup ((s.threads.filter fun (k, t) => s.mayStart k t).map fun (k, _) => s.partOf k)
  parts.filterMap fun p =>
    if s.busyPart (p / 4) (p % 4) || (s.issuers true).any (fun (k, g) => 4 * g.core + g.part == p && s.wouldResume ex k) then none
    else (s.oldest (s.candidates (p / 4) (p % 4))).map fun (k, _) => .issueGroupForm (p / 4) (p % 4) k

/-- A turn of a group, if there is one to take. -/
def State.groupTurn (s : State) (ex : Exec) (g : Option Nat) : Option Out := g.map fun g => s.issueTurn ex g

/-- A change of state as an outcome. -/
def State.eventTurn (t : Option State) : Option Out := t.map .next

/-- The turn that comes where the agenda names none: the boot sequence first; then groups and events take turns, so that each sort goes
on whatever the others do.  Where no thread has anything to issue, the test kernels use the slot (R393). -/
def State.autoTurn (s : State) (ex : Exec) : Out :=
  if s.host.boot = 0 then ex (.moduleReset s.bootIn) s
  else if let some t := s.bootNext then .next t
  else
    let issue (_ : Unit) := s.groupTurn ex s.runnable
    let retry (_ : Unit) := s.idle.groupTurn ex s.retrying
    let event (_ : Unit) := State.eventTurn (s.ownEvent ex)
    let start (_ : Unit) := State.eventTurn (s.firstChange ex (s.starters ex))
    let r : Option Out := match s.clock % 4 with
      | 0 => issue () <|> event () <|> start () <|> retry ()
      | 1 => event () <|> start () <|> issue () <|> retry ()
      | 2 => start () <|> retry () <|> issue () <|> event ()
      | _ => event () <|> issue () <|> start () <|> retry ()
    r.getD (.next s.idle)

/-- One turn: the agenda's first, or the one that comes by itself.  An instruction word is no event: the agenda cannot name one. -/
def State.turn (s : State) (ex : Exec) : Out :=
  let s := { s with clock := s.clock + 1 }
  match s.agenda with
  | [] => s.autoTurn ex
  | .tick n :: r => .next { s with agenda := r, clock := s.clock + n }
  | .upset c corrected :: r => .next (State.eccError { s with agenda := r } c corrected)
  | .event i :: r => if i.isWord then .next { s with agenda := r } else ex i { s with agenda := r }
  | .issue g :: r => State.issueTurn { s with agenda := r } ex g

/-! ## A module that is ready to run one instruction -/

/-- A kernel header whose block may use every instruction: all roles, all header flags but RELAUNCH, the whole register file, a handler. -/
def probeHeader : Header :=
  { relaunch := false, migratable := false, accord := true, pop := true, phased := true, base := 128, max := 512, scratch := 65536,
    carry := 0, waves := 1, timeout := 10000, trapEn := 0, handler := 0x1000, roles := 7 }

/-- An address space with room for the context. -/
def probeAsid : Asid :=
  { live := true, key := 0, closing := false, keyGen := 0, root := 0x20_0000, limit := 2 ^ 40, used := 0, ctxPool := 2 ^ 30, ctxUsed := 0, statePool := 2 ^ 30,
    stateUsed := 0, relaunchPool := 2 ^ 30, launches := 1, banks := [], bankN := [], bankDone := [], portN := [], portDone := [],
    msgQueue := none, produced := 0, debug := false, collective := none }

/-- A launch of one block of one thread. -/
def probeLaunch : Launch :=
  { asid := 1, number := 1, hdr := 0x80_0000_0000, args := 0, completion := 0, value := 0, extents := [1, 1, 1, 1, 1, 1],
    widths := [0, 0, 0, 0, 0, 0], b := 0, g := 0, priority := 0, deadline := 0, die := 0, open_ := 1, killed := false, population := none, quiet := false }

/-- The task of that launch. -/
def probeTask : Task :=
  { launch := 1, header := probeHeader, hdr := 0x80_0000_0000, kind := .gang 0, blocks := 1, pinned := false, core := 0, queued := 0,
    unassigned := false }

/-- The context that runs it. -/
def probeCtx : Ctx :=
  { asid := 1, launch := 1, header := probeHeader, hdrAddr := 0x80_0000_0000, die := 0, cluster := 0, blocks := [1], gbars := [],
    image := BitVec.ofNat 64 (imageVa 1), imageBytes := [], state := .running, origin := probeTask, poisoned := 0, kept := [],
    noticed := false, held := false, stopFor := none, ran := [0] }

/-- Its block. -/
def probeBlock : Block := newBlock 1 { gidx := 0, workId := 0, threads := [(0, [])], pc := 0x80_0000_0040, waves := 1 } 0

/-- Its wave: the allocation is the header's maximum. -/
def probeWave : Wave := { newWave probeHeader 0 0 with alloc := 512 }

/-- The issue group of its only thread. -/
def probeGroup : Group :=
  { core := 0, part := 0, members := [1024], todo := [1024], count := 0, issue := 0, began := 0, allocs := [], closing := false, runs := 0, turn := 0, ended := false }

/-- The page tables of the address space: one executable and readable page at the code address, in the frame at PA 0x50_0000. -/
def probeTables (m : List Host.Cell) : List Host.Cell :=
  let put (m : List Host.Cell) (a x : Nat) : List Host.Cell := Store.writes (w := 8) m a (natBytes 8 x)
  put (put (put (put m (0x20_0000 + 8) 0x40_0001) 0x40_0000 0x40_1001) 0x40_1000 0x40_2001) 0x40_2000 0x50_032f

/-- The module in which the next turn is the issue of an instruction whose bytes are given: a launch of one thread whose page tables map
its code, and the agenda names its group first. -/
def State.placed (s : State) (code : List Byte) : State :=
  { s with
    agenda := [.issue 1], ticket := max s.ticket 4096, cur := 1024,
    threads := Tab.put s.threads 1024 (newThread 0x80_0000_0040 [] 0 s.clock),
    waves := Tab.put s.waves 32 probeWave, blocks := Tab.put s.blocks 1 probeBlock, ctxs := Tab.put s.ctxs 1 probeCtx,
    groups := [(1, probeGroup)], launches := Tab.put s.launches 1 probeLaunch, asids := Tab.put s.asids 1 probeAsid,
    mem := Store.writes (w := 8) (probeTables s.mem) 0x50_0040 code, poison := [], badWords := [], fenced := [],
    tlb := s.tlb.filter fun t => t.asid != 1, queues := [],
    host := { s.host with boot := bootStatus 0 0xf false true true } }

end Sys2Proof.Machine
end

