-- ==== Sys2Proof/Machine/Step.lean ====
section
/-!
DEFINITION. The step: the next turn of the module, an instruction of one thread or one event.
-/
namespace Sys2Proof.Machine

/-- The machine's step: the turn that the agenda names first, or the one that comes by itself (log 1). -/
def step (s : State) : Host.Outcome State Fault Refusal := s.turn exec

/-- The state in which the next step fetches and runs the instruction whose bits are `w`, numbered as the opcode table numbers them; it
stands for the launch that brings a program to run. -/
def State.withFetchWord (s : State) (nbits w : Nat) : State := s.placed (tableBytes nbits w)

end Sys2Proof.Machine
end

