-- ==== Sys2Proof/Safety.lean ====
section
/-!
DEFINITION. The terms in which claims about the machine are stated: runs that go on, the canonical form that every step keeps,
when the executing thread's instruction has its own effect, and what an instruction leaves as it was.
-/
namespace Sys2Proof.Machine

/-! ## Runs -/

/-- `n` steps. -/
def runs : Nat → State → Out
  | 0, s => .next s
  | n + 1, s =>
    match step s with
    | .next t => runs n t
    | o => o

/-- A run from a state never stops with a fault or a refusal. -/
def State.safe (s : State) : Prop := ∀ n, ∃ t, runs n s = .next t

/-! ## Canonical form -/

/-- The sparse arrays over the module's address spaces are in canonical form: global memory, bank memory, and the access-control, Accord
set and security version tables; threads and L1 lines are listed once each, in the order of their keys. -/
structure State.Canonical (s : State) : Prop where
  mem : Memory.wf s.mem = true
  bank : Store.wf s.bank = true
  access : Store.wf s.access = true
  sets : Store.wf s.sets = true
  fused : Store.wf s.fused = true
  threads : Tab.rising s.threads = true
  l1 : Tab.rising s.l1 = true

/-! ## When an instruction has its own effect -/

/-- Thread `s.cur`, whose record is `t`, executes an instruction that requires `q` and none of the checks that come before the
instruction's own effect finds anything: it is ready, none of its operations on their way meets poison (R382), no trap is due (R411),
and the checks of R67 pass: the instruction is legal, its wave holds the role, every operand field is legal (R48, R51 to R53), no field
names a register of a token pair that is pending or faulted (R63, R134), no field names a register that a class V instruction of the
run writes (R63), no Accord operation has to be waited for (R248, R263), and no register that it reads is poisoned (R382). -/
structure Issues (s : State) (t : Thread) (q : Req) : Prop where
  runs : s.runner = some t
  calm : s.doomed s.cur = false
  due : t.dueNow = none
  legal : q.illegal = false
  role : q.role &&& ~~~(s.wave s.cur).roles = 0
  operands : ∀ f ∈ q.flds, f.legal t.wb.toNat (s.allocAt s.cur) = true
  tokens : ∀ f ∈ q.flds, ∀ r ∈ f.regs t.wb.toNat, tokenOf t.toks r = none
  hazards : ∀ f ∈ q.flds, ∀ r ∈ f.regs t.wb.toNat, r ∉ t.runV
  accord : s.accordHeld s.cur q = false
  sound : t.readsBad (s.wave s.cur) q = false

/-- The encoding of an instruction has an opcode, and an f field, of a table of the spec. -/
def Coded (i : Instr) (op f : Nat) : Prop := ∃ (w : Word) (l : List Word), encode i = w :: l ∧ w.op.toNat = op ∧ w.ff.toNat = f

/-! ## What is left as it was -/

/-- A thread but for what the end of its group's run gives it. -/
def Thread.lasting (t : Thread) : Thread := { t with runV := [], readyAt := 0 }

/-- Every other thread is as it was, but for what the end of a run gives it. -/
def OthersKept (s s' : State) (k : Nat) : Prop :=
  ∀ j, j ≠ k → (Tab.find s'.threads j).map Thread.lasting = (Tab.find s.threads j).map Thread.lasting

/-- Nothing of the state but threads, issue groups and the counter of issues differs. -/
def OnlyThreads (s s' : State) : Prop :=
  s' = { s with threads := s'.threads, groups := s'.groups, ticket := s'.ticket }

/-- Every byte of memory, at its home, reads as before: global memory, scratchpads and bank memory. -/
def BytesKept (s s' : State) : Prop := ∀ (p : Place) (n : Nat), s'.readPlace p n = s.readPlace p n

/-- The v registers of `ds` hold the values of `vs`, in order, and every other v register is as it was. -/
def Wrote (t u : Thread) (ds : List RegId) (vs : List Word) : Prop :=
  (∀ (i n : Nat), ds[i]? = some (.v n) → vs[i]? = some (Store.read u.regs n)) ∧
    ∀ n, .v n ∉ ds → Store.read u.regs n = Store.read t.regs n

/-- The wave's status register after flags were raised (R40, R41). -/
def raised (s : State) (k : Nat) (flags : Word) : Tab Wave :=
  if flags = 0 then s.waves else Tab.upd s.waves (waveKey k) fun w => { w with status := w.status ||| (flags &&& statusBits) }

/-- An instruction of class F of thread `s.cur`, whose record is `t`, completes: its destinations `ds` hold `vs`, its flags are raised,
the thread goes on at `pc`, and nothing else changes: no other register, no other thread's, no other status bit, no byte of memory. -/
def CompletesF (s : State) (t : Thread) (o : Out) (ds : List RegId) (vs : List Word) (flags : Word) (pc : Pair) : Prop :=
  ∃ (s' : State) (u : Thread), o = .next s' ∧ Tab.find s'.threads s.cur = some u ∧ Wrote t u ds vs ∧
    u.lasting = { t with regs := u.regs, bad := t.bad.filter (fun n => !ds.contains (.v n)), pc := pc, stall := none, order := t.order + 1, due := u.due }.lasting ∧
    u.due = addDue t.due (s.fpDue s.cur t flags t.pc t.order) ∧
    OnlyThreads { s with waves := raised s s.cur flags } s' ∧ OthersKept s s' s.cur ∧ BytesKept s s'

/-- The result that is outstanding after the issue of a class V instruction (R64). -/
def outstanding (t : Thread) (ds : List RegId) (vals : Option (List Word)) (flags : Word) (traps : Bool) (fault : Option TrapInfo) :
    List Pend :=
  if ds.isEmpty && flags == 0 && fault.isNone && vals.isSome then t.pend
  else t.pend ++ [{ order := t.order, dests := ds, vals := vals, flags := flags, traps := traps, fault := fault, pc := t.pc }]

/-- Thread `k` of a state, whose record was `t`, has issued a class V instruction: it goes on at `pc` with the result outstanding, and
only it and its group have changed. -/
def IssuedV (s : State) (k : Nat) (t : Thread) (s' : State) (ds : List RegId) (vals : Option (List Word)) (flags : Word) (traps : Bool)
    (fault : Option TrapInfo) (pc : Pair) : Prop :=
  ∃ u : Thread, Tab.find s'.threads k = some u ∧
    u.lasting = { t with pend := outstanding t ds vals flags traps fault, pc := pc, stall := none, order := t.order + 1 }.lasting ∧
    OnlyThreads s s' ∧ OthersKept s s' k ∧ BytesKept s s'

/-- A class V instruction of thread `s.cur` that touches nothing but its thread. -/
def CompletesV (s : State) (t : Thread) (o : Out) (ds : List RegId) (vals : Option (List Word)) (flags : Word) (traps : Bool)
    (pc : Pair) : Prop :=
  ∃ s' : State, o = .next s' ∧ IssuedV s s.cur t s' ds vals flags traps none pc

/-! ## Exact values -/

/-- A finite FP32 value in units of 2^-149, of which every finite one is a multiple (R13). -/
def fpUnits (x : Word) : Int :=
  match fp32 x with
  | .fin s m e => (if s then -1 else 1) * ((m * 2 ^ (e + 149).toNat : Nat) : Int)
  | _ => 0

/-- FP32 value `r` is the exact value `n * 2^-298` rounded in a mode among the finite FP32 values (R13). -/
def RoundsTo (f : Rnd) (n : Int) (r : Word) : Prop :=
  let at_ := fun (x : Word) => fpUnits x * 2 ^ 149
  let below := at_ r ≤ n ∧ ∀ x, (fp32 x).isFin = true → at_ x ≤ n → at_ x ≤ at_ r
  let above := n ≤ at_ r ∧ ∀ x, (fp32 x).isFin = true → n ≤ at_ x → at_ r ≤ at_ x
  (fp32 r).isFin = true ∧
    match f with
    | .rd => below
    | .ru => above
    | .rz => if 0 ≤ n then below else above
    | .rn => ∀ x, (fp32 x).isFin = true → (n - at_ r).natAbs ≤ (n - at_ x).natAbs ∧
        ((n - at_ r).natAbs = (n - at_ x).natAbs → at_ x ≠ at_ r → r.getLsbD 0 = false)

/-! ## Memory as threads see it -/

/-- No home or bank operation of a thread is on its way. -/
def State.quiet (s : State) (k : Nat) : Prop := (∀ h ∈ s.homeQ, h.thread ≠ k) ∧ ∀ h ∈ s.bankQ, h.thread ≠ k

/-- The byte of global memory that a thread of a core sees at a physical address: its L1's where it holds the line. -/
def State.sees (s : State) (core asid pa : Nat) : List Byte := (s.l1Read core asid pa 1).2

/-- A thread has gone on behind its instruction with nothing outstanding and no register changed. -/
def WentOn (t : Thread) (s' : State) (k : Nat) (pc : Pair) : Prop :=
  ∃ u : Thread, Tab.find s'.threads k = some u ∧
    u.lasting = { t with pc := pc, stall := none, order := t.order + 1 }.lasting

/-- Thread `k`, whose record was `t`, waits at its instruction; it and its group alone have changed. -/
def WaitsAt (s s' : State) (k : Nat) (t : Thread) (w : Wait) (lits : Nat) : Prop :=
  ∃ u : Thread, Tab.find s'.threads k = some u ∧
    u.lasting = { t with status := .waiting w lits, since := u.since, stall := none }.lasting ∧
    OnlyThreads s s' ∧ OthersKept s s' k ∧ BytesKept s s'

/-- A wait that a context stop or a pre-emption withdraws (R283, R286) has not begun: the thread is ready at its instruction. -/
def LeftAt (s s' : State) (k : Nat) (t : Thread) : Prop :=
  ∃ u : Thread, Tab.find s'.threads k = some u ∧ u.status = .ready ∧ u.pc = t.pc ∧ u.regs = t.regs ∧ BytesKept s s'

/-! ## Collectives -/

/-- Operation `op` of a collective instance can run: the instance `c` of schedule `x` has it, it has not run, and no operation that it
depends on is left (R336). -/
structure OpReady (s : State) (inst op : Nat) (c : Collective) (x : LoadedSched) (o : SchedOp) : Prop where
  inst : Tab.find s.colls inst = some c
  sched : Tab.find s.scheds c.handle = some x
  here : x.sched.ops[op]? = some o
  fresh : op ∉ c.done
  free : Tab.getD c.deps op 0 = 0

/-- Operation `op` of an instance has completed: the instance, which was `c`, is `d`, and each successor depends on one operation less. -/
def OpDone (s' : State) (inst op : Nat) (c d : Collective) (o : SchedOp) : Prop :=
  Tab.find s'.colls inst = some d ∧ d.done = op :: c.done ∧ d.bases = c.bases ∧ d.tag = c.tag ∧ d.completion = c.completion ∧
    d.value = c.value ∧ (∀ n, n ∉ o.succ → Tab.getD d.deps n 0 = Tab.getD c.deps n 0) ∧
    ∀ n, o.succ.count n = 1 → Tab.getD d.deps n 0 = Tab.getD c.deps n 0 - 1

/-- A collective instance `c` has ended with status bits added (R342): it is gone, and where it has neither a trace nor a status word to
write and its completion address is aligned and can be written, the completion value, or its complement after a failure, is there. -/
def Ended (s s' : State) (inst : Nat) (c : Collective) (bits : BitVec 6) : Prop :=
  Tab.find s'.colls inst = none ∧
    (c.record = false → c.status = 0 → c.completion ≠ 0 → c.completion.toNat % 8 = 0 → ∀ (s1 : State) (pa : Nat),
      State.fwReach { s with colls := Tab.del s.colls inst } c.asid c.die c.completion.toNat 8 Need.store = (s1, .ok pa) →
      (∀ q, s1.queueAt q = none) →
      s'.readMem pa 8 = bytesOf 8 (if (c.bits ||| bits).extractLsb' 3 3 = 0 then c.value else ~~~c.value))

/-! ## The mailbox -/

/-- The request buffer holds a request that firmware serves (R406, R407): it is ready and serves no other, the request names command
`code`, its reserved bytes are zero, and its payload is `p`, of the length that the command takes. -/
structure Asks (s : State) (code : Nat) (fields : List (Nat × Nat)) (p : List Byte) : Prop where
  ready : s.isReady = true
  idle : s.host.stat.getLsbD 1 = false
  named : Store.reads s.host.req 0 2 = natBytes 2 code
  reserved : Store.reads s.host.req 2 2 = [0, 0]
  length : Store.reads s.host.req 4 4 = natBytes 4 p.length
  header : Store.reads s.host.req 8 8 = List.replicate 8 0
  payload : Store.reads s.host.req 16 p.length = p
  whole : p.length = fieldsEnd fields
  zeros : reservedZero fields p = true
  short : p.length ≤ 4080

/-- The response to request `seq` with a status and a payload stands, and nothing else of `t` has changed (R406, R407). -/
def Answered (t s' : State) (seq : BitVec 16) (status : Nat) (r : List Byte) : Prop :=
  Store.reads s'.host.resp 0 (16 + r.length) = bytesOf 2 seq ++ natBytes 2 status ++ natBytes 4 r.length ++ List.replicate 8 0 ++ r ∧
    s'.host.stat.extractLsb' 16 16 = seq ∧ s'.host.stat.getLsbD 0 = true ∧ s'.host.stat.getLsbD 1 = false ∧
    s'.host.stat.getLsbD 2 = t.host.stat.getLsbD 2 ∧
    s'.host.msix = (if t.host.ien.getLsbD 0 then 0 :: t.host.msix else t.host.msix) ∧
    ∃ resp stat msix, s' = { t with host := { t.host with resp := resp, stat := stat, msix := msix } }

/-- A command is done: it gives payload `r`, and its effects are those that lead to `t`. -/
def Serves (o : Out) (seq : BitVec 16) (t : State) (r : List Byte) : Prop := ∃ s', o = .next s' ∧ Answered t s' seq 0 r

/-- A command completes with a status that is not 0, and has no effect (R406). -/
def Rejects (s : State) (o : Out) (seq : BitVec 16) (status : Nat) : Prop := ∃ s', o = .next s' ∧ Answered s s' seq status []

end Sys2Proof.Machine
end

