-- ==== Sys2Proof/Certificates/Slice0/Obligations.lean ====
section
/-!
DEFINITION. The statements for the provers.  Every statement is about all states that meet its hypotheses, reached by a run or not.
-/
open Sys2Proof Sys2Proof.Machine

/-! ## Encodings -/

/-- Every well-formed instruction word, with every operand at every value its fields admit: the decoder reads back from the bytes of its
encoding exactly that instruction, whatever bytes follow it (R43 to R51). -/
def Obligations.DecodeEncode : Prop :=
  ∀ (i : Instr) (rest : List Byte), i.isWord = true → i.wf = true → decode (wordsBytes (encode i) ++ rest) = .ok (i, rest)

/-- Words written out from the encodings of the spec, one or more of each block of 16 opcodes (Table 3-3). -/
def Obligations.DecodeWords : Prop :=
  decodeTableWord 32 0x1E03FFFA = some (.movi (.v 0) (-3) false) ∧
  decodeTableWord 32 0x02080000 = some (.iadd (.v 2) (.v 0) (.v 0) false) ∧
  decodeTableWord 32 0x020C0801 = some (.iadd (.v 3) (.v 1) (.v 0) true) ∧
  decodeTableWord 32 0x202C5990 = some (.fadd (.v 11) (.v 11) (.v 25) .rn false) ∧
  decodeTableWord 32 0x4E6857C5 = some (.fwred (.v 26) (.v 10) .max true) ∧
  decodeTableWord 32 0x6A3020E0 = some (.cas (.v 12) (.v 4) (.v 14) false false) ∧
  decodeTableWord 32 0xA2202060 = some (.cpy (.v 8) (.v 4) (.v 6) false) ∧
  decode (wordsBytes [0xC1F3FFC0, 0xFFFFFFFF]) = .ok (.pbind (.lit32 0xFFFFFFFF) .z false, []) ∧
  decode (wordsBytes [0xE1F3FFC2, 0x00000010]) = .ok (.winb (.lit32 16) true false, []) ∧
  decode (wordsBytes [0xE223FFC1, 0x000000C0]) = .ok (.racq (.v 8) (.lit32 0xC0) false, []) ∧
  decode (wordsBytes [0x600427F8, 8]) = .ok (.ld (.v 1) (.v 4) (.lit32 8) .b32 false, []) ∧
  decodeTableWord 32 0x8FF3E7C1 = some (.land true) ∧
  decodeTableWord 32 0x8FF3E7C0 = some (.land false)

/-- An opcode of Table 3-3 that no instruction has decodes to nothing, whatever the other fields hold. -/
def Claim.ReservedOpcodes : Prop :=
  ∀ (w : Word) (l : List Word),
    w.op.toNat ∈ [0x2f, 0x3e, 0x3f, 0x5c, 0x5d, 0x5e, 0x5f, 0x6f, 0x78, 0x79, 0x7a, 0x7b, 0x7c, 0x7d, 0x7e, 0x7f] →
      ∃ r, decodeWord w l = .error r

/-! ## Every step -/

/-- Every step of the machine, an instruction or an event of the module, its firmware or its surroundings, keeps global memory, bank
memory and the hardware tables in canonical form, so that equal memories are equal data.
The model's own here: the canonical form is the form in which this model keeps its tables (log 14). -/
def Obligations.StepKeepsCanonical : Prop := ∀ s s' : State, s.Canonical → step s = .next s' → s'.Canonical

/-- The state after reset is canonical.
The model's own here: the canonical form is the form in which this model keeps its tables (log 14). -/
def Obligations.ResetCanonical : Prop := State.reset.Canonical

/-- No step of the machine ends in a fault or a refusal, from any state: whatever the agenda names or comes by
itself, the machine goes on.
The model's own here: that a step acts for a thread that can execute is log 1, and that an event which cannot happen changes nothing is log 11. -/
def Obligations.StepNeverStops : Prop := ∀ s : State, ∃ s', step s = .next s'

/-- Where the agenda names an issue group that the scheduler lets issue (R178) and whose thread has no trap due, the step is `exec` of the
instruction that the words at the thread's PC decode to, in the state that the fetch leaves, with that thread as the executing one, its
group as the current one of its partition and the clock advanced (R43, R44).
The model's own here: the agenda is log 1 and the clock log 12. -/
def Obligations.StepRunsDecoded : Prop :=
  ∀ (s s' : State) (g k : Nat) (r : List Turn) (t : Thread) (x : Group) (i : Instr),
    s.agenda = .issue g :: r →
    s.groupThread g = some (k, t) → Tab.find s.groups g = some x → t.dueBefore = none →
    let s1 : State := { s with clock := s.clock + 1, agenda := r }
    s1.mayIssue g x = true →
    State.fetch { s1.takeTurn g with cur := k } k t.pc.toNat = (s', .ok (.ok i)) →
      step s = exec i s'

/-- Words that decode to no instruction raise the illegal-instruction trap at the thread's PC, and the word has no effect (R56, R57,
Table 15-1).
The model's own here: the agenda is log 1. -/
def Claim.UndecodableTraps : Prop :=
  ∀ (s s' : State) (g k : Nat) (r : List Turn) (t : Thread) (x : Group) (e : Reject),
    s.agenda = .issue g :: r →
    s.groupThread g = some (k, t) → Tab.find s.groups g = some x → t.dueBefore = none →
    let s1 : State := { s with clock := s.clock + 1, agenda := r }
    s1.mayIssue g x = true →
    State.fetch { s1.takeTurn g with cur := k } k t.pc.toNat = (s', .ok (.error e)) →
      step s = .next (s'.trapAt k t { cause := 0x01, addr := 0, detail := 0, kind := 0, size := 0 })

/-- A fetch reads words at the PC and behind it, one after another.  The fetch of a word changes nothing, or the 8 bytes in memory of the leaf
entry that the walk from the root of the thread's own ASID finds for its address, where A becomes 1, and the cached translations: no
thread, register, block or status, and no other byte of memory (R44, R237).
The model's own here: cached translations are log 19. -/
def Claim.FetchKeeps : Prop :=
  (∀ (s : State) (k pc : Nat), ∃ n, n ≤ 5 ∧
    (s.fetch k pc).1 = (List.range n).foldl (fun (u : State) i => (u.fetchWord k (pc + 4 * i)).1) s) ∧
  ∀ (s : State) (k va : Nat), (s.fetchWord k va).1 = s ∨
    ∃ (x : Asid) (at_ : Nat) (e : BitVec 64) (bits : Nat),
      Tab.find s.asids (s.agent k).asid = some x ∧ x.live = true ∧ s.walkFrom va 3 x.root = .leaf at_ e bits ∧
      let s' := (s.fetchWord k va).1
      s' = { s with mem := s'.mem, tlb := s'.tlb, queues := s'.queues } ∧
      (∀ p, ¬(at_ ≤ p ∧ p < at_ + 8) → Store.read (w := 8) s'.mem p = Store.read (w := 8) s.mem p) ∧
      ((∀ p, at_ ≤ p → p < at_ + 8 → s.queueAt p = none) → s'.queues = s.queues ∧
        ∀ i, i < 8 → Store.read (w := 8) s'.mem (at_ + i) = (e ||| 0x100).extractLsb' (8 * i) 8)

/-! ## The checks at issue, traps and returns -/

/-- The checks of R67 in their order, in the thread that executes and that no trap is due in: an illegal word, a missing role, an illegal
operand field, a pending token, a faulted token, a run hazard, an Accord operation that has to come first (R248, R273), a poisoned
register (R382).  Each but the two waits is a trap at the instruction, or a discard, and the instruction has no effect; a thread that
already waits for the token goes on waiting.
The model's own here: the thread's own lost operation before the checks is log 31. -/
def Obligations.IssueChecks : Prop :=
  ∀ (s : State) (t : Thread) (q : Req) (body : Nat → Thread → State),
    s.runner = some t → s.doomed s.cur = false → t.dueNow = none →
    let regs := q.flds.flatMap fun f => f.regs t.wb.toNat
    let legal := fun (f : Fld) => f.legal t.wb.toNat (s.allocAt s.cur)
    let trap := fun (cause : BitVec 8) (detail : BitVec 32) =>
      s.issue q body = .next (s.trapAt s.cur t { cause := cause, addr := 0, detail := detail, kind := 0, size := 0 })
    (t.onToken q = true → s.issue q body = .next (s.stallAt s.cur t .token (regsOf q.flds t))) ∧
    (t.onToken q = false →
      (q.illegal = true → trap 0x01 0) ∧
      (q.illegal = false →
        (q.role &&& ~~~(s.wave s.cur).roles ≠ 0 → trap 0x04 (q.role.zeroExtend 32)) ∧
        (q.role &&& ~~~(s.wave s.cur).roles = 0 →
          (∀ l f r, q.flds = l ++ f :: r → (∀ g ∈ l, legal g = true) → legal f = false → trap 0x02 (BitVec.ofNat 32 f.no)) ∧
          ((∀ f ∈ q.flds, legal f = true) →
            ((∃ r ∈ regs, ∃ n, tokenOf t.toks r = some (n, .pending)) → s.issue q body = .next (s.stallAt s.cur t .token (regsOf q.flds t))) ∧
            ((∀ r ∈ regs, ∀ n, tokenOf t.toks r ≠ some (n, .pending)) →
              (∀ l r m n i pc, regs = l ++ r :: m → (∀ x ∈ l, tokenOf t.toks x = none) → tokenOf t.toks r = some (n, .faulted i pc) →
                s.issue q body = .next (s.trapAt s.cur { t with toks := Tab.del t.toks n } i)) ∧
              ((∀ r ∈ regs, tokenOf t.toks r = none) →
                (∀ l n m, regs = l ++ .v n :: m → (∀ x ∈ l, x ∉ t.runV) → .v n ∈ t.runV → trap 0x03 (BitVec.ofNat 32 n)) ∧
                (∀ l n m, regs = l ++ .k n :: m → (∀ x ∈ l, x ∉ t.runV) → .k n ∈ t.runV → trap 0x03 (BitVec.ofNat 32 (0x200 + n))) ∧
                ((∀ r ∈ regs, r ∉ t.runV) →
                  (s.accordHeld s.cur q = true → s.issue q body = .next (s.stallAt s.cur t .accord (regsOf q.flds t))) ∧
                  (s.accordHeld s.cur q = false →
                    (t.readsBad (s.wave s.cur) q = true → s.issue q body = .next (s.consumePoison (s.block (blkOf s.cur)).ctx
                      (s.threadRec s.cur { cause := 0x09, addr := 0, detail := 0x0a, kind := 0, size := 0 } t.pc false))) ∧
                    (t.readsBad (s.wave s.cur) q = false → s.issue q body = .next (body s.cur t))))))))))

/-- Taking a trap where the kernel has a handler and the thread is in none: the thread, alone, saves cause, trap PC, address, detail and
fault PC, sets its in-handler bit, and continues at the handler's address in the kernel's code as a ready thread in a new run
(R276 to R278). -/
def Claim.HandlerEntry : Prop :=
  ∀ (s : State) (k : Nat) (t : Thread) (i : TrapInfo) (pc faultPc : Pair) (ev : Nat),
    Tab.find s.threads k = some t → (s.ctxOf k).header.handler ≠ 0 → t.inHandler = false →
    let s' := s.takeTrap k t i pc faultPc ev
    ∃ u, Tab.find s'.threads k = some u ∧
      u.trap.cause = i.cause ∧ u.trap.pc = pc ∧ u.trap.addr = i.addr ∧ u.trap.detail = i.detail ∧ u.trap.faultPc = faultPc ∧
      u.inHandler = true ∧ u.status = .ready ∧ u.pc = (s.ctxOf k).hdrAddr + (s.ctxOf k).header.handler.signExtend 64 ∧
      u.runV = [] ∧ u.regs = t.regs ∧ u.wb = t.wb ∧ u.toks = t.toks ∧ u.pend = t.pend ∧ u.due = t.due ∧
      u.trap.mask.getLsbD (laneOf k) = true ∧
      s' = { s with threads := s'.threads, groups := s'.groups, ticket := s'.ticket } ∧ BytesKept s s'

/-- A trap in a kernel without a handler, or in a thread that is in its handler, kills the context: no thread, wave or block of it is
left and no further task of its launch is placed; its record, which names cause, address, access, PC and detail (Table 11-2), goes to its die's
fault queue, and, where the event log has room, firmware posts event 2 with the record and the launch's number (R279, Table 23-10). -/
def Claim.TrapKills : Prop :=
  ∀ (s : State) (k : Nat) (t : Thread) (c : Ctx) (i : TrapInfo) (pc faultPc : Pair) (ev : Nat),
    Tab.find s.threads k = some t → Tab.find s.ctxs (s.block (blkOf k)).ctx = some c → blkOf k ∈ c.blocks →
    (c.header.handler = 0 ∨ t.inHandler = true) →
    let s' := s.takeTrap k t i pc faultPc ev
    (∀ j, blkOf j ∈ c.blocks → Tab.find s'.threads j = none) ∧
    (∀ w, w / 32 ∈ c.blocks → Tab.find s'.waves w = none) ∧ (∀ b ∈ c.blocks, Tab.find s'.blocks b = none) ∧
    Tab.find s'.ctxs (s.block (blkOf k)).ctx = none ∧ (∀ x, x ∈ s'.tasks → x.2.launch ≠ c.launch) ∧
    (∀ l, Tab.find s'.launches c.launch = some l → l.killed = true) ∧
    let r := s.threadRec k i pc false
    field r 0 8 = i.addr.toNat ∧ field r 8 8 = pc.toNat ∧ field r 0x10 2 = c.asid % 2 ^ 16 ∧ field r 0x12 1 = i.cause.toNat ∧
    field r 0x18 4 = i.detail.toNat ∧
    (∀ q, Tab.find s.faultQ (s.liveDie c.die) = some q → Tab.getD s.recWait (s.liveDie c.die) [] = [] → q.append - q.consumed < 2 ^ q.k →
      (Tab.find s'.faultQ (s.liveDie c.die)).map FaultQ.append = some (q.append + 1)) ∧
    (∀ l, Tab.find s.launches c.launch = some l → s.host.evPosted.toNat - s.host.evAck.toNat < 256 →
      s'.host.evPosted = s.host.evPosted + 1 ∧
      Store.reads s'.host.log (64 * (s.host.evPosted.toNat % 256)) 64 =
        natBytes 2 2 ++ natBytes 2 c.asid ++ natBytes 4 0 ++ natBytes 8 s.host.evPosted.toNat ++ r ++ bytesOf 4 l.number ++ List.replicate 12 0)

/-- `eret` in a handler, where it is legal: the trap registers and the in-handler bit are cleared and the thread continues at the trap PC; no register and
no memory changes (R281). -/
def Claim.EretReturns : Prop :=
  ∀ (s : State) (t : Thread), Issues s t (Req.any []) → t.inHandler = true →
    ∃ s' u, exec .eret s = .next s' ∧ Tab.find s'.threads s.cur = some u ∧
      u.pc = t.trap.pc ∧ u.inHandler = false ∧ u.trap = TrapRegs.zero ∧ u.regs = t.regs ∧ u.wb = t.wb ∧ u.status = .ready ∧
      OthersKept s s' s.cur ∧ BytesKept s s'

/-- Outside a handler `eret`, `sysr` and `sysw` raise the illegal-instruction trap and have no effect (R59, R280, R281). -/
def Claim.HandlerOnly : Prop :=
  ∀ (s : State) (t : Thread) (d : Dst) (a : Src) (r : SysR) (w : SysW) (m : Bool),
    s.runner = some t → s.doomed s.cur = false → t.dueNow = none → t.stall = none → t.inHandler = false →
    let traps := fun (i : Instr) => exec i s = .next (s.trapAt s.cur t { cause := 0x01, addr := 0, detail := 0, kind := 0, size := 0 })
    traps .eret ∧ traps (.sysr d r m) ∧ traps (.sysw a w m)

/-! ## Integer and lane instructions -/

/-- The 32-bit class F instructions of two sources: each completes with the value of its table entry in d and changes nothing else: no
flag, no other register, no byte of memory (R91 to R93, R100, Table 5-1). -/
def Obligations.IntegerTwoSources : Prop :=
  ∀ (s : State) (t : Thread) (d : Dst) (a b : Src) (m : Bool), Issues s t (Req.any [fd d 1, fa a 1, fb b 1]) →
    let x := a.get32 s s.cur t
    let y := b.get32 s s.cur t
    let gives := fun (i : Instr) (v : Word) =>
      CompletesF s t (exec i s) (d.dests t.wb.toNat 1) [v] 0 (nextPc t.pc (lits2 a b))
    gives (.iadd d a b m) (BitVec.ofNat 32 (x.toNat + y.toNat)) ∧
    gives (.isub d a b m) (BitVec.ofInt 32 (x.toInt - y.toInt)) ∧
    gives (.imul d a b .lo m) (BitVec.ofNat 32 (x.toNat * y.toNat)) ∧
    gives (.imul d a b .hi m) (BitVec.ofInt 32 (x.toInt * y.toInt / 2 ^ 32)) ∧
    gives (.imul d a b .hin m) (BitVec.ofNat 32 (x.toNat * y.toNat / 2 ^ 32)) ∧
    gives (.imnx d a b .smin m) (if y.toInt < x.toInt then y else x) ∧
    gives (.imnx d a b .smax m) (if x.toInt < y.toInt then y else x) ∧
    gives (.imnx d a b .nmin m) (if y.toNat < x.toNat then y else x) ∧
    gives (.imnx d a b .nmax m) (if x.toNat < y.toNat then y else x) ∧
    gives (.and d a b false m) (x &&& y) ∧ gives (.and d a b true m) (x &&& ~~~y) ∧
    gives (.or d a b false m) (x ||| y) ∧ gives (.or d a b true m) (x ||| ~~~y) ∧
    gives (.xor d a b false m) (x ^^^ y) ∧ gives (.xor d a b true m) (x ^^^ ~~~y) ∧
    gives (.shl d a b m) (if y.toNat < 32 then BitVec.ofNat 32 (x.toNat * 2 ^ y.toNat) else 0) ∧
    gives (.shr d a b false m) (if y.toNat < 32 then BitVec.ofNat 32 (x.toNat / 2 ^ y.toNat) else 0) ∧
    gives (.shr d a b true m) (if y.toNat < 32 then BitVec.ofInt 32 (x.toInt / 2 ^ y.toNat)
      else if x.getLsbD 31 then 0xFFFFFFFF else 0) ∧
    (∀ f, gives (.icmp d a b f m) (if (match f with
      | .eq => decide (x = y) | .ne => decide (x ≠ y) | .lt => decide (x.toInt < y.toInt) | .le => decide (x.toInt ≤ y.toInt)
      | .gt => decide (y.toInt < x.toInt) | .ge => decide (y.toInt ≤ x.toInt)
      | .ltn => decide (x.toNat < y.toNat) | .len => decide (x.toNat ≤ y.toNat)) then 1 else 0)) ∧
    Coded (.and d a b false m) 0x06 0 ∧ Coded (.and d a b true m) 0x06 1 ∧ Coded (.or d a b false m) 0x07 0 ∧
    Coded (.or d a b true m) 0x07 1 ∧ Coded (.xor d a b false m) 0x08 0 ∧ Coded (.xor d a b true m) 0x08 1 ∧
    Coded (.shl d a b m) 0x09 0 ∧ Coded (.shr d a b false m) 0x0A 0 ∧ Coded (.shr d a b true m) 0x0A 1

/-- Bit fields (R94): `bfx` extracts, `bfi` inserts into the old d. -/
def Claim.BitFields : Prop :=
  ∀ (s : State) (t : Thread) (d : Dst) (a b : Src) (m : Bool),
    let x := a.get32 s s.cur t
    let pos := (b.get32 s s.cur t).toNat % 32
    let wid := min ((b.get32 s s.cur t).toNat / 256 % 64) (32 - pos)
    let gives := fun (i : Instr) (v : Word) =>
      CompletesF s t (exec i s) (d.dests t.wb.toNat 1) [v] 0 (nextPc t.pc (lits2 a b))
    let f := x.toNat / 2 ^ pos % 2 ^ wid
    (Issues s t (Req.any [fd d 1, fa a 1, fb b 1]) →
      gives (.bfx d a b false m) (BitVec.ofNat 32 f) ∧
      gives (.bfx d a b true m) (if wid = 0 ∨ f < 2 ^ (wid - 1) then BitVec.ofNat 32 f else BitVec.ofInt 32 ((f : Int) - 2 ^ wid))) ∧
    (Issues s t (Req.any [fdr d 1, fa a 1, fb b 1]) →
      ∀ v : Word, (∀ i, i < 32 → v.getLsbD i = if pos ≤ i ∧ i < pos + wid then x.getLsbD (i - pos) else (d.get32 t).getLsbD i) →
        gives (.bfi d a b m) v) ∧
    Coded (.bfx d a b false m) 0x0B 0 ∧ Coded (.bfx d a b true m) 0x0B 1 ∧ Coded (.bfi d a b m) 0x0C 0

/-- The 32-bit class F instructions of one source, `movi` and `nop` (R57, R95, R97, R99). -/
def Claim.OneSource : Prop :=
  ∀ (s : State) (t : Thread) (d : Dst) (a : Src) (i : BitVec 17) (m : Bool),
    (Issues s t (Req.any [fd d 1, fa a 1]) →
      let x := a.get32 s s.cur t
      let gives := fun (i : Instr) (v : Word) =>
        CompletesF s t (exec i s) (d.dests t.wb.toNat 1) [v] 0 (nextPc t.pc (lits1 a))
      gives (.bits d a .popc m) (BitVec.ofNat 32 ((List.range 32).countP fun j => x.getLsbD j)) ∧
      (∀ n, n ≤ 32 → (∀ j, 32 - n ≤ j → j < 32 → x.getLsbD j = false) → (n < 32 → x.getLsbD (31 - n) = true) →
        gives (.bits d a .clz m) (BitVec.ofNat 32 n)) ∧
      (∀ n, n ≤ 32 → (∀ j, j < n → x.getLsbD j = false) → (n < 32 → x.getLsbD n = true) →
        gives (.bits d a .ctz m) (BitVec.ofNat 32 n)) ∧
      (∀ v : Word, (∀ j, j < 32 → v.getLsbD (31 - j) = x.getLsbD j) → gives (.bits d a .brev m) v) ∧
      gives (.iabs d a .abs m) (BitVec.ofNat 32 x.toInt.natAbs) ∧
      gives (.iabs d a .neg m) (BitVec.ofInt 32 (-x.toInt)) ∧
      gives (.iabs d a .sgn m) (if 0 < x.toInt then 1 else if x.toInt = 0 then 0 else 0xFFFFFFFF) ∧
      Coded (.bits d a .popc m) 0x0D 0 ∧ Coded (.bits d a .clz m) 0x0D 1 ∧ Coded (.bits d a .ctz m) 0x0D 2 ∧
      Coded (.bits d a .brev m) 0x0D 3 ∧ Coded (.iabs d a .abs m) 0x2E 0 ∧ Coded (.iabs d a .neg m) 0x2E 1 ∧
      Coded (.iabs d a .sgn m) 0x2E 2) ∧
    (Issues s t (Req.any [fc d 1]) →
      CompletesF s t (exec (.movi d i m) s) (d.dests t.wb.toNat 1) [BitVec.ofInt 32 i.toInt] 0 (nextPc t.pc 0)) ∧
    (Issues s t (Req.any []) → CompletesF s t (exec (.nop m) s) [] [] 0 (nextPc t.pc 0))

/-- `imad` and `add64` (R92, R96): the products and sums modulo 2^32 and 2^64; a pair's low half goes to the lower register. -/
def Obligations.WideArithmetic : Prop :=
  ∀ (s : State) (t : Thread) (d : Dst) (a b : Src) (m : Bool),
    let halves := fun (x : Pair) => [x.extractLsb' 0 32, x.extractLsb' 32 32]
    let k := s.cur
    (Issues s t (Req.any [fdr d 1, fa a 1, fb b 1]) →
      CompletesF s t (exec (.imad d a b .w32 m) s) (d.dests t.wb.toNat 1)
        [BitVec.ofNat 32 ((d.get32 t).toNat + (a.get32 s k t).toNat * (b.get32 s k t).toNat)] 0 (nextPc t.pc (lits2 a b))) ∧
    (Issues s t (Req.any [fdr d 2, fa a 1, fb b 1]) →
      CompletesF s t (exec (.imad d a b .w64 m) s) (d.dests t.wb.toNat 2)
        (halves (BitVec.ofInt 64 ((d.get64 t).toInt + (a.get32 s k t).toInt * (b.get32 s k t).toInt))) 0 (nextPc t.pc (lits2 a b)) ∧
      CompletesF s t (exec (.imad d a b .w64n m) s) (d.dests t.wb.toNat 2)
        (halves (BitVec.ofNat 64 ((d.get64 t).toNat + (a.get32 s k t).toNat * (b.get32 s k t).toNat))) 0 (nextPc t.pc (lits2 a b))) ∧
    (Issues s t (Req.any [fd d 2, fa a 2, fb b 2]) →
      let x := (a.get64 s k t).toNat
      let y := (b.get64 s k t).toNat
      let gives := fun (f : Add64F) (v : Pair) =>
        CompletesF s t (exec (.add64 d a b f m) s) (d.dests t.wb.toNat 2) (halves v) 0 (nextPc t.pc (lits2 a b))
      gives .add (BitVec.ofNat 64 (x + y)) ∧ gives .sub (BitVec.ofInt 64 ((x : Int) - y)) ∧ gives .x4 (BitVec.ofNat 64 (x + y * 4)) ∧
        gives .x8 (BitVec.ofNat 64 (x + y * 8)) ∧ gives .x16 (BitVec.ofNat 64 (x + y * 16)) ∧
        (∀ w : Word, (Src.lit32 w).get64 s k t = w.signExtend 64) ∧
        Coded (.add64 d a b .add m) 0x0E 0 ∧ Coded (.add64 d a b .sub m) 0x0E 1 ∧ Coded (.add64 d a b .x4 m) 0x0E 2 ∧
        Coded (.add64 d a b .x8 m) 0x0E 3 ∧ Coded (.add64 d a b .x16 m) 0x0E 4)

/-- `idiv` (R98), of class V: the quotient rounded toward zero and the remainder with the sign of the dividend, or the values for a zero
divisor; no case traps or sets a flag. -/
def Obligations.IntegerDivision : Prop :=
  ∀ (s : State) (t : Thread) (d : Dst) (a b : Src) (m : Bool), Issues s t (Req.any [fd d 1, fa a 1, fb b 1]) →
    let x := a.get32 s s.cur t
    let y := b.get32 s s.cur t
    let gives := fun (f : IdivF) (v : Word) =>
      CompletesV s t (exec (.idiv d a b f m) s) (d.dests t.wb.toNat 1) (some [v]) 0 false (nextPc t.pc (lits2 a b))
    (y = 0 → gives .sq 0xFFFFFFFF ∧ gives .sr x ∧ gives .nq 0xFFFFFFFF ∧ gives .nr x) ∧
    (y ≠ 0 → gives .sq (BitVec.ofInt 32 (x.toInt.tdiv y.toInt)) ∧ gives .sr (BitVec.ofInt 32 (x.toInt.tmod y.toInt)) ∧
      gives .nq (BitVec.ofNat 32 (x.toNat / y.toNat)) ∧ gives .nr (BitVec.ofNat 32 (x.toNat % y.toNat))) ∧
    Coded (.idiv d a b .sq m) 0x2D 0 ∧ Coded (.idiv d a b .sr m) 0x2D 1 ∧ Coded (.idiv d a b .nq m) 0x2D 2 ∧
    Coded (.idiv d a b .nr m) 0x2D 3

/-- Selects, moves and permutes (R117 to R119). -/
def Obligations.SelectMovePermute : Prop :=
  ∀ (s : State) (t : Thread) (d : Dst) (a b : Src) (m : Bool),
    let k := s.cur
    let halves := fun (x : Pair) => [x.extractLsb' 0 32, x.extractLsb' 32 32]
    (Issues s t (Req.any [fdr d 1, fa a 1, fb b 1]) →
      CompletesF s t (exec (.sel d a b false m) s) (d.dests t.wb.toNat 1) [if d.get32 t = 0 then b.get32 s k t else a.get32 s k t] 0
        (nextPc t.pc (lits2 a b)) ∧
      (∀ v : Word, (∀ j, j < 4 →
          let sel := (d.get32 t).toNat / 16 ^ j % 16
          let x := ((b.get32 s k t ++ a.get32 s k t : Pair).toNat / 256 ^ (sel % 8)) % 256
          v.toNat / 256 ^ j % 256 = if sel < 8 then x else if 128 ≤ x then 255 else 0) →
        CompletesF s t (exec (.prm d a b m) s) (d.dests t.wb.toNat 1) [v] 0 (nextPc t.pc (lits2 a b)))) ∧
    Coded (.sel d a b false m) 0x23 0 ∧ Coded (.sel d a b true m) 0x23 1 ∧ Coded (.prm d a b m) 0x2B 0 ∧
    (Issues s t (Req.any [fdr d 2, fa a 2, fb b 2]) →
      CompletesF s t (exec (.sel d a b true m) s) (d.dests t.wb.toNat 2)
        (halves (if d.get64 t = 0 then b.get64 s k t else a.get64 s k t)) 0 (nextPc t.pc (lits2 a b))) ∧
    (Issues s t (Req.any [fd d 1, fa a 1]) →
      CompletesF s t (exec (.mov d a .w32 m) s) (d.dests t.wb.toNat 1) [a.get32 s k t] 0 (nextPc t.pc (lits1 a))) ∧
    (Issues s t (Req.any [fd d 2, fa a 2]) →
      CompletesF s t (exec (.mov d a .w64 m) s) (d.dests t.wb.toNat 2) (halves (a.get64 s k t)) 0 (nextPc t.pc (lits1 a))) ∧
    (Issues s t (Req.any [fd d 4, fa a 4]) →
      CompletesF s t (exec (.mov d a .w128 m) s) (d.dests t.wb.toNat 4) (a.get128 t) 0 (nextPc t.pc (lits1 a)))

/-! ## Floating point -/

/-- Rounding an exact magnitude `m / 2^n` to an integer in each mode, and when it is inexact (R13). -/
def Claim.RoundingModes : Prop :=
  ∀ (neg : Bool) (m n : Nat),
    let k := fun (r : Rnd) => (cutAt r neg m (-(n : Int)) false 0).1
    (∀ r, (cutAt r neg m (-(n : Int)) false 0).2 = decide (m % 2 ^ n ≠ 0)) ∧
    k .rz = m / 2 ^ n ∧
    k .ru = (if neg then m / 2 ^ n else (m + 2 ^ n - 1) / 2 ^ n) ∧
    k .rd = (if neg then (m + 2 ^ n - 1) / 2 ^ n else m / 2 ^ n) ∧
    2 * k .rn * 2 ^ n ≤ 2 * m + 2 ^ n ∧ 2 * m ≤ 2 * k .rn * 2 ^ n + 2 ^ n ∧
    (2 * m + 2 ^ n = 2 * k .rn * 2 ^ n ∨ 2 * m = 2 * k .rn * 2 ^ n + 2 ^ n → k .rn % 2 = 0)

/-- A value that FP32 can represent, and an infinity, rounds to itself in every mode and raises no flag (R13, R102). -/
def Claim.RoundingExact : Prop :=
  ∀ (r : Rnd) (x : Word), (fp32 x).isNan = false → Fmt.fp32.ofVal r (fp32 x) = ⟨x.toNat, 0⟩

/-- The special cases of sums, products and quotients in every mode: x - x, invalid operations and division by zero (R102). -/
def Obligations.FloatSpecialCases : Prop :=
  ∀ (r : Rnd) (s u : Bool) (m n : Nat) (e g : Int),
    let nan : FOut := ⟨0x7FC00000, flagIV⟩
    let inf := fun (neg : Bool) => if neg then 0xFF800000 else 0x7F800000
    fsub Fmt.fp32 r (.fin s m e) (.fin s m e) = ⟨if r = .rd then 0x80000000 else 0, 0⟩ ∧
    fmul Fmt.fp32 r (.fin s 0 e) (.inf u) = nan ∧ fmul Fmt.fp32 r (.inf s) (.fin u 0 g) = nan ∧
    (s ≠ u → fadd Fmt.fp32 r (.inf s) (.inf u) = nan) ∧ fsub Fmt.fp32 r (.inf s) (.inf s) = nan ∧
    fdiv Fmt.fp32 r (.fin s 0 e) (.fin u 0 g) = nan ∧ fdiv Fmt.fp32 r (.inf s) (.inf u) = nan ∧
    (m ≠ 0 → fdiv Fmt.fp32 r (.fin s m e) (.fin u 0 g) = ⟨inf (s != u), flagDZ⟩) ∧
    ffma Fmt.fp32 r (.fin s 0 e) (.inf u) (.nan false) = nan ∧
    (e + bitlen m > 128 → m ≠ 0 → fscl r (.fin s m e) 0 = ⟨(if s then 0x80000000 else 0) + (match r, s with
      | .rn, _ => 0x7F800000 | .rz, _ => 0x7F7FFFFF | .ru, false => 0x7F800000 | .ru, true => 0x7F7FFFFF
      | .rd, true => 0x7F800000 | .rd, false => 0x7F7FFFFF), flagOF ||| flagNX⟩)

/-- The class F instructions of the floating-point group complete, in a wave of the vector role whose lane meets no glitch, with their
result in d, rounded as f says, and their flags in the wave's status; nothing else changes (R101 to R103, R106 to R111).
The model's own here: glitches are log 6. -/
def Claim.FloatNow : Prop :=
  ∀ (s : State) (t : Thread) (d : Dst) (a b : Src) (f : Rnd) (m : Bool), Tab.find s.glitches (s.partOf s.cur) = none →
    let x := a.get32 s s.cur t
    let y := b.get32 s s.cur t
    let o := d.get32 t
    let gives := fun (lits : Nat) (i : Instr) (r : FOut) =>
      CompletesF s t (exec i s) (d.dests t.wb.toNat 1) [BitVec.ofNat 32 r.bits] r.flags (nextPc t.pc lits)
    let pair := fun (p q : FOut) => FOut.mk (q.bits % 2 ^ 16 * 2 ^ 16 + p.bits % 2 ^ 16) (p.flags ||| q.flags)
    (Issues s t (Req.vector [fd d 1, fa a 1, fb b 1]) →
      let on2 := gives (lits2 a b)
      on2 (.fadd d a b f m) (fadd Fmt.fp32 f (fp32 x) (fp32 y)) ∧
      on2 (.fsub d a b f m) (fsub Fmt.fp32 f (fp32 x) (fp32 y)) ∧
      on2 (.fmul d a b f m) (fmul Fmt.fp32 f (fp32 x) (fp32 y)) ∧
      (∀ g, on2 (.fmnx d a b g m) (fmnx g x y)) ∧
      on2 (.fscl d a b f m) (fscl f (fp32 x) y.toInt) ∧
      on2 (.bfadd d a b f m) (pair (fadd Fmt.bf16 f (lo16 x) (lo16 y)) (fadd Fmt.bf16 f (hi16 x) (hi16 y))) ∧
      on2 (.bfmul d a b f m) (pair (fmul Fmt.bf16 f (lo16 x) (lo16 y)) (fmul Fmt.bf16 f (hi16 x) (hi16 y))) ∧
      on2 (.fsgn d a b .copysign m) ⟨x.toNat % 2 ^ 31 + y.toNat / 2 ^ 31 * 2 ^ 31, 0⟩) ∧
    (Issues s t (Req.vector [fdr d 1, fa a 1, fb b 1]) →
      gives (lits2 a b) (.ffma d a b f m) (ffma Fmt.fp32 f (fp32 x) (fp32 y) (fp32 o)) ∧
      gives (lits2 a b) (.bffma d a b f m)
        (pair (ffma Fmt.bf16 f (lo16 x) (lo16 y) (lo16 o)) (ffma Fmt.bf16 f (hi16 x) (hi16 y) (hi16 o))) ∧
      gives (lits2 a b) (.fdot2 d a b f m) (fdot Fmt.fp32 f (lo16 x) (lo16 y) (hi16 x) (hi16 y) (fp32 o))) ∧
    (Issues s t (Req.vector [fd d 1, fa a 1]) →
      (∀ r : FOut, r = ⟨(x ^^^ 0x80000000).toNat, 0⟩ → gives (lits2 a .z) (.fsgn d a .z .neg m) r) ∧
      gives (lits2 a .z) (.fsgn d a .z .abs m) ⟨x.toNat % 2 ^ 31, 0⟩ ∧
      gives (lits2 a .z) (.fsgn d a .z .negabs m) ⟨x.toNat % 2 ^ 31 + 2 ^ 31, 0⟩ ∧
      (∀ g, gives (lits1 a) (.frnd d a g m) (frnd g (fp32 x))) ∧
      gives (lits1 a) (.fcls d a m) ⟨match fp32 x with
        | .nan sig => if sig then 1 else 2
        | .inf neg => if neg then 4 else 512
        | .fin neg n _ => if n = 0 then (if neg then 32 else 64) else if n < 2 ^ 23 then (if neg then 16 else 128)
          else (if neg then 8 else 256), 0⟩)

/-- The class V instructions of the group issue with their result outstanding and able to trap (R101, R104, R105).
The model's own here: glitches are log 6 and the moment of results is log 33. -/
def Claim.FloatLateResults : Prop :=
  ∀ (s : State) (t : Thread) (d : Dst) (a b : Src) (f : Rnd) (m : Bool), Tab.find s.glitches (s.partOf s.cur) = none →
    let x := a.get32 s s.cur t
    let y := b.get32 s s.cur t
    let gives := fun (lits : Nat) (i : Instr) (r : FOut) =>
      CompletesV s t (exec i s) (d.dests t.wb.toNat 1) (some [BitVec.ofNat 32 r.bits]) r.flags true (nextPc t.pc lits)
    (Issues s t (Req.vector [fd d 1, fa a 1, fb b 1]) → gives (lits2 a b) (.fdiv d a b f m) (fdiv Fmt.fp32 f (fp32 x) (fp32 y))) ∧
    (Issues s t (Req.vector [fd d 1, fa a 1]) →
      (∀ g, gives (lits1 a) (.frcp d a g m) (frcp g (fp32 x))) ∧ (∀ g, gives (lits1 a) (.fex d a g m) (fex g (fp32 x))))

/-- The floating-point trap: flags that an instruction raises and the kernel's trap-enable word names make a trap due in the thread, with
the instruction as its fault PC, unless the thread is in its handler; its destination is written and its flags are set (R42).
The model's own here: glitches are log 6. -/
def Claim.FloatTrapDue : Prop :=
  ∀ (s : State) (t : Thread) (d : Dst) (a b : Src) (f : Rnd) (m : Bool),
    Issues s t (Req.vector [fd d 1, fa a 1, fb b 1]) → Tab.find s.glitches (s.partOf s.cur) = none → t.inHandler = false →
    let r := fadd Fmt.fp32 f (fp32 (a.get32 s s.cur t)) (fp32 (b.get32 s s.cur t))
    let enabled := (s.ctxOf s.cur).header.trapEn.zeroExtend 32 &&& r.flags
    enabled ≠ 0 →
    ∃ s' u e, exec (.fadd d a b f m) s = .next s' ∧ Tab.find s'.threads s.cur = some u ∧ u.dueNow = some e ∧
      e.info.cause = 0x0D ∧ e.info.detail = enabled ∧ e.faultPc = t.pc ∧
      Wrote t u (d.dests t.wb.toNat 1) [BitVec.ofNat 32 r.bits] ∧ s'.waves = raised s s.cur r.flags

/-- A lane whose shadow disagrees: the first try that agrees gives the result, at most two retries, the last on another partition, which
quarantines the first; and where all three disagree and the last two are equal, the shadow of that lane alone is disabled (R384, R385).
The model's own here: glitches are log 6 and the picked partition is logs 2 and 41. -/
def Claim.ShadowRetry : Prop :=
  ∀ (s : State) (k : Nat) (packed : Bool) (w : Word) (g : Glitch), Tab.find s.glitches (s.partOf k) = some g →
    let p := s.partOf k
    let mn := fun (i : Nat) => g.main.getD i w
    let agree := fun (i : Nat) => lanesAgree packed (mn i) (g.shadow.getD i w)
    let off := (Tab.getD s.power.shadowOff p 0).getLsbD (laneOf k)
    let o := s.shadow k packed w
    (off = true ∨ agree 0 = true → o.2 = some (mn 0)) ∧
    (off = false → agree 0 = false → agree 1 = true → o.2 = some (mn 1) ∧ o.1.power.quarantine = s.power.quarantine) ∧
    (off = false → agree 0 = false → agree 1 = false → agree 2 = true → o.2 = some (mn 2) ∧
      (Tab.getD o.1.power.quarantine (p / 4) 0).getLsbD (p % 4) = true) ∧
    (off = false → agree 0 = false → agree 1 = false → agree 2 = false →
      (mn 1 = mn 2 → o.2 = some (mn 2) ∧ (Tab.getD o.1.power.shadowOff p 0).getLsbD (laneOf k) = true ∧
        ∀ j, j ≠ laneOf k → (Tab.getD o.1.power.shadowOff p 0).getLsbD j = (Tab.getD s.power.shadowOff p 0).getLsbD j) ∧
      (mn 1 ≠ mn 2 → o.2 = none ∧ o.1.agenda = .event (.dieFence (dieOf (p / 4))) :: s.agenda)) ∧
    Tab.find o.1.glitches p = none

/-- Conversions and floating-point compares complete with their value and flags; they need no role (R112 to R116). -/
def Claim.Converts : Prop :=
  ∀ (s : State) (t : Thread) (d : Dst) (a b : Src) (f : Rnd) (m : Bool),
    let x := a.get32 s s.cur t
    let y := b.get32 s s.cur t
    (Issues s t (Req.any [fd d 1, fa a 1, fb b 1]) →
      ∀ g, CompletesF s t (exec (.fcmp d a b g m) s) (d.dests t.wb.toNat 1) [if fcmp g x y then 1 else 0]
        (if (fp32 x).isSig || (fp32 y).isSig then flagIV else 0) (nextPc t.pc (lits2 a b))) ∧
    (∀ c, Issues s t (Req.any [fd d (CvtWidth c).1, fa a (CvtWidth c).2]) →
      let src := match (CvtWidth c).2 with
        | 1 => [x]
        | 2 => [(a.get64 s s.cur t).extractLsb' 0 32, (a.get64 s s.cur t).extractLsb' 32 32]
        | _ => a.get128 t
      CompletesF s t (exec (.cvt d a c f m) s) (d.dests t.wb.toNat (CvtWidth c).1) (cvtVal c f src).1 (cvtVal c f src).2
        (nextPc t.pc (lits1 a)))

/-- FP32 to a 32-bit signed integer: the rounded value, saturated with IV and SAT outside the range, 0 with IV for a NaN, NX where it is
inexact (R113). -/
def Claim.ConvertToInteger : Prop :=
  ∀ (r : Rnd) (x : Word),
    match fp32 x with
    | .nan _ => toInteger r 32 true (fp32 x) = (0, flagIV)
    | .inf s => toInteger r 32 true (fp32 x) = (if s then 0x80000000 else 0x7FFFFFFF, flagIV ||| flagSAT)
    | .fin s n e =>
      let k := (cutAt r s n e false 0).1
      let v : Int := if s then -(k : Int) else k
      toInteger r 32 true (fp32 x) =
        if v < -2 ^ 31 then (0x80000000, flagIV ||| flagSAT) else if 2 ^ 31 - 1 < v then (0x7FFFFFFF, flagIV ||| flagSAT)
        else ((v % 2 ^ 32).toNat, if (cutAt r s n e false 0).2 then flagNX else 0)

/-- `rdsr` reads the special register of its code into d and, with clr, clears the status bits that it returns; no other state changes
(R41, R120). -/
def Claim.ReadSpecial : Prop :=
  ∀ (s : State) (t : Thread) (d : Dst) (m clr : Bool) (c : SpReg),
    Issues s t (Req.any [fd d (spWidth c)]) →
    let v := s.special s.cur t c
    ∃ s' u, exec (.rdsr d c clr m) s = .next s' ∧ Tab.find s'.threads s.cur = some u ∧
      Wrote t u (d.dests t.wb.toNat (spWidth c)) ([v.extractLsb' 0 32, v.extractLsb' 32 32].take (spWidth c)) ∧
      u.pc = t.pc + 4 ∧
      s'.waves = (if clr then Tab.upd s.waves (waveKey s.cur) fun w => { w with status := w.status &&& ~~~(v.extractLsb' 0 32) }
        else s.waves) ∧
      OnlyThreads { s with waves := s'.waves } s' ∧ OthersKept s s' s.cur ∧ BytesKept s s'

/-- What the special registers hold (Table 5-6). -/
def Claim.SpecialValues : Prop :=
  ∀ (s : State) (k : Nat) (t : Thread),
    let b := s.block (blkOf k)
    let c := s.ctx b.ctx
    let w := s.wave k
    s.special k t .workId = t.workId ∧ s.special k t .threadInBlock = BitVec.ofNat 64 (k % 1024) ∧
    s.special k t .waveInBlock = BitVec.ofNat 64 (k % 1024 / 32) ∧ s.special k t .lane = BitVec.ofNat 64 (k % 32) ∧
    s.special k t .waves = BitVec.ofNat 64 c.header.waves ∧ s.special k t .gangIndex = BitVec.ofNat 64 b.gidx ∧
    s.special k t .coreNo = BitVec.ofNat 64 b.core ∧ s.special k t .asid = BitVec.ofNat 64 c.asid ∧
    s.special k t .scratch = BitVec.ofNat 64 c.header.scratch ∧ s.special k t .status = w.status.zeroExtend 64 ∧
    s.special k t .wb = t.wb.zeroExtend 64 ∧ s.special k t .alloc = BitVec.ofNat 64 w.alloc ∧
    s.special k t .cycles = BitVec.ofNat 64 s.clock ∧ s.special k t .trapCause = t.trap.cause.zeroExtend 64 ∧
    s.special k t .trapPc = t.trap.pc ∧ s.special k t .trapAddr = t.trap.addr ∧
    s.special k t .trapDetail = t.trap.detail.zeroExtend 64 ∧
    (∀ l, Tab.find s.launches c.launch = some l → s.special k t .args = l.args ∧
      ∀ i : Fin 6, s.special k t ([.f0, .f1, .f2, .f3, .f4, .f5].get i) =
        BitVec.ofNat 64 (t.workId.toNat / 2 ^ (l.widths.take i.val).sum % 2 ^ (l.widths.getD i.val 0)))

/-! ## Memory -/

/-- Where an access goes: outside every window the address trap, then misaligned the alignment trap, both at the access's address, and
neither translates or changes anything (R225, R243). -/
def Claim.AccessChecks : Prop :=
  ∀ (s : State) (g : Agent) (addr n align : Nat) (d : Need) (host : Bool),
    (s.window g addr n = none →
      s.locate g addr n align d host =
        (s, .error (.trap { cause := 0x07, addr := BitVec.ofNat 64 addr, detail := 0, kind := d.kind, size := sizeLog n }))) ∧
    (∀ w, s.window g addr n = some w → addr % align ≠ 0 →
      s.locate g addr n align d host =
        (s, .error (.trap { cause := 0x06, addr := BitVec.ofNat 64 addr, detail := 0, kind := d.kind, size := sizeLog n }))) ∧
    (∀ p, s.window g addr n = some (.place p) → addr % align = 0 → s.locate g addr n align d host = (s, .ok p))

/-- The windows of a generic address of a thread: global memory below 2^57, its own scratchpad, its gang's and its die's bank segment
(R225 to R228). -/
def Claim.AddressWindows : Prop :=
  ∀ (s : State) (k o n : Nat), o + n ≤ 2 ^ 56 →
    let g := s.agent k
    let c := s.ctxOf k
    (∀ addr, addr + n ≤ 2 ^ 57 → s.window g addr n = some (.glob addr)) ∧
    (0 < n → s.window g (0xF0 * 2 ^ 56 + o) n =
      if o + n ≤ c.header.scratch then some (.place (.spad (blkOf k) o)) else none) ∧
    (0 < n → ∀ j b, j < 48 → c.blocks[j]? = some b → o < 2 ^ 20 → s.window g (0xF1 * 2 ^ 56 + j * 2 ^ 20 + o) n =
      if o + n ≤ c.header.scratch then some (.place (.spad b o)) else none) ∧
    (0 < n → s.window g (0xF2 * 2 ^ 56 + o) n =
      let seg := s.bankSeg c.asid (dieOf (s.coreOf k))
      if o + n ≤ seg.2 then some (.place (.bank (dieOf (s.coreOf k)) (seg.1 + o))) else none)

/-- What translation finds in a leaf entry, in the order of R235: not resident, missing rights, an Accord page under a plain access, a
shared page under a write, and otherwise the frame with the offset. -/
def Claim.LeafRights : Prop :=
  ∀ (s : State) (e : BitVec 64) (bits va : Nat) (d : Need), d.accord = false →
    let res := bit e 1
    let acc := bit e 6
    let rights := (!d.r || bit e 3) && (!d.w || bit e 4) && (!d.x || bit e 5)
    (res = false → s.leafCheck e bits va d = .absent) ∧
    (res = true → acc = true → s.accordLeaf e bits = false → s.leafCheck e bits va d = .malformed) ∧
    (res = true → acc = true → s.accordLeaf e bits = true → rights = true → s.leafCheck e bits va d = .prot 0x04) ∧
    (res = true → (acc = true → s.accordLeaf e bits = true) → rights = false → s.leafCheck e bits va d = .prot 0x03) ∧
    (res = true → acc = false → rights = true → bit e 7 = true → d.w = true → s.leafCheck e bits va d = .copy) ∧
    (res = true → acc = false → rights = true → (bit e 7 = true → d.w = false) → s.lost (leafFrame e + va % 2 ^ bits) = false →
      s.leafCheck e bits va d = .ok (leafFrame e + va % 2 ^ bits))

/-- A translation that finds its page, by a walk from the root of the agent's own address space (R232), sets A, and D for a write, in the
leaf entry and changes no other byte of memory; one that does not
changes nothing (R235, R237).
The model's own here: cached translations are log 19. -/
def Claim.TranslationMarks : Prop :=
  ∀ (s s' : State) (g : Agent) (va : Nat) (d : Need) (x : Xlate), s.translate g va d = (s', x) → s.tlbFind g va d = none →
    ((∀ pa, x ≠ .ok pa) → (∀ m o, x ≠ .accord m o) → s' = s) ∧
    (∀ pa, x = .ok pa → ∃ (a : Asid) (at_ : Nat) (e : BitVec 64) (bits : Nat), Tab.find s.asids g.asid = some a ∧ a.live = true ∧
      s.walkFrom va 3 a.root = .leaf at_ e bits ∧ s.leafCheck e bits va d = .ok pa ∧
      ((∀ q, at_ ≤ q → q < at_ + 8 → s.queueAt q = none) →
        (∀ i, i < 8 → Store.read (w := 8) s'.mem (at_ + i) = (e ||| 0x100 ||| if d.w then 0x200 else 0).extractLsb' (8 * i) 8) ∧
        ∀ q, ¬(at_ ≤ q ∧ q < at_ + 8) → Store.read (w := 8) s'.mem q = Store.read (w := 8) s.mem q))

/-- A load: where its place is found and holds no poison, it issues with the bytes of its form that the thread sees there, zero- or
sign-extended; no byte of memory changes, at its home or as any thread sees it (R242, R245, R246).  A 16-byte load is performed whole
where no choice of the order of its halves stands; otherwise one half is read now and the other goes its own way (R244).
The model's own here: the L1 is log 20 and the order of operations is log 21. -/
def Obligations.Loads : Prop :=
  ∀ (s s1 : State) (t : Thread) (d : Dst) (a b : Src) (f : LdF) (m : Bool) (p : Place),
    Issues s t (Req.any [fd d (ldWidth f), fa a 2, fb b 1]) →
    let k := s.cur
    let addr := a.get64 s k t + (b.get32 s k t).signExtend 64
    let ds := d.dests t.wb.toNat (ldWidth f)
    s.locate (s.agent k) addr.toNat (ldSize f) (ldSize f) Need.load true = (s1, .ok p) → s1.badAt k p (ldSize f) = false → s.quiet k →
    ((f = .b128 → s1.picks = [] ∨ s1.buffers (blkOf k) p = true) → (∀ pa, p = .mem pa → pa < 2 ^ 41) →
      let s2 := (s1.loadAt k p (ldSize f)).1
      let x := (s1.loadAt k p (ldSize f)).2
      let n := natOf x
      let words := match f with
        | .b8z => [BitVec.ofNat 32 n] | .b16z => [BitVec.ofNat 32 n] | .b32 => [BitVec.ofNat 32 n]
        | .b8s => [BitVec.ofInt 32 (signedNat 8 n)] | .b16s => [BitVec.ofInt 32 (signedNat 16 n)]
        | .b64 => [BitVec.ofNat 32 n, BitVec.ofNat 32 (n / 2 ^ 32)]
        | .b128 => [BitVec.ofNat 32 n, BitVec.ofNat 32 (n / 2 ^ 32), BitVec.ofNat 32 (n / 2 ^ 64), BitVec.ofNat 32 (n / 2 ^ 96)]
      ∃ s', exec (.ld d a b f m) s = .next s' ∧
        IssuedV s2 k t s' ds (some words) 0 false none (nextPc t.pc (lits2 a b)) ∧
        BytesKept s1 s' ∧ (∀ core asid q, q < 2 ^ 41 → s'.sees core asid q = s1.sees core asid q) ∧ s'.waves = s1.waves) ∧
    (∀ i r, f = .b128 → s1.buffers (blkOf k) p = false → s1.picks = i :: r → i % 3 ≠ 0 →
      let o := if i % 3 = 2 then 8 else 0
      let now := ({ s1 with picks := r }).plainLoad k (p.add o) 8
      let later : HomeOp :=
        { thread := k, prog := t.order, order := some t.order, place := p.add (8 - o), kind := .ldHalf (i % 3 == 1) (wordsOf now.2)
          asid := (s.ctxOf k).asid, n := 0, va := addr + BitVec.ofNat 64 (8 - o), pc := t.pc }
      ∃ s', exec (.ld d a b .b128 m) s = .next s' ∧
        IssuedV { now.1 with homeQ := s1.homeQ ++ [later] } k t s' ds none 0 false none (nextPc t.pc (lits2 a b)) ∧ BytesKept s1 s')

/-- A store to ordinary global memory, a scratchpad or bank memory: the thread goes on and sees the bytes of its form from d at the
address; every other byte, as any thread sees it, is as before, and memory at its home changes only where the place is no global memory
(R242, R245, R247).  A 16-byte store is performed whole where no choice of the order of its halves stands; otherwise one half is stored now
and the other goes its own way (R244).
The model's own here: the L1 is log 20 and the order of operations is log 21. -/
def Claim.PlainStores : Prop :=
  ∀ (s s1 : State) (t : Thread) (d : Dst) (a b : Src) (f : StF) (m : Bool) (p : Place),
    Issues s t (Req.any [fdr d (stWidth f), fa a 2, fb b 1]) →
    let k := s.cur
    let n := stSize f
    let addr := a.get64 s k t + (b.get32 s k t).signExtend 64
    s.locate (s.agent k) addr.toNat n n Need.store true = (s1, .ok p) →
    s.quiet k → s1.buffers (blkOf k) p = false →
    let x := (bytesOfWords (d.gets t (stWidth f))).take n
    ((f = .b128 → s1.picks = []) →
      ∃ s', exec (.st d a b f m) s = .next s' ∧ WentOn t s' k (nextPc t.pc (lits2 a b)) ∧ OthersKept s1 s' k ∧ s'.waves = s1.waves ∧
      (∀ pa, p = .mem pa → pa + n ≤ 2 ^ 41 → pa % n = 0 → (∀ q, s1.queueAt q = none) →
        BytesKept s1 s' ∧ (∀ i, i < n → s'.sees (s.coreOf k) (s.ctxOf k).asid (pa + i) = [x.getD i 0]) ∧
        ∀ core asid q, q < 2 ^ 41 → ¬(core = s.coreOf k ∧ pa ≤ q ∧ q < pa + n) → s'.sees core asid q = s1.sees core asid q) ∧
      (∀ blk o, p = .spad blk o → Tab.find s1.blocks blk ≠ none → s'.readPlace p n = x ∧
        (∀ q, ¬(o ≤ q ∧ q < o + n) → s'.readPlace (.spad blk q) 1 = s1.readPlace (.spad blk q) 1) ∧
        (∀ c q, c ≠ blk → s'.readPlace (.spad c q) 1 = s1.readPlace (.spad c q) 1) ∧ s'.mem = s1.mem ∧ s'.bank = s1.bank) ∧
      (∀ die o, p = .bank die o → s'.readPlace p n = x ∧
        (∀ e q, ¬(die * 2 ^ 26 + o ≤ e * 2 ^ 26 + q ∧ e * 2 ^ 26 + q < die * 2 ^ 26 + o + n) →
          s'.readPlace (.bank e q) 1 = s1.readPlace (.bank e q) 1) ∧ s'.mem = s1.mem)) ∧
    (∀ i r, f = .b128 → s1.picks = i :: r → i % 3 ≠ 0 →
      let o := if i % 3 = 2 then 8 else 0
      let now := ({ s1 with picks := r }).plainStore k (p.add o) ((x.drop o).take 8)
      let later : HomeOp :=
        { thread := k, prog := t.order, order := none, place := p.add (8 - o), kind := .stHalf (valOf 64 ((x.drop (8 - o)).take 8))
          asid := (s.ctxOf k).asid, n := 0, va := addr + BitVec.ofNat 64 (8 - o), pc := t.pc }
      ∃ s', exec (.st d a b .b128 m) s = .next s' ∧
        IssuedV { now with homeQ := s1.homeQ ++ [later] } k t s' [] (some []) 0 false none (nextPc t.pc (lits2 a b)))

/-- A store in a RELAUNCH kernel joins its block's buffer; no byte of memory changes, at its home or as any thread sees it, before the
phase ends (R388). -/
def Claim.BufferedStores : Prop :=
  ∀ (s s1 : State) (t : Thread) (d : Dst) (a b : Src) (f : StF) (m : Bool) (p : Place),
    Issues s t (Req.any [fdr d (stWidth f), fa a 2, fb b 1]) →
    let k := s.cur
    let addr := a.get64 s k t + (b.get32 s k t).signExtend 64
    s.locate (s.agent k) addr.toNat (stSize f) (stSize f) Need.store true = (s1, .ok p) →
    s.quiet k → s1.buffers (blkOf k) p = true → Tab.find s1.blocks (blkOf k) ≠ none →
    let entry := BufEntry.store p addr.toNat ((bytesOfWords (d.gets t (stWidth f))).take (stSize f))
    (bufSpill ((s1.block (blkOf k)).buffer ++ [entry]) = 0 →
      ∃ s', exec (.st d a b f m) s = .next s' ∧ WentOn t s' k (nextPc t.pc (lits2 a b)) ∧
        (s'.block (blkOf k)).buffer = (s1.block (blkOf k)).buffer ++ [entry] ∧
        BytesKept s1 s' ∧ (∀ core asid q, s'.sees core asid q = s1.sees core asid q))

/-- The scoped load and store: at gang scope and above `lda` reads the home, with the core's own dirty bytes of the line written back
first, and afterwards the core holds no line of the ASID; `stl` writes its bytes through to the home, its core's dirty bytes of the ASID
written back first (R248, R249, Table 13-3).
The model's own here: the L1 is log 20 and the read at the home is log 21. -/
def Obligations.ScopedAccesses : Prop :=
  ∀ (s s1 : State) (t : Thread) (d : Dst) (a b : Src) (f : Scope) (m : Bool) (pa : Nat),
    let k := s.cur
    let addr := a.get64 s k t + (b.get32 s k t).signExtend 64
    s.quiet k → s1.buffers (blkOf k) (.mem pa) = false → pa + 8 ≤ 2 ^ 41 → pa % 8 = 0 →
    (∀ q, s1.queueAt q = none) → scopeWide f = true →
    (Issues s t (Req.any [fd d 2, fa a 2, fb b 1]) → s.locate (s.agent k) addr.toNat 8 8 Need.load true = (s1, .ok (.mem pa)) →
      let s2 := (s1.promote k f).dropLineAt (s1.coreOf k) (.mem pa)
      s2.badAt k (.mem pa) 8 = false →
      ∃ s' u x, exec (.lda d a b f m) s = .next s' ∧ Tab.find s'.threads k = some u ∧
        u.pend = outstanding t (d.dests t.wb.toNat 2) (some (wordsOf x)) 0 false none ∧ u.pc = nextPc t.pc (lits2 a b) ∧
        u.regs = t.regs ∧ x = s2.readMem pa 8 ∧
        (∀ key l, Tab.find s'.l1 key = some l → key / 2 ^ 35 = s1.coreOf k → l.asid ≠ (s1.ctxOf k).asid)) ∧
    (Issues s t (Req.release [fdr d 2, fa a 2, fb b 1]) → f.releasable = true →
      s.locate (s.agent k) addr.toNat 8 8 Need.store true = (s1, .ok (.mem pa)) →
      ∃ s', exec (.stl d a b f m) s = .next s' ∧ WentOn t s' k (nextPc t.pc (lits2 a b)) ∧
        s'.readMem pa 8 = bytesOfWords (d.gets t 2) ∧
        ∀ key l, Tab.find s'.l1 key = some l → key / 2 ^ 35 = s1.coreOf k → l.asid = (s1.ctxOf k).asid → l.dirty = 0)

/-- Fences: the thread goes on with nothing outstanding; at gang scope and above a release leaves no dirty byte of the ASID in the core's
L1, an acquire no line of it; below, nothing is written back or dropped.  A release waits for the thread's Accord stores, and an acquire at
die scope and above comes after the bank operations of the ASID, of which none is on its way here (R250, R258, Table 13-3).
The model's own here: the order of operations is log 21. -/
def Claim.FencesComplete : Prop :=
  ∀ (s : State) (t : Thread) (f : Scope) (m : Bool), s.quiet s.cur →
    let k := s.cur
    let banks := scopeDie f = true → ∀ h ∈ s.bankQ, h.asid ≠ (s.ctxOf k).asid
    let clean := fun (s' : State) => ∀ key l, Tab.find s'.l1 key = some l → key / 2 ^ 35 = s.coreOf k → l.asid = (s.ctxOf k).asid → l.dirty = 0
    let empty := fun (s' : State) => ∀ key l, Tab.find s'.l1 key = some l → key / 2 ^ 35 = s.coreOf k → l.asid ≠ (s.ctxOf k).asid
    let goes := fun (i : Instr) (q : State → Prop) => ∃ s', exec i s = .next s' ∧ WentOn t s' k (t.pc + 4) ∧ OthersKept s s' k ∧
      s'.waves = s.waves ∧ (scopeWide f = true → q s') ∧ (scopeWide f = false → s'.mem = s.mem ∧ s'.l1 = s.l1)
    (Issues s t (Req.release []) → banks → goes (.fenceAcqrel f m) empty) ∧
    (Issues s t (Req.any []) → banks → goes (.fenceAcq f m) empty) ∧
    (Issues s t (Req.release []) → f.releasable = true → goes (.fenceRel f m) clean)

/-- A release writes a dirty byte of its core's L1 to its home: afterwards the home holds what the core's threads see (R248, R259); and so
does the next state of a releasing fence at gang scope or above, where no other core holds that byte dirty.
The model's own here: the L1 is log 20. -/
def Claim.ReleaseWritesHome : Prop :=
  (∀ (s : State) (core asid key i : Nat) (l : L1Line), (∀ q, s.queueAt q = none) →
    Tab.find s.l1 key = some l → Tab.rising s.l1 = true → key / 2 ^ 35 = core → l.asid = asid → i < 64 → l.dirty.getLsbD i = true →
      (s.l1Flush core asid).readMem (key % 2 ^ 35 * 64 + i) 1 = [l.data.extractLsb' (8 * i) 8] ∧
      ∀ q, (∀ key' l', Tab.find s.l1 key' = some l' → key' / 2 ^ 35 = core → l'.asid = asid → key' % 2 ^ 35 ≠ q / 64 ∨
        l'.dirty.getLsbD (q % 64) = false) → (s.l1Flush core asid).readMem q 1 = s.readMem q 1) ∧
  ∀ (s : State) (t : Thread) (f : Scope) (m : Bool) (key i : Nat) (l : L1Line),
    (∀ q, s.queueAt q = none) → s.quiet s.cur → Issues s t (Req.release []) → scopeWide f = true →
    (scopeDie f = true → ∀ h ∈ s.bankQ, h.asid ≠ (s.ctxOf s.cur).asid) →
    Tab.find s.l1 key = some l → Tab.rising s.l1 = true → key / 2 ^ 35 = s.coreOf s.cur → l.asid = (s.ctxOf s.cur).asid →
    i < 64 → l.dirty.getLsbD i = true →
    (∀ key' l', Tab.find s.l1 key' = some l' → key' ≠ key → key' % 2 ^ 35 = key % 2 ^ 35 → l'.dirty.getLsbD i = false) →
    let home := fun (o : Out) => ∃ s', o = .next s' ∧ s'.readMem (key % 2 ^ 35 * 64 + i) 1 = [l.data.extractLsb' (8 * i) 8]
    home (exec (.fenceAcqrel f m) s) ∧ (f.releasable = true → home (exec (.fenceRel f m) s))

/-- Atomics, compare-and-swap, cell additions and cell resets issue by sending one operation to the home of their line, with its result
outstanding where d names a register; nothing at the home changes yet (R252 to R255, R259).
The model's own here: the order of operations is log 21. -/
def Claim.HomeOperationsIssue : Prop :=
  ∀ (s s1 : State) (t : Thread) (d : Dst) (a b : Src) (m : Bool) (p : Place),
    let k := s.cur
    let addr := a.get64 s k t
    let sends := fun (i : Instr) (flds : List Fld) (size lits : Nat) (kind : HomeKind) (ds : List RegId) =>
      Issues s t (Req.release flds) → s.locate (s.agent k) addr.toNat size size Need.atomic false = (s1, .ok p) →
      s1.buffers (blkOf k) p = false →
      let op : HomeOp := { thread := k, prog := t.order, order := if ds.isEmpty then none else some t.order, place := p, kind := kind
                           asid := (s.ctxOf k).asid, n := 0, va := addr, pc := t.pc }
      ∃ s', exec i s = .next s' ∧
        IssuedV { s1 with homeQ := s1.homeQ ++ [op] } k t s' ds (if ds.isEmpty then some [] else none) 0 false none (nextPc t.pc lits) ∧
        BytesKept s1 s'
    let d1 := d.dests t.wb.toNat 1
    let d2 := d.dests t.wb.toNat 2
    let x := b.get32 s k t
    (∀ f, sends (.atom d a b f m) [fd d 1, fa a 2, fb b 1] 4 (lits2 a b) (.atom f false (x.zeroExtend 64)) d1) ∧
    (∀ f, sends (.atom64 d a b f m) [fd d 2, fa a 2, fb b 2] 8 (lits2 a b) (.atom f true (b.get64 s k t)) d2) ∧
    sends (.cas d a b false m) [fdr d 1, fa a 2, fb b 1] 4 (lits2 a b) (.cas false ((d.get32 t).zeroExtend 64) (x.zeroExtend 64)) d1 ∧
    sends (.cas d a b true m) [fdr d 2, fa a 2, fb b 2] 8 (lits2 a b) (.cas true (d.get64 t) (b.get64 s k t)) d2 ∧
    sends (.fxadd a b m) [fa a 2, fb b 1] 16 (lits2 a b) (.cellAdd x) [] ∧
    sends (.cctlCreset d a m) [fdr d 1, fa a 2] 16 (lits1 a) (.creset ((d.get32 t).extractLsb' 0 8)) []

/-- What an operation at a home does to its line, whose other bytes stay.  An atomic or a compare-and-swap, of a word or of two, gives the word
at its offset the new value, and its result is the old one (R252, R253).  A cell addition adds to I the value divided by 2^s, rounded to the
nearest integer and ties to even, modulo 2^112, and raises the cell's flags; a cell reset clears I and both flags and writes s (R35, R259). -/
def Claim.AtomicValues : Prop :=
  ∀ (l : Line) (off : Nat) (b e : BitVec 64) (y : Word) (c : BitVec 8),
    let others := fun (k : HomeKind) (n : Nat) =>
      ∀ i, i < 64 → ¬(off ≤ i ∧ i < off + n) → (k.run l off).1.extractLsb' (8 * i) 8 = l.extractLsb' (8 * i) 8
    (off + 4 ≤ 64 →
      let old : Word := l.extractLsb' (8 * off) 32
      let x : Word := b.extractLsb' 0 32
      let makes := fun (k : HomeKind) (v : Word) =>
        (k.run l off).1.extractLsb' (8 * off) 32 = v ∧ (k.run l off).2 = [old] ∧ others k 4
      makes (.atom .add false b) (BitVec.ofNat 32 (old.toNat + x.toNat)) ∧
      makes (.atom .smin false b) (if x.toInt < old.toInt then x else old) ∧
      makes (.atom .smax false b) (if old.toInt < x.toInt then x else old) ∧
      makes (.atom .nmin false b) (if x.toNat < old.toNat then x else old) ∧
      makes (.atom .nmax false b) (if old.toNat < x.toNat then x else old) ∧
      makes (.atom .and false b) (old &&& x) ∧ makes (.atom .or false b) (old ||| x) ∧
      makes (.atom .xchg false b) x ∧ makes (.cas false e b) (if old = e.extractLsb' 0 32 then x else old)) ∧
    (off + 8 ≤ 64 →
      let old : Pair := l.extractLsb' (8 * off) 64
      let makes := fun (k : HomeKind) (v : Pair) =>
        (k.run l off).1.extractLsb' (8 * off) 64 = v ∧ (k.run l off).2 = [old.extractLsb' 0 32, old.extractLsb' 32 32] ∧ others k 8
      makes (.atom .add true b) (BitVec.ofNat 64 (old.toNat + b.toNat)) ∧
      makes (.atom .smin true b) (if b.toInt < old.toInt then b else old) ∧
      makes (.atom .smax true b) (if old.toInt < b.toInt then b else old) ∧
      makes (.atom .nmin true b) (if b.toNat < old.toNat then b else old) ∧
      makes (.atom .nmax true b) (if old.toNat < b.toNat then b else old) ∧
      makes (.atom .and true b) (old &&& b) ∧ makes (.atom .or true b) (old ||| b) ∧
      makes (.atom .xchg true b) b ∧ makes (.cas true e b) (if old = e then b else old)) ∧
    (off + 16 ≤ 64 →
      let cell := fun (m : Line) (i : BitVec 112) (sc fl : BitVec 8) =>
        m.extractLsb' (8 * off) 112 = i ∧ m.extractLsb' (8 * (off + 14)) 8 = sc ∧ m.extractLsb' (8 * (off + 15)) 8 = fl
      ∀ (i : BitVec 112) (sc fl : BitVec 8), cell l i sc fl →
        let adds := ((HomeKind.cellAdd y).run l off).1
        (∀ g, fp32 y = .nan g → cell adds i sc (fl ||| 2)) ∧
        (∀ g, fp32 y = .inf g → cell adds i sc (fl ||| 1)) ∧
        (∀ q : Int, (fp32 y).isFin = true →
          let den : Nat := 2 ^ (149 + sc.toInt).toNat
          2 * (fpUnits y - q * den).natAbs ≤ den → (2 * (fpUnits y - q * den).natAbs = den → q % 2 = 0) →
          cell adds (BitVec.ofInt 112 (i.toInt + q)) sc (if 2 ^ 100 ≤ q.natAbs then fl ||| 1 else fl)) ∧
        others (.cellAdd y) 16 ∧
        cell ((HomeKind.creset c).run l off).1 0 c (fl &&& 0xFC) ∧ others (.creset c) 16)

/-- HOME_OPERATION_EXECUTE: an operation on its way is performed whole at its home, after the issuing core's dirty bytes of the line:
its bytes become what its function makes of the line, every other byte at home stays, and a waiting result is answered (R245, R254).  The
second half of a 16-byte access is performed through its thread's L1 (R244).
The model's own here: the order of operations is log 21. -/
def Claim.HomeOperationExecutes : Prop :=
  ∀ (s : State) (i pa : Nat) (h : HomeOp), s.homeQ[i]? = some h → s.heldBack h = false → h.place = .mem pa →
    pa % 64 + h.kind.size ≤ 64 → (∀ f x, h.kind ≠ .bnk f x) → (∀ q, s.queueAt q = none) →
    let s0 : State := { s with homeQ := dropAt s.homeQ i }
    ((∀ u g, h.kind ≠ .ldHalf u g) → (∀ x, h.kind ≠ .stHalf x) →
      let s1 := s0.dropLineAt (s.coreOf h.thread) h.place
      h.order = none ∨ s1.badAt h.thread h.place h.kind.size = false →
      let r := h.kind.run (Line.of (s1.readMem (pa / 64 * 64) 64)) (pa % 64)
      ∃ s', exec (.homeOperationExecute i) s = .next s' ∧ s'.homeQ = dropAt s.homeQ i ∧
        s'.readMem pa h.kind.size = Line.get r.1 (pa % 64) h.kind.size ∧
        (∀ q, ¬(pa ≤ q ∧ q < pa + h.kind.size) → s'.readMem q 1 = s1.readMem q 1) ∧
        (∀ o t, h.order = some o → Tab.find s.threads h.thread = some t → ∃ u, Tab.find s'.threads h.thread = some u ∧
          u = { t with pend := t.pend.map fun p => if p.order = o && p.vals.isNone then { p with vals := some r.2, flags := 0 } else p }) ∧
        (h.order = none → s'.threads = s.threads)) ∧
    (∀ t, Tab.find s.threads h.thread = some t →
      (∀ upper got o, h.kind = .ldHalf upper got → h.order = some o → s0.badAt h.thread h.place 8 = false →
        let x := wordsOf (s0.plainLoad h.thread h.place 8).2
        ∃ s' u, exec (.homeOperationExecute i) s = .next s' ∧ Tab.find s'.threads h.thread = some u ∧ BytesKept s s' ∧
          u = { t with pend := t.pend.map fun p => if p.order = o && p.vals.isNone then
            { p with vals := some (if upper then got ++ x else x ++ got), flags := 0 } else p }) ∧
      (∀ x, h.kind = .stHalf x → h.order = none →
        ∃ s', exec (.homeOperationExecute i) s = .next s' ∧ s'.threads = s.threads ∧
          (s'.plainLoad h.thread h.place 8).2 = bytesOf 8 x ∧ BytesKept s s'))

/-- Cell reads (R256): raw, the four words of the cell at its home; otherwise the FP32 rounding of its sum, with its flags; the core's own
dirty bytes of the line are written back first. -/
def Claim.CellReads : Prop :=
  ∀ (s s1 : State) (t : Thread) (d : Dst) (a : Src) (raw m : Bool) (pa : Nat),
    let w := if raw then 4 else 1
    Issues s t (Req.any [fd d w, fa a 2]) →
    let k := s.cur
    s.locate (s.agent k) (a.get64 s k t).toNat 16 16 Need.cellRead false = (s1, .ok (.mem pa)) → s.quiet k →
    s1.buffers (blkOf k) (.mem pa) = false → pa % 16 = 0 → s1.badAt k (.mem pa) 16 = false → (∀ q, s1.queueAt q = none) →
    let s2 := s1.dropLineAt (s1.coreOf k) (.mem pa)
    let cell := s2.readMem pa 16
    let o := cellRead (valOf 128 cell)
    ∃ s', exec (.fxrd d a raw m) s = .next s' ∧
      IssuedV s2 k t s' (d.dests t.wb.toNat w) (some (if raw then wordsOf cell else [BitVec.ofNat 32 o.bits]))
        (if raw then 0 else o.flags) false none (nextPc t.pc (lits1 a))

/-- `ldb` (R161): an element of the block at the address is outstanding as FP32; a block that fails its check and an index beyond the
count are faults found after issue, with d unchanged (R411). -/
def Claim.BlockElements : Prop :=
  ∀ (s s1 : State) (t : Thread) (d : Dst) (a b : Src) (m : Bool) (p : Place),
    Issues s t (Req.any [fd d 1, fa a 2, fb b 1]) →
    let k := s.cur
    let addr := a.get64 s k t
    let i := (b.get32 s k t).toNat
    s.locate (s.agent k) addr.toNat 64 64 Need.load true = (s1, .ok p) → s1.badAt k p 64 = false → s.quiet k →
    let l := Line.of (s1.loadAt k p 64).2
    let ends := fun (vals : Option (List Word)) (fault : Option TrapInfo) => ∃ s', exec (.ldb d a b m) s = .next s' ∧
      IssuedV (s1.loadAt k p 64).1 k t s' (d.dests t.wb.toNat 1) vals 0 false fault (nextPc t.pc (lits2 a b))
    (∀ r, checkBlock l false = .error r →
      ends (some []) (some { cause := 0x0E, addr := addr, detail := r.zeroExtend 32 ||| 0xF00, kind := 0, size := 6 })) ∧
    (∀ x, checkBlock l false = .ok x →
      let n := match x with | .zero => 128 | .nan f => f.count | .data f => f.count
      (n ≤ i → ends (some []) (some { cause := 0x02, addr := 0, detail := 2, kind := 0, size := 0 })) ∧
      (i < n → (x = .zero → ends (some [0]) none) ∧ (∀ f, x = .nan f → ends (some [0x7FC00000]) none) ∧
        ∀ f, x = .data f → ends (some [BitVec.ofNat 32 (Fmt.fp32.ofVal .rn (blockElem l x i)).bits]) none))

/-- What a packed group reads back as, and its flags (R24, R25): a NaN makes a NaN block; otherwise the scale comes from the largest
finite magnitude, a pair has μ = 1 where that keeps its magnitudes in range, every element is its magnitude in the block's units rounded
to nearest even and limited, under its own sign, and OF, UF and NX say whether some element was limited, became 0 or changed.  The check
word, where it is written, is one that the block passes. -/
def Claim.BlockPacks : Prop :=
  ∀ (f : BlkFmt) (l : List FVal) (check : Bool), f ∈ [BlkFmt.s3, .s6, .s12] → l.length = f.count →
    let o := packGroup f l check
    let E := Line.byte o.1 1
    let top := 2 ^ f.m - 1
    let mu := fun (i : Nat) => o.1.toNat / 2 ^ (16 + i / 2) % 2
    let unit := fun (i : Nat) => (E : Int) - 127 - f.m - mu i
    let nonzero := fun (v : FVal) => v.isFin && !v.isZero
    let mag := fun (v : FVal) => (v.toInt (minExp l)).natAbs
    ((∃ v ∈ l, v.isNan = true) → checkBlock o.1 check = .ok (.nan f) ∧ o.2 = 0) ∧
    ((∀ v ∈ l, v.isNan = false) →
      checkBlock o.1 check = .ok (.data f) ∧
      ((∀ v ∈ l, v.isZero = true) → E = 0 ∧ o.2 = 0 ∧ ∀ i < f.count, mu i = 0) ∧
      ((∃ v ∈ l, v.isZero = false) → (∀ v ∈ l, nonzero v = false) → E = 254) ∧
      (∀ v ∈ l, nonzero v = true → (∀ w ∈ l, w.isFin = true → mag w ≤ mag v) → ∀ j : Nat, 2 ^ j ≤ mag v → mag v < 2 ^ (j + 1) →
        let e := minExp l + j
        (E : Int) = sat (if scaledMag v (e + 1 - f.m) = 2 ^ f.m then e + 129 else e + 128) 0 254) ∧
      ((∃ v ∈ l, v.isZero = false) → ∀ i x y, i % 2 = 0 → l[i]? = some x → l[i + 1]? = some y →
        mu i = if (nonzero x || nonzero y) && decide (scaledMag x (E - 128 - f.m) ≤ top) && decide (scaledMag y (E - 128 - f.m) ≤ top)
          then 1 else 0) ∧
      (∀ i x, l[i]? = some x → blockElem o.1 (.data f) i =
        .fin x.sign (if x.isInf then top else min (scaledMag x (unit i)) top) (unit i)) ∧
      (o.2 &&& flagOF ≠ 0 ↔ ∃ i x, l[i]? = some x ∧ (x.isInf = true ∨ top < scaledMag x (unit i))) ∧
      (o.2 &&& flagUF ≠ 0 ↔ ∃ i x, l[i]? = some x ∧ nonzero x = true ∧ scaledMag x (unit i) = 0) ∧
      (o.2 &&& flagNX ≠ 0 ↔ ∃ i x, l[i]? = some x ∧ isExactly x (min (scaledMag x (unit i)) top) (unit i) = false) ∧
      o.2 &&& ~~~(flagOF ||| flagUF ||| flagNX) = 0)

/-- `bnk` (R257): the operation, with its source line read at issue, takes the next number of its ASID on its die and is on its way to
the bank unit; the number is outstanding where d names a pair. -/
def Claim.BankOperationsIssue : Prop :=
  ∀ (s : State) (t : Thread) (d : Dst) (a b : Src) (f : BnkF) (m : Bool) (die o : Nat) (q : Place) (r : Asid),
    Issues s t (Req.release [fd d 2, fa a 2, fb b 2]) →
    let k := s.cur
    let asid := (s.ctxOf k).asid
    s.bnkPlaces k (a.get64 s k t) (b.get64 s k t) = .ok (.bank die o, q) → s.quiet k → s.buffers (blkOf k) (.bank die o) = false →
    s.placeBad q 64 = false → Tab.find s.asids asid = some r →
    let here := dieOf (s.coreOf k)
    let n := Tab.getD r.bankN here 0 + 1
    let ds := d.dests t.wb.toNat 2
    let op : HomeOp := { thread := k, prog := t.order, order := if ds.isEmpty then none else some t.order, place := .bank die o
                         kind := .bnk f (Line.of (s.readPlace q 64)), asid := asid, n := n, va := a.get64 s k t, pc := t.pc }
    ∃ s', exec (.bnk d a b f m) s = .next s' ∧ s'.bankQ = s.bankQ ++ [op] ∧
      (∃ r', Tab.find s'.asids asid = some r' ∧ Tab.getD r'.bankN here 0 = n) ∧
      (∃ u, Tab.find s'.threads k = some u ∧ u.pc = nextPc t.pc (lits2 a b) ∧ u.regs = t.regs ∧
        u.pend = outstanding t ds (if ds.isEmpty then some [] else none) 0 false none) ∧ BytesKept s s'

/-- BANK_OPERATION_EXECUTE (R258): the bank line takes its new value whole, no other byte of bank memory changes, the operation's number
is completed for the ASID and returned to the thread.
The model's own here: the order of operations is log 21. -/
def Claim.BankOperationExecutes : Prop :=
  ∀ (s : State) (i die o : Nat) (h : HomeOp) (f : BnkF) (src : Line) (r : Asid), s.bankQ[i]? = some h →
    s.heldBack h = false → h.order = none ∨ s.placeBad h.place 64 = false → h.place = .bank die o → h.kind = .bnk f src → o % 64 = 0 →
      Tab.find s.asids h.asid = some r →
    ∃ s', exec (.bankOperationExecute i) s = .next s' ∧ s'.bankQ = dropAt s.bankQ i ∧
      s'.readPlace (.bank die o) 64 = Line.get (bankLine f (Line.of (s.readPlace (.bank die o) 64)) src) 0 64 ∧
      (∀ e q, ¬(die * 2 ^ 26 + o ≤ e * 2 ^ 26 + q ∧ e * 2 ^ 26 + q < die * 2 ^ 26 + o + 64) →
        s'.readPlace (.bank e q) 1 = s.readPlace (.bank e q) 1) ∧
      (∃ r', Tab.find s'.asids h.asid = some r' ∧ Tab.getD r'.bankDone die [] = Tab.getD r.bankDone die [] ++ [h.n]) ∧
      (∀ n t, s.Canonical → h.order = some n → Tab.find s.threads h.thread = some t → t.status = .ready →
        ∃ u, Tab.find s'.threads h.thread = some u ∧ u.pend = t.pend.map fun p =>
          if p.order = n && p.vals.isNone then { p with vals := some (pairWords (BitVec.ofNat 64 h.n)), flags := 0 } else p)

/-- Cache control (R259): each form of `cctl` but the cell reset acts on its line, or on every line of the ASID, of the core's L1, and the
thread goes on with nothing outstanding.  A write-back leaves the line clean, or gone, and its dirty bytes stand at their home, where no
other byte changes; no other line changes.  Outside the global window no line is written back or dropped; the prefetches fault nowhere.
The model's own here: the L1 is log 20, prefetches are log 65 and codes 2 and 3 of `cctl` make no walk (log 85). -/
def Obligations.CacheControl : Prop :=
  ∀ (s : State) (t : Thread) (a : Src) (m : Bool), Issues s t (Req.any [fa a 2]) →
    let k := s.cur
    let core := s.coreOf k
    let addr := (a.get64 s k t).toNat
    let goes := fun (i : Instr) (q : State → Prop) => ∃ s', exec i s = .next s' ∧ WentOn t s' k (nextPc t.pc (lits1 a)) ∧ q s'
    -- lines that `mine` names are written back: each is afterwards what `left` makes of it, and memory was that of `s1` before
    let writes := fun (s1 : State) (mine : Nat → L1Line → Prop) (left : L1Line → Option L1Line) (s' : State) =>
      (∀ key l, Tab.find s.l1 key = some l → mine key l → Tab.find s'.l1 key = left l ∧
        ∀ i, i < 64 → l.dirty.getLsbD i = true → s'.readMem (key % 2 ^ 35 * 64 + i) 1 = [l.data.extractLsb' (8 * i) 8]) ∧
      (∀ key, (∀ l, Tab.find s.l1 key = some l → ¬mine key l) → Tab.find s'.l1 key = Tab.find s.l1 key) ∧
      ∀ q, (∀ key l, Tab.find s.l1 key = some l → mine key l → key % 2 ^ 35 ≠ q / 64 ∨ l.dirty.getLsbD (q % 64) = false) →
        s'.readMem q 1 = s1.readMem q 1
    let clean := fun (l : L1Line) => some { l with dirty := 0 }
    let gone := fun (_ : L1Line) => (none : Option L1Line)
    (∀ s1 pa, s.locate (s.agent k) addr 1 1 Need.load true = (s1, .ok (.mem pa)) →
      (s.quiet k → (∀ q, s1.queueAt q = none) →
        goes (.cctlWb a m) (writes s1 (fun key _ => key = l1Key core pa) clean) ∧
        goes (.cctlWbinv a m) (writes s1 (fun key _ => key = l1Key core pa) gone)) ∧
      (s1.queueAt pa = none →
        goes (.cctlPf1 a m) (fun s' => Tab.find s'.l1 (l1Key core pa) ≠ none ∧ BytesKept s1 s')) ∧
      goes (.cctlPf2 a m) (fun s' => s'.l1 = s.l1 ∧ BytesKept s1 s')) ∧
    (∀ s1 p, s.locate (s.agent k) addr 1 1 Need.load true = (s1, .ok p) → (∀ pa, p ≠ .mem pa) →
      ∀ i ∈ [Instr.cctlWb a m, .cctlWbinv a m], goes i (fun s' => s'.l1 = s.l1 ∧ BytesKept s s')) ∧
    (∀ p, s.window (s.agent k) addr 1 = some (.place p) → ∀ i ∈ [Instr.cctlWball a m, .cctlWbinvall a m],
      goes i (fun s' => s'.l1 = s.l1 ∧ BytesKept s s')) ∧
    (∀ va, s.window (s.agent k) addr 1 = some (.glob va) → s.quiet k → Tab.rising s.l1 = true → (∀ q, s.queueAt q = none) →
      let mine := fun (key : Nat) (l : L1Line) => key / 2 ^ 35 = core ∧ l.asid = (s.ctxOf k).asid
      goes (.cctlWball a m) (writes s mine clean) ∧ goes (.cctlWbinvall a m) (writes s mine gone)) ∧
    ((∀ s1 p, s.locate (s.agent k) addr 1 1 Need.load true ≠ (s1, .ok p)) →
      goes (.cctlPf1 a m) (fun s' => BytesKept s s' ∧ s'.l1 = s.l1) ∧ goes (.cctlPf2 a m) (fun s' => BytesKept s s' ∧ s'.l1 = s.l1))

/-! ## Wave-convergent instructions -/

/-- A thread that arrives at a convergent instruction while another thread of its wave has neither arrived nor exited waits there: it
does not go on, and but for the clock of the first arrival, which its wave keeps (R123), nothing else changes (R121). -/
def Claim.ConvergentMissing : Prop :=
  ∀ (s : State) (t : Thread) (d : Dst) (a b : Src) (m : Bool),
    let k := s.cur
    s.waitsOff k t = false → (∃ j u, j ≠ k ∧ waveKey j = waveKey k ∧ Tab.find s.threads j = some u ∧ u.status ≠ .exited ∧ u.inConv = false) →
    let waits := fun (i : Instr) (q : Req) (op : ConvOp) (ds : List RegId) (lits : Nat) => Issues s t q →
      ∃ s' first, exec i s = .next s' ∧
        WaitsAt { s with waves := Tab.upd s.waves (waveKey k) fun v => { v with conv := Tab.put v.conv t.pc.toNat first } } s' k t
          (.conv op ds m) lits
    let x := a.get32 s k t
    let d1 := d.dests t.wb.toNat 1
    (∀ f, waits (.shfl d a b f m) (.any [fd d 1, fa a 1, fb b 1]) (.shfl f x (b.get32 s k t)) d1 (lits2 a b)) ∧
    (∀ f, f ≠ .elect → waits (.vote d a f m) (.any [fd d 1, fa a 1]) (.vote f x) d1 (lits1 a)) ∧
    (∀ f, waits (.wred d a f m) (.any [fd d 1, fa a 1]) (.wred f x) d1 (lits1 a)) ∧
    (∀ f, waits (.fwred d a f m) (.vector [fd d 1, fa a 1]) (.fwred f x) d1 (lits1 a)) ∧
    (∀ f, waits (.wscn d a f m) (.any [fd d 1, fa a 1]) (.wscn f x) d1 (lits1 a)) ∧
    waits (.kset d a false m) (.any [fkd d 1, fa a 1]) (.kset false (x.zeroExtend 64)) d1 (lits1 a) ∧
    waits (.ldk d a b false m) (.any [fkd d 1, fa a 2, fb b 1]) (.ldk false (a.get64 s k t + (b.get32 s k t).signExtend 64)) d1 (lits2 a b)

/-- The last thread of a wave arrives: the instruction completes in every participant at once, in lane order, with the values of Table
5-7's functions over the participants, and every participant goes on (R121, R125 to R128).
The model's own here: the order of a group's threads is log 10. -/
def Obligations.ConvergentResults : Prop :=
  ∀ (s : State) (t : Thread) (d : Dst) (a b : Src) (m : Bool), s.Canonical → s.waitsOff s.cur t = false →
    let k := s.cur
    let live := (s.waveThreads (waveKey k)).filter fun e => e.2.status != .exited
    let x := a.get32 s k t
    let y := b.get32 s k t
    let waiting := fun (e : Nat × Thread) => match e.2.status with
      | .waiting (.conv op ds _) lits => (op.a, (match op with | .shfl _ _ b => b | _ => 0), ds, lits)
      | _ => (0, 0, [], 0)
    -- a, b, destinations and literal words of a participant
    let part := fun (lits : Nat) (e : Nat × Thread) => if e.1 = k then (x, y, d.dests t.wb.toNat 1, lits) else waiting e
    let va := fun (e : Nat × Thread) => (part 0 e).1
    let isOp := fun (op : Word → Word → ConvOp) (e : Nat × Thread) =>
      e.2.pc = t.pc ∧ ∃ a' b' ds sw lits, e.2.status = .waiting (.conv (op a' b') ds sw) lits
    let ends := fun (i : Instr) (q : Req) (op : Word → Word → ConvOp) (lits : Nat) (late : Bool) (flags : Word) (val : Nat × Thread → Word) =>
      Issues s t q → (∀ e ∈ live, e.1 ≠ k → isOp op e) →
      ∃ s' first, exec i s = .next s' ∧ BytesKept s s' ∧
        s'.waves = (Tab.upd s.waves (waveKey k) fun v => { v with conv := Tab.put v.conv t.pc.toNat first }) ∧
        ∀ e ∈ live, ∃ u, Tab.find s'.threads e.1 = some u ∧ u.status = .ready ∧ u.pc = nextPc t.pc (part lits e).2.2.2 ∧
          (late = false → u.regs = writeRegs e.2.regs (part lits e).2.2.1 [val e] ∧ u.pend = e.2.pend) ∧
          (late = true → u.regs = e.2.regs ∧ u.pend = outstanding e.2 (part lits e).2.2.1 (some [val e]) flags true none)
    let all := live.map va
    let upTo := fun (incl : Bool) (e : Nat × Thread) =>
      (live.filter fun z => decide (laneOf z.1 < laneOf e.1) || (incl && decide (laneOf z.1 = laneOf e.1))).map va
    let at_ := fun (l : Nat) (own : Word) => match live.find? (fun z => laneOf z.1 == l) with | some z => va z | none => own
    let q1 := Req.any [fd d 1, fa a 1]
    let q2 := Req.any [fd d 1, fa a 1, fb b 1]
    let shf := fun (f : ShflF) (src : Nat × Thread → Option Nat) =>
      ends (.shfl d a b f m) q2 (.shfl f) (lits2 a b) false 0 fun e => match src e with | some l => at_ l (va e) | none => va e
    shf .idx (fun e => some ((part 0 e).2.1.toNat % 32)) ∧
    shf .up (fun e => if (part 0 e).2.1.toNat ≤ laneOf e.1 then some (laneOf e.1 - (part 0 e).2.1.toNat) else none) ∧
    shf .down (fun e => if laneOf e.1 + (part 0 e).2.1.toNat ≤ 31 then some (laneOf e.1 + (part 0 e).2.1.toNat) else none) ∧
    shf .xor (fun e => some (laneOf e.1 ^^^ (part 0 e).2.1.toNat % 32)) ∧
    ends (.vote d a .any m) q1 (fun p _ => .vote .any p) (lits1 a) false 0 (fun _ => if all.any (· != 0) then 1 else 0) ∧
    ends (.vote d a .all m) q1 (fun p _ => .vote .all p) (lits1 a) false 0 (fun _ => if all.all (· != 0) then 1 else 0) ∧
    (∀ v : Word, (∀ l, l < 32 → v.getLsbD l = live.any fun z => laneOf z.1 == l && va z != 0) →
      ends (.vote d a .ballot m) q1 (fun p _ => .vote .ballot p) (lits1 a) false 0 (fun _ => v)) ∧
    (∀ f, ends (.wred d a f m) q1 (fun p _ => .wred f p) (lits1 a) true 0 fun _ => match all with | [] => 0 | z :: r => r.foldl (wred2 f) z) ∧
    (∀ f, ends (.fwred d a f m) (Req.vector [fd d 1, fa a 1]) (fun p _ => .fwred f p) (lits1 a) true (fwredVal f all).flags fun _ =>
      BitVec.ofNat 32 (fwredVal f all).bits) ∧
    ends (.wscn d a .incadd m) q1 (fun p _ => .wscn .incadd p) (lits1 a) true 0 (fun e => (upTo true e).foldl (· + ·) 0) ∧
    ends (.wscn d a .excadd m) q1 (fun p _ => .wscn .excadd p) (lits1 a) true 0 (fun e => (upTo false e).foldl (· + ·) 0) ∧
    ends (.wscn d a .incor m) q1 (fun p _ => .wscn .incor p) (lits1 a) true 0 (fun e => (upTo true e).foldl (· ||| ·) 0) ∧
    ends (.wscn d a .excor m) q1 (fun p _ => .wscn .excor p) (lits1 a) true 0 (fun e => (upTo false e).foldl (· ||| ·) 0) ∧
    ends (.vote d .z .elect m) (Req.any [fd d 1]) (fun p _ => .vote .elect p) 0 false 0
      (fun e => if live.head?.map Prod.fst = some e.1 then 1 else 0)

/-- `kset` and `ldk` complete when the last thread of the wave arrives: the value of the lowest-numbered participant, or the bytes at its
address, fill the wave's k registers, those of `ldk` as a late result of every participant, and every participant goes on (R129, R260,
R261). -/
def Claim.ConvergentConstants : Prop :=
  ∀ (s : State) (t : Thread) (d : Dst) (a b : Src) (m w64 : Bool), s.Canonical → s.waitsOff s.cur t = false →
    let k := s.cur
    let w := if w64 then 2 else 1
    let live := (s.waveThreads (waveKey k)).filter (fun e => e.2.status != .exited)
    -- destinations, literal words and operand of a participant
    let part := fun (lits : Nat) (own : Pair) (e : Nat × Thread) =>
      if e.1 = k then (d.dests t.wb.toNat w, lits, own)
      else match e.2.status with
        | .waiting (.conv (.kset _ x) ds _) n => (ds, n, x)
        | .waiting (.conv (.ldk _ x) ds _) n => (ds, n, x)
        | _ => ([], 0, 0)
    ∀ low r, live = low :: r →
    (Issues s t (Req.any [fkd d w, fa a w]) →
      (∀ e ∈ live, e.1 ≠ k → e.2.pc = t.pc ∧ ∃ x ds sw n, e.2.status = .waiting (.conv (.kset w64 x) ds sw) n) →
      let x := part (lits1 a) (if w64 then a.get64 s k t else (a.get32 s k t).zeroExtend 64)
      let v := (x low).2.2
      ∃ s' first, exec (.kset d a w64 m) s = .next s' ∧ BytesKept s s' ∧
        s'.waves = (Tab.upd s.waves (waveKey k) fun y =>
          { y with conv := Tab.put y.conv t.pc.toNat first
                   kregs := writeKregs y.kregs (x low).1 ([v.extractLsb' 0 32, v.extractLsb' 32 32].take w)
                   kbad := y.kbad.filter fun n => !(x low).1.contains (.k n) }) ∧
        ∀ e ∈ live, ∃ u, Tab.find s'.threads e.1 = some u ∧ u.status = .ready ∧ u.pc = nextPc t.pc (x e).2.1 ∧ u.regs = e.2.regs) ∧
    (∀ (s1 : State) (p : Place), s.quiet low.1 →
      let n := 4 * w
      Issues s t (Req.any [fkd d w, fa a 2, fb b 1]) →
      (∀ e ∈ live, e.1 ≠ k → e.2.pc = t.pc ∧ ∃ x ds sw n, e.2.status = .waiting (.conv (.ldk w64 x) ds sw) n) →
      let x := part (lits2 a b) (a.get64 s k t + (b.get32 s k t).signExtend 64)
      s.locate (s.agent low.1) (x low).2.2.toNat n n Need.load true = (s1, .ok p) →
      s1.badAt low.1 p n = false →
      ∃ s', exec (.ldk d a b w64 m) s = .next s' ∧
        ∀ e ∈ live, ∃ u, Tab.find s'.threads e.1 = some u ∧ u.status = .ready ∧ u.pc = nextPc t.pc (x e).2.1 ∧ u.regs = e.2.regs ∧
          u.pend = outstanding e.2 (x e).1 (some (wordsOf (s1.loadAt low.1 p n).2)) 0 true none)

/-! ## Transfers of control -/

/-- Branches, jumps, calls and returns: the run ends and the thread goes on at the target, or behind the branch that is not taken; a call
writes the address behind it, and the targets of register transfers are checked (R192 to R195). -/
def Claim.TransfersLand : Prop :=
  ∀ (s : State) (t : Thread) (c : Dst) (a : Src) (i : BitVec 17) (j : BitVec 24) (m : Bool),
    let k := s.cur
    let goes := fun (x : Instr) (ds : List RegId) (vs : List Word) (pc : Pair) => CompletesF s t (exec x s) ds vs 0 pc
    let halves := fun (x : Pair) => [x.extractLsb' 0 32, x.extractLsb' 32 32]
    (Issues s t (Req.any [fcr c 1]) →
      goes (.bnz c i) [] [] (if c.get32 t = 0 then t.pc + 4 else t.pc + BitVec.ofInt 64 (4 * i.toInt)) ∧
      goes (.bz c i) [] [] (if c.get32 t = 0 then t.pc + BitVec.ofInt 64 (4 * i.toInt) else t.pc + 4)) ∧
    (Issues s t (Req.any []) → goes (.jmp j) [] [] (t.pc + BitVec.ofInt 64 (4 * j.toInt)) ∧ goes (.land m) [] [] (t.pc + 4)) ∧
    (Issues s t (Req.any [fc c 2]) →
      goes (.call c i) (c.dests t.wb.toNat 2) (halves (t.pc + 4)) (t.pc + BitVec.ofInt 64 (4 * i.toInt))) ∧
    (Issues s t (Req.any [fa a 2]) → (a.get64 s k t).toNat % 4 = 0 → goes (.ret a) [] [] (a.get64 s k t)) ∧
    (Issues s t (Req.any [fa a 2]) → (a.get64 s k t).toNat % 4 ≠ 0 → exec (.ret a) s = .next (s.trapAt k t
      { cause := 0x06, addr := a.get64 s k t, detail := 0, kind := 3, size := 2 }))

/-- `jind` and `calli` go to a target that holds `land`, whatever its marker; a target that does not raises the landing trap, one outside
global memory the address trap and one that is misaligned the alignment trap (R194). -/
def Claim.LandingChecks : Prop :=
  ∀ (s s1 : State) (t : Thread) (d : Dst) (a : Src) (pa : Nat),
    let k := s.cur
    let target := a.get64 s k t
    let trap := fun (x : State) (cause : BitVec 8) (i : Instr) =>
      exec i s = .next (x.trapAt k t { cause := cause, addr := target, detail := 0, kind := 3, size := 2 })
    let both := fun (p : Instr → Prop) => (Issues s t (Req.any [fa a 2]) → p (.jind a)) ∧
      (Issues s t (Req.any [fd d 2, fa a 2]) → p (.calli d a))
    (2 ^ 57 ≤ target.toNat → both (trap s 0x07)) ∧
    (target.toNat < 2 ^ 57 → target.toNat % 4 ≠ 0 → both (trap s 0x06)) ∧
    (target.toNat + 4 ≤ 2 ^ 57 → target.toNat % 4 = 0 → s.imageAt (s.ctxOf k).asid target.toNat = none →
      s.translate (s.agent k) target.toNat Need.fetch = (s1, .ok pa) → s1.poisoned pa 4 = false →
      (s1.memNat pa 4 / 2 * 2 ≠ 0x8FF3E7C0 → both (trap s1 0x05)) ∧
      (s1.memNat pa 4 / 2 * 2 = 0x8FF3E7C0 →
        (Issues s t (Req.any [fa a 2]) → ∃ s', exec (.jind a) s = .next s' ∧ WentOn t s' k target ∧ OthersKept s s' k ∧ BytesKept s1 s') ∧
        (Issues s t (Req.any [fd d 2, fa a 2]) → ∃ s' u, exec (.calli d a) s = .next s' ∧ Tab.find s'.threads k = some u ∧ u.pc = target ∧
          Wrote t u (d.dests t.wb.toNat 2) [(nextPc t.pc (lits1 a)).extractLsb' 0 32, (nextPc t.pc (lits1 a)).extractLsb' 32 32] ∧
          OthersKept s s' k ∧ BytesKept s1 s')))

/-! ## Joins, barriers, ends and waits -/

/-- `join` (R196, R197): of the threads of the wave that wait at the id, the executing one with its mask among them, those go on, each
behind its own join, that belong to a set in which every lane that a member's mask names is the member's own, a lane of the set, or one
without a thread that has not exited; the others wait on.  Lanes outside a mask do not matter to its thread.  While its context stops the thread is
left at the instruction.
No register and no byte of memory changes. -/
def Claim.Joins : Prop :=
  ∀ (s : State) (t : Thread) (a : Src) (id : BitVec 7), s.Canonical → Issues s t (Req.release [fa a 1]) → s.quiet s.cur →
    let k := s.cur
    let threads := s.waveThreads (waveKey k)
    let waitsHere := fun (e : Nat × Thread) (mask : BitVec 32) (lits : Nat) =>
      (e = (k, t) ∧ mask = a.get32 s k t ∧ lits = lits1 a) ∨ (e ∈ threads ∧ e.1 ≠ k ∧ e.2.status = .waiting (.join id mask) lits)
    let closed := fun (r : List Nat) => ∀ x ∈ r, ∃ e mask lits, e.1 = x ∧ waitsHere e mask lits ∧ ∀ l, l < 32 → mask.getLsbD l = true →
      l = laneOf x ∨ l ∈ r.map laneOf ∨ ∀ f ∈ threads, laneOf f.1 = l → f.2.status = .exited
    (s.waitsOff k t = false → ∃ s', exec (.join a id) s = .next s' ∧ BytesKept s s' ∧ s'.waves = s.waves ∧
      ∀ e mask lits, waitsHere e mask lits → ∃ u, Tab.find s'.threads e.1 = some u ∧ u.regs = e.2.regs ∧
        ((∃ r, e.1 ∈ r ∧ closed r) → u.status = .ready ∧ u.pc = nextPc e.2.pc lits) ∧
        ((¬∃ r, e.1 ∈ r ∧ closed r) → u.status = .waiting (.join id mask) lits ∧ u.pc = e.2.pc) ∧
      ∀ e ∈ s.threads, (∀ mask lits, ¬waitsHere e mask lits) → (Tab.find s'.threads e.1).map Thread.lasting = some e.2.lasting) ∧
    (s.waitsOff k t = true → ∃ s', exec (.join a id) s = .next s' ∧ LeftAt s s' k t)

/-- Arrivals at block and gang barriers (R162, R199) of a thread that holds no arrival there whose phase still runs, at an instruction that
has not timed out after its arrival: before the last thread, the barrier counts the arrival in its phase and `arr` goes
on while `sync` waits; with the last one the barrier enters its next phase with nobody arrived, the thread goes on and so do the waiters
of the phase. -/
def Claim.BarrierArrivals : Prop :=
  ∀ (s : State) (t : Thread) (i : Fin 16) (gang : Bool) (b : Block) (c : Ctx), s.Canonical → Issues s t (Req.release []) → s.quiet s.cur →
    let k := s.cur
    let key := if gang then i.val + 16 else i.val
    Tab.find s.blocks (blkOf k) = some b → Tab.find s.ctxs b.ctx = some c → blkOf k ∈ c.blocks →
    (∀ p, Tab.find t.arrivals key = some p → p < (s.barrier k gang i.val).phase) →
    ¬(t.inHandler = false ∧ Tab.find t.again key = some t.pc.toNat) →
    let arr : Instr := if gang then .gbarArr i else .barArr i
    let sync : Instr := if gang then .gbarSync i else .barSync i
    let x := s.barrier k gang i.val
    let wait : Wait := if gang then .gbar i.val x.phase else .bar i.val x.phase
    let others := (if gang then s.ctxThreads b.ctx else s.blockThreads (blkOf k)).filter fun e => e.1 != k
    let here := fun (e : Nat × Thread) => e.2.status = .exited ∨ e.1 ∈ x.arrived
    let gives := fun (j : Instr) (y : Barrier) (status : Status) (pc : Pair) => ∃ s' u, exec j s = .next s' ∧
      s'.barrier k gang i.val = y ∧ Tab.find s'.threads k = some u ∧ u.status = status ∧ u.pc = pc ∧ u.regs = t.regs ∧
      s'.waves = s.waves ∧ (gang = false → BytesKept s s') ∧
      (y.phase = x.phase + 1 → ∀ e ∈ others, ∀ lits, e.2.status = .waiting wait lits →
        ∃ v, Tab.find s'.threads e.1 = some v ∧ v.status = .ready ∧ v.pc = nextPc e.2.pc lits ∧ v.regs = e.2.regs)
    ((∃ e ∈ others, ¬ here e) →
      gives arr { phase := x.phase, arrived := x.arrived ++ [k] } .ready (t.pc + 4) ∧
      gives sync { phase := x.phase, arrived := x.arrived ++ [k] } (.waiting wait 0) t.pc) ∧
    ((∀ e ∈ others, here e) →
      gives arr { phase := x.phase + 1, arrived := [] } .ready (t.pc + 4) ∧
      gives sync { phase := x.phase + 1, arrived := [] } .ready (t.pc + 4))

/-- Waits at block and gang barriers (R162, R199): `wt` goes on at once where the thread has no arrival or its arrival's phase has ended
(an acquire at gang scope for a gang barrier), and waits for that phase otherwise; `arr` and `sync` after an arrival whose phase has not ended wait
for it first, or, where they stand at
the PC at which the thread timed out after its arrival, outside the handler, act as `wt`.
The model's own here: waiting again after a time-out is log 25. -/
def Claim.BarrierWaits : Prop :=
  ∀ (s : State) (t : Thread) (i : Fin 16) (gang : Bool),
    let k := s.cur
    let key := if gang then i.val + 16 else i.val
    let wt : Instr := if gang then .gbarWt i else .barWt i
    let arr : Instr := if gang then .gbarArr i else .barArr i
    let sync : Instr := if gang then .gbarSync i else .barSync i
    let wait := fun (p : Nat) => if gang then Wait.gbar i.val p else .bar i.val p
    let again := t.inHandler = false ∧ Tab.find t.again key = some t.pc.toNat
    let waits := fun (j : Instr) (w : Wait) => ∃ s', exec j s = .next s' ∧ WaitsAt s s' k t w 0
    let passes := fun (j : Instr) => ∃ s' u, exec j s = .next s' ∧ Tab.find s'.threads k = some u ∧
      u.lasting = { t with pc := t.pc + 4, stall := none, order := t.order + 1, again := u.again }.lasting ∧ OnlyThreads s s' ∧ OthersKept s s' k
    let goesOn := fun (j : Instr) => ∃ s' u, exec j s = .next s' ∧ Tab.find s'.threads k = some u ∧ u.pc = t.pc + 4 ∧ u.status = .ready ∧
      u.regs = t.regs ∧ u.arrivals = Tab.del t.arrivals key ∧ OthersKept s s' k ∧
      (gang = true → ∀ q l, Tab.find s'.l1 q = some l → q / 2 ^ 35 = s.coreOf k → l.asid ≠ (s.ctxOf k).asid)
    (Issues s t (Req.any []) →
      (Tab.find t.arrivals key = none → passes wt) ∧
      (∀ p, Tab.find t.arrivals key = some p → (p < (s.barrier k gang i.val).phase → goesOn wt) ∧
        ((s.barrier k gang i.val).phase ≤ p → waits wt (wait p)))) ∧
    (Issues s t (Req.release []) → again → Tab.find t.arrivals key = none → passes arr ∧ passes sync) ∧
    (Issues s t (Req.release []) → ∀ p, Tab.find t.arrivals key = some p →
      (¬again → (s.barrier k gang i.val).phase ≤ p → waits arr (.barFirst gang i.val p false) ∧ waits sync (.barFirst gang i.val p true)) ∧
      (again → (p < (s.barrier k gang i.val).phase → goesOn arr ∧ goesOn sync) ∧
        ((s.barrier k gang i.val).phase ≤ p → waits arr (wait p) ∧ waits sync (wait p))))

/-- How a thread ends, traps and yields (R204 to R207): `exit` leaves it exited in no run, once its results are written; `trap` enters
the handler with the word behind it as trap PC; `brk` enters it at the instruction itself, or, under a debug session, stops the thread;
`phend` waits with its PC as the arrival, and is illegal in a kernel that is not PHASED; `yld` ends the run and the group has used up its runs.
The model's own here: the stall for results is log 23. -/
def Obligations.ThreadEnds : Prop :=
  ∀ (s : State) (t : Thread) (code : BitVec 7), Issues s t (Req.any []) →
    let k := s.cur
    let enters := fun (i : Instr) (cause : BitVec 8) (pc : Pair) (detail : BitVec 32) =>
      (s.ctxOf k).header.handler ≠ 0 → t.inHandler = false →
      ∃ s' u, exec i s = .next s' ∧ Tab.find s'.threads k = some u ∧ u.trap.cause = cause ∧ u.trap.pc = pc ∧ u.trap.faultPc = t.pc ∧
        u.trap.detail = detail ∧ u.trap.addr = 0 ∧ u.inHandler = true ∧ u.status = .ready ∧
        u.pc = (s.ctxOf k).hdrAddr + (s.ctxOf k).header.handler.signExtend 64 ∧ u.regs = t.regs ∧ BytesKept s s'
    (s.Canonical → t.busy = false → (∀ e ∈ t.toks, e.2 = .pending) → (∀ e ∈ s.waveThreads (waveKey k), e.2.inConv = false) →
      ∃ s' u, exec .exit s = .next s' ∧ Tab.find s'.threads k = some u ∧ u.status = .exited ∧ u.regs = t.regs ∧ u.pc = t.pc ∧
        ∀ g x y, s.groupOf k = some (g, x) → Tab.find s'.groups g = some y → k ∉ y.members) ∧
    (t.busy = true → exec .exit s = .next (s.stallAt k t .results)) ∧
    ((s.ctxOf k).header.phased = true → s.waitsOff k t = true → ∃ s', exec .phend s = .next s' ∧ LeftAt s s' k t) ∧
    ((s.ctxOf k).header.phased = true → s.waitsOff k t = false → ∃ s' u, exec .phend s = .next s' ∧ Tab.find s'.threads k = some u ∧
      u.status = .waiting .phend 0 ∧
      Tab.find u.arrivals phendKey = some t.pc.toNat ∧ u.pc = t.pc ∧ u.regs = t.regs ∧ OnlyThreads s s' ∧ OthersKept s s' k) ∧
    ((s.ctxOf k).header.phased = false →
      exec .phend s = .next (s.trapAt k t { cause := 0x01, addr := 0, detail := 0, kind := 0, size := 0 })) ∧
    enters (.trap code) 0x11 (t.pc + 4) (code.zeroExtend 32) ∧
    (s.debugged k = false → enters .brk 0x12 t.pc 0) ∧
    (s.debugged k = true → ∃ s' u, exec .brk s = .next s' ∧ Tab.find s'.threads k = some u ∧ u.status = .stopped ∧ u.pc = t.pc ∧
      u.regs = t.regs ∧ (s.host.evPosted.toNat - s.host.evAck.toNat < 256 → s'.host.evPosted = s.host.evPosted + 1)) ∧
    (∃ s', exec .yld s = .next s' ∧ WentOn { t with yielded := true } s' k (t.pc + 4) ∧ OnlyThreads s s' ∧ OthersKept s s' k ∧
      ∀ g x, s.groupOf k = some (g, x) → x.members = [k] → x.todo = [k] → x.count < 63 →
        ∃ y, Tab.find s'.groups g = some y ∧ y.ended = true ∧ 16 ≤ y.runs)

/-- Timelines (R132, R136, R208): `wait` for a value that has come, or for commands that have all completed, goes on and, for a value other
than 0, has acquired; otherwise it waits, or is left at the instruction while its context stops; a value beyond the block's commands traps; `tlrd`
gives the
value. -/
def Obligations.Timelines : Prop :=
  ∀ (s : State) (t : Thread) (d : Dst) (a : Src) (e : Engine) (m : Bool),
    let k := s.cur
    let waits := fun (i : Instr) (n lits : Nat) =>
      (n ≤ s.timeline k e → ∃ s', exec i s = .next s' ∧ WentOn t s' k (nextPc t.pc lits) ∧ OthersKept s s' k ∧ s'.waves = s.waves ∧
        (0 < n → ∀ q l, Tab.find s'.l1 q = some l → q / 2 ^ 35 = s.coreOf k → l.asid ≠ (s.ctxOf k).asid) ∧ (n = 0 → OnlyThreads s s')) ∧
      (s.timeline k e < n → s.waitsOff k t = false → ∃ s', exec i s = .next s' ∧ WaitsAt s s' k t (.timeline e n) lits) ∧
      (s.timeline k e < n → s.waitsOff k t = true → ∃ s', exec i s = .next s' ∧ LeftAt s s' k t)
    let n := (a.get64 s k t).toNat
    let beyond := (e = .copy ∨ e = .matrix) ∧ s.issued k e < n
    (Issues s t (Req.any []) → waits (.waitAll e) (s.issued k e) 0) ∧
    (Issues s t (Req.any [fa a 2]) → ¬beyond → waits (.waitGe a e) n (lits1 a)) ∧
    (Issues s t (Req.any [fa a 2]) → beyond → exec (.waitGe a e) s = .next (s.trapAt k t
      { cause := 0x13, addr := 0, detail := if e = .copy then 0x30E else 0x80E, kind := 0, size := 0 })) ∧
    (Issues s t (Req.any [fd d 2]) → CompletesV s t (exec (.tlrd d e m) s) (d.dests t.wb.toNat 2)
      (some [BitVec.ofNat 32 (s.timeline k e), BitVec.ofNat 32 (s.timeline k e / 2 ^ 32)]) 0 false (t.pc + 4))

/-! ## Engines -/

/-- Commands to a block's engines (R131, R141, R148, R153, R155): where the checks at issue find nothing, the command takes the next
number of its timeline and stands last in its context, the token pair named by d is pending, and the thread goes on; no register and no
byte changes. -/
def Claim.CommandsIssue : Prop :=
  ∀ (s : State) (t : Thread) (x : Block) (n : Fin 112) (a b : Src) (m : Bool),
    let k := s.cur
    let d : Dst := .v n
    let tok := t.wb.toNat + n.val
    s.quiet k → Tab.find s.blocks (blkOf k) = some x →
    let goes := fun (i : Instr) (lits : Nat) (x' : Block) => ∃ s' u, exec i s = .next s' ∧ Tab.find s'.blocks (blkOf k) = some x' ∧
      Tab.find s'.threads k = some u ∧ u.pc = nextPc t.pc lits ∧ u.status = .ready ∧ u.regs = t.regs ∧ u.pend = t.pend ∧
      u.toks = Tab.put t.toks tok .pending ∧ OthersKept s s' k ∧ BytesKept s s' ∧ s'.waves = s.waves
    let mat := fun (mode : MmaF ⊕ Word) (y z : BitVec 128) =>
      let cmd : MatCmd := { n := x.matN + 1, follow := 0, owner := k, tok := tok, pc := t.pc, mode := mode, cd := quadVal (d.gets t 4),
                            ad := y, bd := z, chunks := 0, offA := [], offB := [], part := none, flags := 0 }
      { x with matN := x.matN + 1, matQ := x.matQ ++ [cmd] }
    let copy := fun (follow mask : Option Pair) =>
      let cmd : CopyCmd := { n := x.copyN + 1, owner := k, tok := tok, pc := t.pc, recAddr := a.get64 s k t, follow := follow, mask := mask,
                             record := none, followDesc := none, done := [], uncredited := [], pos := 0, flags := 0, entered := false,
                             stalled := none, fault := none }
      { x with copyN := x.copyN + 1, copyQ := x.copyQ ++ [cmd] }
    let y := quadVal (a.get128 t)
    let z := quadVal (b.get128 t)
    let okRec := s.checkRecord k (a.get64 s k t).toNat 64 64 3 = none
    let matrix := fun (l : List Fld) => Issues s t { illegal := false, role := 2, flds := ftok d 4 :: l, rel := true }
    let copies := Issues s t { illegal := false, role := 1, flds := [ftok d 2, fa a 2, fb b 2], rel := true }
    (∀ f, matrix [fa a 4, fb b 4] →
      s.checkTiles (blkOf k) (some f) 0 (Desc.of (quadVal (d.gets t 4))) (Desc.of y) (Desc.of z) = none →
        goes (.mma d a b f m) (lits2 a b) (mat (.inl f) y z)) ∧
    (matrix [] → s.checkFill (blkOf k) (Desc.of (quadVal (d.gets t 4))) = none → goes (.mfillZero d m) 0 (mat (.inr 0) 0 0)) ∧
    (matrix [fa a 1] → s.checkFill (blkOf k) (Desc.of (quadVal (d.gets t 4))) = none →
      goes (.mfillSet d a m) (lits1 a) (mat (.inr (a.get32 s k t)) 0 0)) ∧
    (copies → okRec → b = .z → goes (.cpy d a b m) (lits2 a b) (copy none none)) ∧
    (copies → okRec → b ≠ .z → s.checkRecord k (b.get64 s k t).toNat 48 16 4 = none →
      goes (.cpy d a b m) (lits2 a b) (copy (some (b.get64 s k t)) none)) ∧
    (copies → okRec → goes (.cpym d a b m) (lits2 a b) (copy none (some (b.get64 s k t))))

/-- Commands that the checks at issue turn away: a copy record outside the own scratchpad window, misaligned or beyond the allocation, and
a tile that breaks a rule of R140, trap with their reason and part and have no effect (R140, R153, Table 6-2). -/
def Claim.EngineChecks : Prop :=
  ∀ (s : State) (t : Thread) (d : Dst) (a b : Src) (f : MmaF) (m : Bool),
    let k := s.cur
    let addr := a.get64 s k t
    let trap := fun (i : Instr) (x : Pair) (detail : BitVec 32) => exec i s = .next (s.trapAt k t
      { cause := 0x13, addr := x, detail := detail, kind := 0, size := 0 })
    (Issues s t { illegal := false, role := 1, flds := [ftok d 2, fa a 2, fb b 2], rel := true } → ∀ i ∈ [Instr.cpy d a b m, .cpym d a b m],
      (addr.toNat / 2 ^ 56 ≠ 0xF0 → trap i addr 0x306) ∧
      (addr.toNat / 2 ^ 56 = 0xF0 → addr.toNat % 64 ≠ 0 → trap i addr 0x305) ∧
      (addr.toNat / 2 ^ 56 = 0xF0 → addr.toNat % 64 = 0 → (s.ctxOf k).header.scratch < addr.toNat % 2 ^ 56 + 64 → trap i addr 0x307)) ∧
    (Issues s t { illegal := false, role := 2, flds := [ftok d 4, fa a 4, fb b 4], rel := true } →
      let c := Desc.of (quadVal (d.gets t 4))
      let x := Desc.of (quadVal (a.get128 t))
      let y := Desc.of (quadVal (b.get128 t))
      ((c.reserved ≠ 0 ∨ c.verify = true ∨ c.remote = true ∨ 3 ≤ c.kind) → trap (.mma d a b f m) 0 0x001) ∧
      (c.reserved = 0 → c.verify = false → c.remote = false → c.kind < 3 → (x.reserved ≠ 0 ∨ 3 ≤ x.kind) →
        trap (.mma d a b f m) 0 0x101) ∧
      (c.reserved = 0 → c.verify = false → c.remote = false → x.reserved = 0 → x.kind < 3 → y.reserved = 0 → y.kind < 3 → c.kind < 2 →
        trap (.mma d a b f m) 0 0x002))

/-- `ring` (R157): where its checks pass the operation is on its way to the scratchpad, a named token is pending and the thread goes on;
`mck` (R147): the checksum state once the matrix timeline is at the number, cleared where CLR is set; before that it stalls, and a number
beyond the commands issued traps. -/
def Claim.RingsAndChecksums : Prop :=
  ∀ (s : State) (t : Thread) (d : Dst) (a b : Src) (m : Bool),
    let k := s.cur
    let addr := (a.get64 s k t).toNat
    let x := (b.get32 s k t).toNat
    let tok := match d with | .v n => some (t.wb.toNat + n.val) | _ => none
    let sends := fun (i : Instr) (f : Fld) (role : BitVec 3) (kind : RingKind) =>
      Issues s t { illegal := false, role := role, flds := [f, fa a 2, fb b 1], rel := true } → s.quiet k →
      addr / 2 ^ 56 = 0xF0 → addr % 2 ^ 56 + 16 ≤ (s.ctxOf k).header.scratch → addr % 16 = 0 →
      ∃ s' u, exec i s = .next s' ∧
        s'.ringQ = s.ringQ ++ [{ thread := k, off := addr % 2 ^ 56, kind := kind, value := x, tok := tok, pc := t.pc }] ∧
        Tab.find s'.threads k = some u ∧ u.pc = nextPc t.pc (lits2 a b) ∧ u.regs = t.regs ∧ u.status = .ready ∧
        (∀ n, tok = some n → u.toks = Tab.put t.toks n .pending) ∧ (tok = none → u.toks = t.toks) ∧
        OthersKept s s' k ∧ BytesKept s s' ∧ s'.waves = s.waves
    (1 ≤ x → x ≤ 64 → sends (.ringInit d a b m) (fd d 2) 0 .init) ∧ sends (.ringArrive d a b m) (fd d 2) 1 .arrive ∧
    (x ≤ 1 → sends (.ringWait d a b m) (ftok d 2) 0 .wait) ∧ sends (.ringRelease d a b m) (fd d 2) 0 .release ∧
    (∀ (clr : Bool) (y : Block), Issues s t { illegal := false, role := 2, flds := [fd d 2, fa a 2] } → Tab.find s.blocks (blkOf k) = some y →
      (y.matN < addr → exec (.mck d a clr m) s = .next (s.trapAt k t { cause := 0x13, addr := 0, detail := 0x80E, kind := 0, size := 0 })) ∧
      (addr ≤ y.matN → y.matDone < addr → exec (.mck d a clr m) s = .next (s.stallAt k t .mck (regsOf [fd d 2, fa a 2] t))) ∧
      (addr ≤ y.matN → addr ≤ y.matDone → ∃ s' u, exec (.mck d a clr m) s = .next s' ∧ Tab.find s'.threads k = some u ∧
        u.pc = nextPc t.pc (lits1 a) ∧ u.regs = t.regs ∧
        u.pend = outstanding t (d.dests t.wb.toNat 2) (some [y.checksum.extractLsb' 0 32, y.checksum.extractLsb' 32 32]) 0 false none ∧
        Tab.find s'.blocks (blkOf k) = some { y with checksum := if clr then 0 else y.checksum } ∧ BytesKept s s'))

/-- MATRIX_COMMAND_RUN (R131, R139, R142, R148): the oldest command of a block's matrix context ends and counts on its timeline, its token
holds its number, and the C tile holds the fill value, or, for one chunk of 128 BF16 elements a row in a real mode, at row i and column j
the chunk sum of row i of A with row j of B, over the old C value in `acc` (R27 to R31).  A command with a further chunk has completed one
more, and its C tile is not written (R144, R288).  The engine meets no poison and no error in its results.
The model's own here: the order of faults is log 57. -/
def Claim.MatrixCommandRuns : Prop :=
  ∀ (s : State) (blk : Nat) (y : Block) (cmd : MatCmd) (r : List MatCmd), s.Canonical →
    Tab.find s.blocks blk = some y → y.matQ = cmd :: r → s.enginesRun blk = true → cmd.follow = 0 → cmd.n ≠ 0 →
    let c := Desc.of cmd.cd
    let a := Desc.of cmd.ad
    let b := Desc.of cmd.bd
    c.remote = false → 4 * c.kext ≤ c.stride * 64 → Tab.find s.chunkErrs y.core = none →
    let ends := fun (tile : Nat → Nat → Word) => ∃ s', exec (.matrixCommandRun blk) s = .next s' ∧
      (s'.block blk).matQ = r ∧ (s'.block blk).matDone = cmd.n ∧
      (∀ i j, i < c.rows → j < c.kext → (s'.readTile blk c c.kext)[c.kext * i + j]? = some (tile i j)) ∧
      (∀ e, e ≠ blk → (s'.block e).spad = (s.block e).spad) ∧
      (∀ t, Tab.find s.threads cmd.owner = some t → ∃ u, Tab.find s'.threads cmd.owner = some u ∧ Tab.find u.toks cmd.tok = none ∧
        Store.read u.regs cmd.tok = BitVec.ofNat 32 cmd.n ∧ Store.read u.regs (cmd.tok + 1) = (BitVec.ofNat 64 cmd.n).extractLsb' 32 32)
    (∀ w, cmd.mode = .inr w → ends fun _ _ => w) ∧
    (∀ f, cmd.mode = .inl f → s.chunkBad blk cmd f = none → a.kind = 1 → b.kind = 1 → 128 * (cmd.chunks + 1) < a.kext →
      ∃ s' next, exec (.matrixCommandRun blk) s = .next s' ∧ (s'.block blk).matQ = next :: r ∧ next.chunks = cmd.chunks + 1 ∧
        (s'.block blk).matDone = y.matDone ∧ (∀ p n, s'.readPlace p n = s.readPlace p n) ∧ s'.threads = s.threads) ∧
    (∀ f, cmd.mode = .inl f → f = .acc ∨ f = .set → cmd.chunks = 0 → cmd.part = none → s.chunkBad blk cmd f = none →
      a.kind = 1 → b.kind = 1 → a.kext = 128 → b.kext = 128 → a.rows = c.rows →
      b.rows = c.kext → ends fun i j =>
        (chunk (if f = .acc then some ((s.readTile blk c c.kext).getD (c.kext * i + j) 0) else none)
          ((s.operandChunk blk a 0 i 0).1.zip (s.operandChunk blk b 0 j 0).1)).bits)

/-- COPY_COMMAND_RUN (R131, R150, R151): a copy of up to a line between line-aligned places of the issuing block's scratchpad, whose record
is read and checked, moves exactly its bytes; the command leaves its context, counts on its timeline, and its token holds its number.  A
record that breaks a rule ends the command with the engine fault in its token (R134, R152). -/
def Claim.CopyCommandRuns : Prop :=
  ∀ (s : State) (blk n : Nat) (y : Block) (cmd : CopyCmd), s.Canonical → Tab.find s.blocks blk = some y →
    (y.copyQ.find? fun x => x.n == n) = some cmd → s.enginesRun blk = true → cmd.stalled = none → cmd.entered = false → cmd.fault = none → n ≠ 0 →
    let token := fun (s' : State) (v : Pair) (f : Option Token) => ∀ t, Tab.find s.threads cmd.owner = some t → t.status ≠ .exited →
      ∃ u, Tab.find s'.threads cmd.owner = some u ∧ Tab.find u.toks cmd.tok = f ∧
        Store.read u.regs cmd.tok = v.extractLsb' 0 32 ∧ Store.read u.regs (cmd.tok + 1) = v.extractLsb' 32 32
    let ended := fun (s' : State) => (∀ x ∈ (s'.block blk).copyQ, x.n ≠ n) ∧ (s'.block blk).copyDone = y.copyDone ++ [n]
    (∀ (r : CopyRec) (p o : Nat), cmd.record = some r → cmd.follow = none → cmd.followDesc = none → cmd.mask = none → cmd.done = [] →
      cmd.uncredited = [] → cmd.pos = 0 → s.placeBad (.spad blk p) r.rowBytes = false → r.flags = 0 → r.conv = 0 → r.rows = 1 → 1 ≤ r.rowBytes →
        r.rowBytes ≤ 64 →
      r.src = BitVec.ofNat 64 (0xF0 * 2 ^ 56 + p) → r.dst = BitVec.ofNat 64 (0xF0 * 2 ^ 56 + o) → p % 64 = 0 → o % 64 = 0 →
      p + r.rowBytes ≤ (s.ctx y.ctx).header.scratch → o + r.rowBytes ≤ (s.ctx y.ctx).header.scratch →
      (s.ctx y.ctx).header.scratch ≤ 524288 →
      ∃ s', exec (.copyCommandRun blk n) s = .next s' ∧ ended s' ∧ token s' (BitVec.ofNat 64 n) none ∧
        s'.readPlace (.spad blk o) r.rowBytes = s.readPlace (.spad blk p) r.rowBytes ∧
        (∀ q, ¬(o ≤ q ∧ q < o + r.rowBytes) → s'.readPlace (.spad blk q) 1 = s.readPlace (.spad blk q) 1) ∧
        (∀ e q, e ≠ blk → s'.readPlace (.spad e q) 1 = s.readPlace (.spad e q) 1)) ∧
    (∀ reason, cmd.record = none → (∀ t, Tab.find s.threads cmd.owner = some t → t.status ≠ .exited) → s.recordBad blk cmd = none →
      s.checkCopy blk cmd (CopyRec.of (s.readPlace (.spad blk (cmd.recAddr.toNat % 2 ^ 56)) 64)) = some reason →
      ∃ s', exec (.copyCommandRun blk n) s = .next s' ∧ ended s' ∧
        token s' (BitVec.ofNat 64 n ||| 0x8000000000000000) (some (.faulted
          { cause := 0x13, addr := BitVec.ofNat 64 cmd.recAddr.toNat, detail := BitVec.ofNat 32 (reason + 0x300), kind := 4, size := 6 } cmd.pc)))

/-- COPY_PIECE_CREDIT and RING_OP_APPLY on a slot that is not in error (R157, R158): credits and arrivals add to the bytes that have
arrived while they stay below the bytes expected; a release of an empty slot sets the bytes expected; an operation leaves the queue.
The model's own here: a faulted wait's token is log 57. -/
def Claim.RingSlots : Prop :=
  (∀ (s : State) (blk n target g p : Nat) (cmd : CopyCmd) (r : CopyRec),
    ((s.block blk).copyQ.find? fun y => y.n == n) = some cmd → (cmd.uncredited.find? fun x => x.1 == target) = some (g, p) →
    cmd.record = some r → s.enginesRun blk = true →
    let b := s.gangBlock blk g
    let slot := r.ring + 16 + 16 * r.slot
    let have_ := s.ringWord b (slot + 4) + (min r.total (4096 * (p + 1)) - 4096 * p)
    s.waitersHeldUp b = false → s.placeBad (.spad b r.ring) 4 = false → s.placeBad (.spad b slot) 16 = false →
    Tab.find s.blocks b ≠ none → r.slot < s.ringWord b r.ring % 128 → s.ringWord b (slot + 8) / 2 % 2 = 0 → have_ < s.ringWord b slot →
    ∃ s', exec (.copyPieceCredit blk n target) s = .next s' ∧ s'.ringWord b (slot + 4) = have_ ∧ s'.ringWord b slot = s.ringWord b slot ∧
      s'.ringWord b (slot + 8) = s.ringWord b (slot + 8) ∧ ∀ y ∈ (s'.block blk).copyQ, y.n = n → (g, p) ∉ y.uncredited) ∧
  (∀ (s : State) (i : Nat) (r : RingOp), s.ringQ[i]? = some r → (∀ q ∈ s.ringQ.take i, q.thread ≠ r.thread) →
    let b := blkOf r.thread
    s.placeBad (.spad b r.off) 16 = false → s.waitersHeldUp b = false → Tab.find s.blocks b ≠ none → s.ringWord b (r.off + 8) / 2 % 2 = 0 →
    let ends := fun (p : State → Prop) => ∃ s', exec (.ringOpApply i) s = .next s' ∧ s'.ringQ = dropAt s.ringQ i ∧ p s' ∧
      (r.kind ≠ .wait → ∀ n t, r.tok = some n → Tab.find s.threads r.thread = some t →
        ∃ u, Tab.find s'.threads r.thread = some u ∧ Tab.find u.toks n = none ∧ Store.read u.regs n = 0 ∧ Store.read u.regs (n + 1) = 0)
    (r.kind = .arrive → s.ringWord b (r.off + 4) + r.value < s.ringWord b r.off → ends fun s' =>
      s'.ringWord b (r.off + 4) = s.ringWord b (r.off + 4) + r.value ∧ s'.ringWord b r.off = s.ringWord b r.off) ∧
    (r.kind = .release → s.ringWord b r.off = 0 → s.ringWord b (r.off + 4) < r.value → r.value < 2 ^ 32 → ends fun s' =>
      s'.ringWord b r.off = r.value ∧ s'.ringWord b (r.off + 4) = s.ringWord b (r.off + 4)) ∧
    (r.kind = .wait → r.value ≤ 1 → r.value ≠ s.ringWord b (r.off + 8) % 2 → ends fun s' => (s'.block b).waiters = (s.block b).waiters ++
      [{ thread := r.thread, tok := r.tok.getD 0, slot := r.off, want := r.value, pc := r.pc }]) ∧
    (r.kind = .wait → r.value = s.ringWord b (r.off + 8) % 2 → ends fun s' => ∀ n t, r.tok = some n → Tab.find s.threads r.thread = some t →
      ∃ u, Tab.find s'.threads r.thread = some u ∧ Tab.find u.toks n = none ∧ Store.read u.regs n = 1))

/-! ## Registers of a wave, handler registers and system services -/

/-- `winb`, `racq` and `rrel` (R212 to R215), in a thread that makes up its group: the window base; the wave's allocation, raised where
the core's extension budget has room, the registers that join it reading 0, and lowered by a release; targets that the header does not allow
trap on field a. -/
def Obligations.RegisterAllocation : Prop :=
  ∀ (s : State) (t : Thread) (w : Wave) (d : Dst) (a : Src) (m : Bool), s.Canonical →
    let k := s.cur
    let n := (a.get32 s k t).toNat
    let h := (s.ctxOf k).header
    let core := s.coreOf k
    let ok := h.base ≤ n ∧ (n - h.base) % 64 = 0 ∧ n ≤ h.max
    let ds := d.dests t.wb.toNat 1
    let fits := Tab.getD s.racqs core [] = [] ∧ s.extension core + (n - w.alloc) / 64 ≤ 64
    let inside := ∃ r, tokReg d t.wb.toNat = some r ∧ min n (s.allocAt k) ≤ r
    let operand := fun (i : Instr) (f : BitVec 32) => exec i s = .next (s.trapAt k t { cause := 0x02, addr := 0, detail := f, kind := 0, size := 0 })
    let gives := fun (i : Instr) (v : Nat) (alloc : Nat) => ∃ s' u, exec i s = .next s' ∧ Tab.find s'.threads k = some u ∧ u.status = .ready ∧
      u.pc = nextPc t.pc (lits1 a) ∧ (∀ r ∈ ds, ∀ j, r = .v j → Store.read u.regs j = BitVec.ofNat 32 v) ∧
      (∀ j, .v j ∉ ds → j < w.alloc → Store.read u.regs j = Store.read t.regs j) ∧
      (∀ j, .v j ∉ ds → w.alloc ≤ j → j < alloc → Store.read u.regs j = 0) ∧
      Tab.find s'.waves (waveKey k) = some { w with alloc := alloc } ∧ BytesKept s s'
    Tab.find s.waves (waveKey k) = some w → w.alloc ≤ 512 → (∀ g x, s.groupOf k = some (g, x) → x.members = [k] ∧ x.todo = [k]) →
    (Issues s t (Req.any [fa a 1]) →
      (∀ add, let x := n + if add then t.wb.toNat else 0
        (x % 16 = 0 → x ≤ 496 → ∃ s' u, exec (.winb a add m) s = .next s' ∧ Tab.find s'.threads k = some u ∧ u.wb = BitVec.ofNat 16 x ∧
          u.pc = nextPc t.pc (lits1 a) ∧ u.regs = t.regs ∧ OnlyThreads s s' ∧ OthersKept s s' k) ∧
        (¬(x % 16 = 0 ∧ x ≤ 496) → operand (.winb a add m) 1))) ∧
    (Issues s t (Req.any [fd d 1, fa a 1]) →
      (¬ok → (∀ try_, operand (.racq d a try_) 1) ∧ operand (.rrel d a m) 1) ∧
      (ok → s.waitsOff k t = false →
        (n ≤ w.alloc → ∀ try_, gives (.racq d a try_) w.alloc w.alloc) ∧
        (w.alloc < n → fits → ∀ try_, gives (.racq d a try_) n n) ∧
        (w.alloc < n → ¬fits → gives (.racq d a true) w.alloc w.alloc) ∧
        (w.alloc < n → Tab.getD s.racqs core [] = [] → 64 < s.extension core + (n - w.alloc) / 64 →
          ∃ s' u, exec (.racq d a false) s = .next s' ∧ Tab.find s'.threads k = some u ∧ u.status = .waiting (.racq ds n) (lits1 a) ∧
            u.pc = t.pc ∧ Tab.getD s'.racqs core [] = [{ wave := waveKey k, target := n }] ∧ s'.waves = s.waves)) ∧
      (ok → inside → operand (.rrel d a m) 0) ∧
      (ok → ¬inside → w.alloc ≤ n → gives (.rrel d a m) w.alloc w.alloc) ∧
      (ok → ¬inside → n < w.alloc → s.regsBusy k t n w.alloc = true → exec (.rrel d a m) s = .next (s.stallAt k t .rrel (regsOf [fd d 1, fa a 1] t))) ∧
      (ok → ¬inside → n < w.alloc → s.regsBusy k t n w.alloc = false → Tab.getD s.racqs core [] = [] →
        gives (.rrel d a m) n n))

/-- `sysr` and `sysw` in a handler (R280): the trap registers, the image's address and the wave's status as a late result; `sysw` clears
the status bits that its operand names, or sets the trap PC, and changes nothing else. -/
def Claim.HandlerRegisters : Prop :=
  ∀ (s : State) (t : Thread) (w : Wave) (d : Dst) (a : Src) (m : Bool), t.inHandler = true →
    let k := s.cur
    let reads := fun (c : SysR) (v : List Word) => Issues s t (Req.any [fd d v.length]) →
      CompletesV s t (exec (.sysr d c m) s) (d.dests t.wb.toNat v.length) (some v) 0 false (t.pc + 4)
    let halves := fun (x : Pair) => [x.extractLsb' 0 32, x.extractLsb' 32 32]
    Tab.find s.waves (waveKey k) = some w →
    reads .status [w.status] ∧ reads .cause [t.trap.cause.zeroExtend 32] ∧ reads .detail [t.trap.detail] ∧ reads .mask [t.trap.mask] ∧
    reads .pc (halves t.trap.pc) ∧ reads .addr (halves t.trap.addr) ∧ reads .faultPc (halves t.trap.faultPc) ∧
    reads .image (halves (s.ctxOf k).image) ∧
    (Issues s t (Req.any [fa a 1]) → ∃ s', exec (.sysw a .status m) s = .next s' ∧ WentOn t s' k (nextPc t.pc (lits1 a)) ∧
      Tab.find s'.waves (waveKey k) = some { w with status := w.status &&& ~~~(a.get32 s k t) } ∧ OthersKept s s' k ∧ BytesKept s s') ∧
    (Issues s t (Req.any [fa a 2]) → ∃ s' u, exec (.sysw a .pc m) s = .next s' ∧ Tab.find s'.threads k = some u ∧
      u.trap = { t.trap with pc := a.get64 s k t } ∧ u.pc = nextPc t.pc (lits1 a) ∧ u.regs = t.regs ∧ OnlyThreads s s' ∧ OthersKept s s' k)

/-- `sysc` waits for the system controller and SYSC_ANSWER completes it (R282, R410): the version is 1; a post without a message queue, or
to a full one, gives 1 and posts nothing; one with room gives 0, with the message in the slot, PRODUCED counted on and MSI-X 2 where it is
enabled; a prefault gives 0 where every page of the range is resident, and 2 where a page stays refused or the range leaves the address space;
a message that is not aligned, and a message or descriptor that cannot be read, have an answer that is free.  `dbgx` says whether a debug session is
attached, tells the debugger, and asks for a stop of the context (R284).
The model's own here: answers that the manual does not give are log 58. -/
def Obligations.SystemServices : Prop :=
  (∀ (s : State) (t : Thread) (d : Dst) (a : Src), inRelaunch s = false → s.quiet s.cur →
    let k := s.cur
    let ds := d.dests t.wb.toNat 1
    (Issues s t (Req.any [fd d 1]) → ∃ s', exec (.syscVersion d) s = .next s' ∧ WaitsAt s s' k t (.sysc 0 0 ds) 0) ∧
    (Issues s t (Req.any [fd d 1, fa a 2]) →
      ∃ s', exec (.syscPrefault d a) s = .next s' ∧ WaitsAt s s' k t (.sysc 2 (a.get64 s k t) ds) (lits1 a)) ∧
    (Issues s t (Req.release [fd d 1, fa a 2]) →
      (∃ s', exec (.syscPost d a) s = .next s' ∧
        WaitsAt (s.l1Flush (s.coreOf k) (s.ctxOf k).asid) s' k t (.sysc 1 (a.get64 s k t) ds) (lits1 a)))) ∧
  (∀ (s : State) (th : Nat) (t : Thread) (service : BitVec 7) (a : Pair) (ds : List RegId) (lits : Nat) (x : Asid),
    Tab.find s.threads th = some t → t.status = .waiting (.sysc service a ds) lits →
    let asid := (s.ctxOf th).asid
    Tab.find s.asids asid = some x → s.syscBad asid service a.toNat = none →
    let gives := fun (p : Word → State → Prop) => ∃ s' u v, exec (.syscAnswer th) s = .next s' ∧ p v s' ∧ Tab.find s'.threads th = some u ∧
      u.status = .ready ∧ u.pc = nextPc t.pc lits ∧ (∀ n, ds = [.v n] → Store.read u.regs n = v) ∧
      (∀ n, .v n ∉ ds → Store.read u.regs n = Store.read t.regs n) ∧
      ∀ q l, Tab.find s'.l1 q = some l → q / 2 ^ 35 = s.coreOf th → l.asid ≠ asid
    let free := fun (v : Word) (_ : State) => ∃ n, v = (Config.free n).extractLsb' 0 32
    (service = 0 → gives fun v _ => v = 1) ∧
    (service = 1 → x.msgQueue = none → gives fun v s' => v = 1 ∧ s'.mem = (s.acquire th .device).mem) ∧
    (service = 1 → ∀ hdr n s1 c, x.msgQueue = some (hdr, n) → s.fwRead asid (hdr.toNat + 8) 8 = (s1, some c) →
      let used := x.produced - min (natOf c) x.produced
      (used = 2 ^ n → gives fun v s' => v = 1 ∧ (Tab.find s'.asids asid).map Asid.produced = some x.produced ∧ s'.host = s1.host) ∧
      (used ≠ 2 ^ n → a.toNat % 64 ≠ 0 → gives free) ∧
      (used ≠ 2 ^ n → a.toNat % 64 = 0 → (∀ s2, s1.fwRead asid a.toNat 64 = (s2, none) → gives free) ∧
        ∀ s2 s3 s4 b, s1.fwRead asid a.toNat 64 = (s2, some b) →
          s2.fwWrite asid (hdr.toNat + 64 + 64 * (x.produced % 2 ^ n)) b = (s3, true) →
          s3.fwWrite asid hdr.toNat (natBytes 8 (x.produced + 1)) = (s4, true) → gives fun v s' => v = 0 ∧
            (∀ p m, s'.readMem p m = s4.readMem p m) ∧ (Tab.find s'.asids asid).map Asid.produced = some (x.produced + 1) ∧
            s'.host.msix = if s.host.ien.getLsbD 2 then 2 :: s.host.msix else s.host.msix)) ∧
    (service = 2 → (∀ s1, s.fwRead asid a.toNat 16 = (s1, none) → gives free) ∧
      ∀ s1 b, s.fwRead asid a.toNat 16 = (s1, some b) →
        let va := field b 0 8
        let len := field b 8 8
        let pages := fun (p : Nat) => 0 < len ∧ va / 65536 ≤ p / 65536 ∧ p < va + len
        let resident := fun (s : State) (p : Nat) => ∃ at_ e bits, s.leafOf asid p = .leaf at_ e bits ∧ bit e 1 = true
        (2 ^ 57 < va + len → gives fun v _ => v = 2) ∧
        (va + len ≤ 2 ^ 57 → (∀ p, p % 65536 = 0 → pages p → resident s1 p) → gives fun v _ => v = 0) ∧
        (va + len ≤ 2 ^ 57 → (∃ p, p % 65536 = 0 ∧ pages p ∧ ∀ (at_ : Nat) (e : BitVec 64) (bits : Nat), s1.leafOf asid p ≠ .leaf at_ e bits) →
          (∀ p, p % 65536 = 0 → pages p → resident s1 p ∨ ∀ (at_ : Nat) (e : BitVec 64) (bits : Nat), s1.leafOf asid p ≠ .leaf at_ e bits) →
          gives fun v _ => v = 2))) ∧
  (∀ (s : State) (t : Thread) (d : Dst) (a : Src) (m : Bool), Issues s t (Req.any [fd d 1, fa a 1]) →
    let k := s.cur
    let ds := d.dests t.wb.toNat 1
    let on := s.debugged k
    let b := fun (x : Bool) => some [if x then (1 : Word) else 0]
    let pc := nextPc t.pc (lits1 a)
    CompletesV s t (exec (.dbgxQuery d a m) s) ds (b on) 0 false pc ∧
    (on = false → CompletesV s t (exec (.dbgxNotify d a m) s) ds (b true) 0 false pc ∧
      CompletesV s t (exec (.dbgxStop d a m) s) ds (b true) 0 false pc) ∧
    (on = true → s.host.evPosted.toNat - s.host.evAck.toNat < 256 →
      (∃ s', exec (.dbgxNotify d a m) s = .next s' ∧ s'.host.evPosted = s.host.evPosted + 1 ∧
        IssuedV { s with host := s'.host } k t s' ds (b false) 0 false none pc) ∧
      (∀ c, Tab.find s.ctxs (s.block (blkOf k)).ctx = some c → c.state = .running → c.held = false →
        ∃ s' c', exec (.dbgxStop d a m) s = .next s' ∧ Tab.find s'.ctxs (s.block (blkOf k)).ctx = some c' ∧ c'.state = .debugStop ∧
          c'.stopFor = some (s.coreOf k, waveOf k, laneOf k, a.get32 s k t) ∧ s'.host = s.host)))

/-! ## Spawns and the fabric -/

/-- `spawn` of a valid header and identifier in a kernel that is not RELAUNCH (R185, R186, R189): a task of one block is queued on the core,
the launch has one more to complete, and d receives 0; a header that breaks Table 4-3 gives 1 and queues nothing.
The model's own here: the bytes that a spawned task takes are log 59. -/
def Claim.Spawns : Prop :=
  ∀ (s s1 : State) (t : Thread) (d : Dst) (a b : Src) (core m : Bool) (p : Place) (l : Launch) (r : Asid) (waves : Nat) (addr work : Pair),
    Issues s t (Req.release [fd d 1, fa a 4, fb b 4]) → s.quiet s.cur →
    let k := s.cur
    let c := s.ctxOf k
    let s0 := s.l1Flush (s.coreOf k) c.asid
    addr.toNat < 2 ^ 63 → addr.toNat % 64 = 0 → waves < 32 →
    a.get128 t = [BitVec.ofNat 32 (addr.toNat + waves), addr.extractLsb' 32 32, work.extractLsb' 0 32, work.extractLsb' 32 32] →
    s0.locate (s.agent k) addr.toNat 64 64 Need.load true = (s1, .ok p) → s1.badAt k p 64 = false →
    Tab.find s.launches c.launch = some l → Tab.find s.asids l.asid = some r →
    let header := parseHeader (s1.loadAt k p 64).2
    let gives := fun (code : Word) (s' : State) => ∃ u, Tab.find s'.threads k = some u ∧ u.pc = nextPc t.pc (lits2 a b) ∧ u.regs = t.regs ∧
      u.pend = outstanding t (d.dests t.wb.toNat 1) (some [code]) 0 false none
    (header = none → ∃ s', exec (.spawn d a b core m) s = .next s' ∧ gives 1 s' ∧ s'.tasks = s.tasks ∧ s'.launches = s.launches) ∧
    (∀ h, header = some h → c.header.relaunch = false → l.killed = false → waves + 1 ≤ h.waves → waves + 1 ≤ (l.threads + 31) / 32 →
      (∀ i, i < 6 → (i < l.b → idField l.widths work.toNat i = 0) ∧ idField l.widths work.toNat i < l.extents.getD i 1) →
      r.ctxUsed + 64 ≤ r.ctxPool →
      ∃ s' i x, exec (.spawn d a b core m) s = .next s' ∧ gives 0 s' ∧ s'.tasks = Tab.put s.tasks i x ∧
        x.launch = c.launch ∧ x.header = h ∧ x.hdr = addr ∧ x.blocks = 1 ∧ x.core = s.coreOf k ∧ x.pinned = core ∧
        (∃ y, x.kind = .spawn y ∧ y.waves = waves + 1 ∧ y.args = b.get128 t ∧
          y.workId.toNat = work.toNat % 2 ^ (l.widths.foldl (· + ·) 0) % 2 ^ 64) ∧
        (∃ l', Tab.find s'.launches c.launch = some l' ∧ l'.open_ = l.open_ + 1) ∧
        ∃ r', Tab.find s'.asids l.asid = some r' ∧ r'.ctxUsed = r.ctxUsed + 64)

/-- `put`, `get` and a launch put to a member of the domain (R330, R331, R335): the command takes the next number of its timeline, its
message goes out with the source bytes read, its token is pending and the thread goes on; a module that does not answer faults the token
with reason 0x02 (R332).
The model's own here: the domain is log 4, the port is log 2 and the order of checks is log 54. -/
def Claim.PutsAndGets : Prop :=
  ∀ (s : State) (t : Thread) (n : Fin 112) (a b : Src) (m : Bool) (r : Asid) (addr : Pair) (len module handle : Nat), s.Canonical →
    let k := s.cur
    let d : Dst := .v n
    let tok := t.wb.toNat + n.val
    let die := dieOf (s.coreOf k)
    let asid := (s.ctxOf k).asid
    inRelaunch s = false → s.quiet k → module < 512 → handle < 4096 → 1 ≤ len → len ≤ 2 ^ 24 →
    a.get128 t = [addr.extractLsb' 0 32, addr.extractLsb' 32 32, BitVec.ofNat 32 len, BitVec.ofNat 32 (module + 65536 * handle)] →
    Tab.find s.asids asid = some r → s.module ≠ some module →
    let number := Tab.getD r.portN die 0 + 1
    let sends := fun (i : Instr) (flds : List Fld) (lits kind : Nat) (msg : OutMsg) => Issues s t (Req.release (ftok d 2 :: fa a 4 :: flds)) →
      (s.domain.contains module = true → s.upPorts die ≠ [] → ∃ s' u j tx r', exec i s = .next s' ∧ s'.outbox = msg :: s.outbox ∧
        Tab.find s'.txs j = some tx ∧ tx.thread = k ∧ tx.kind = kind ∧ tx.n = number ∧ tx.sent = true ∧ tx.tok = tok ∧
        Tab.find s'.asids asid = some r' ∧ Tab.getD r'.portN die 0 = number ∧
        Tab.find s'.threads k = some u ∧ u.pc = nextPc t.pc lits ∧ u.regs = t.regs ∧ u.toks = Tab.put t.toks tok .pending ∧ BytesKept s s') ∧
      (s.domain.contains module = false → ∃ s' u f pc, exec i s = .next s' ∧ s'.outbox = s.outbox ∧ Tab.find s'.threads k = some u ∧
        Tab.find u.toks tok = some (.faulted f pc) ∧ f.cause = 0x14 ∧
        f.detail = BitVec.ofNat 32 (2 + 256 * module + 2 ^ 20 * handle) ∧ pc = t.pc)
    let offset := b.get64 s k t
    let own := fun (p : Nat) => addr = BitVec.ofNat 64 (0xF0 * 2 ^ 56 + p) ∧ p % 64 = 0 ∧ p + len ≤ (s.ctxOf k).header.scratch ∧
      (s.ctxOf k).header.scratch ≤ 524288 ∧ s.placeBad (.spad (blkOf k) p) len = false
    (∀ p, s.windowOf asid handle ≠ none → own p → len ≤ 64 →
      sends (.putWin d a b m) [fb b 2] (lits2 a b) 0 (.put module handle offset (s.readPlace (.spad (blkOf k) p) len))) ∧
    (∀ p, own p → len = 128 → sends (.putLaunch d a m) [] (lits1 a) 2 (.launch module handle (s.readPlace (.spad (blkOf k) p) 128))) ∧
    (s.windowOf asid handle ≠ none → localOk addr.toNat = true →
      sends (.get d a b m) [fb b 2] (lits2 a b) 1 (.get module handle offset len))

/-- `wcnt` (R333): the reading forms give the counter of the window; the waiting forms, once the counter has reached b, acquire and give it,
and stall in place before; a handle without a window of the ASID traps; a stall beyond the time-out traps with reason 0x08. -/
def Claim.WindowCounters : Prop :=
  (∀ (s : State) (t : Thread) (d : Dst) (a b : Src) (m : Bool),
    let k := s.cur
    let h := (a.get32 s k t).toNat
    let ds := d.dests t.wb.toNat 2
    let halves := fun (x : Pair) => some [x.extractLsb' 0 32, x.extractLsb' 32 32]
    let r := Req.any [fd d 2, fa a 1]
    let q := Req.any [fd d 2, fa a 1, fb b 2]
    (∀ w, h < 4096 → Tab.find s.windows h = some w → w.asid = (s.ctxOf k).asid →
      let waits := fun (i : Instr) (c : Pair) => Issues s t q →
        ((b.get64 s k t).toNat ≤ c.toNat → ∃ s', exec i s = .next s' ∧
          IssuedV (s.l1Invalidate (s.coreOf k) (s.ctxOf k).asid) k t s' ds (halves c) 0 false none (nextPc t.pc (lits2 a b))) ∧
        (c.toNat < (b.get64 s k t).toNat → exec i s = .next (s.stallAt k t (.wcnt h) (regsOf [fd d 2, fa a 1, fb b 2] t)))
      (Issues s t r → CompletesV s t (exec (.wcntRdo d a m) s) ds (halves w.origin) 0 false (nextPc t.pc (lits1 a)) ∧
        CompletesV s t (exec (.wcntRdt d a m) s) ds (halves w.target) 0 false (nextPc t.pc (lits1 a))) ∧
      waits (.wcntWto d a b m) w.origin ∧ waits (.wcntWtt d a b m) w.target) ∧
    ((∀ w, Tab.find s.windows h = some w → w.asid ≠ (s.ctxOf k).asid) →
      let trap := fun (i : Instr) => exec i s = .next (s.trapAt k t
        { cause := 0x14, addr := 0, detail := BitVec.ofNat 32 (1 + 2 ^ 20 * (h % 4096)), kind := 0, size := 0 })
      (Issues s t r → trap (.wcntRdo d a m) ∧ trap (.wcntRdt d a m)) ∧
      (Issues s t q → trap (.wcntWto d a b m) ∧ trap (.wcntWtt d a b m)))) ∧
  (∀ (s : State) (th h since : Nat) (t : Thread), Tab.find s.threads th = some t → t.stall = some (.wcnt h, since) → h < 4096 →
    clocksOf (s.ctxOf th).header.timeout < s.clock - since →
    exec (.counterWaitTimeout th) s = .next (s.trapAt th { t with stall := none }
      { cause := 0x14, addr := 0, detail := BitVec.ofNat 32 (8 + 2 ^ 20 * h), kind := 0, size := 0 }))

/-- What arrives over the fabric (R326, R328, R329, R331, R335): a put or get without a window that admits it is answered with its reason
and changes nothing; a put that lands adds its length to the target counter and is answered with 0; a reply completes the command's token,
a put's adding to the origin counter, and one with a reason faults it: reasons 0x03 to 0x05 report the access at the target offset, a put's
write (kind 5) or a get's read (kind 4), the others no address and the kind of the local access; a packet for no queue is dropped and acknowledged.
The model's own here: messages as events are log 54. -/
def Claim.FabricMessages : Prop :=
  ∀ (s : State) (x : PeerTx) (i : Nat) (tx : FabricTx) (w : Window),
    s.starved = false →
    let only := fun (s' : State) => s' = { s with outbox := s'.outbox, ports := s'.ports, picks := s'.picks }
    let answers := fun (e : Instr) (msg : OutMsg) => ∃ s', exec e s = .next s' ∧ s'.outbox = msg :: s.outbox ∧ only s'
    (x.bytes.length = x.len →
      (Tab.find s.windows x.handle = none ∨ Tab.find s.windows x.handle = some w ∧ w.canPut = false →
        answers (.putTargetReceive x) (.ack x.origin 3)) ∧
      (Tab.find s.windows x.handle = some w → w.canPut = true → w.len < x.offset + x.len → answers (.putTargetReceive x) (.ack x.origin 4))) ∧
    (1 ≤ x.len → Tab.find s.windows x.handle = none ∨ Tab.find s.windows x.handle = some w ∧ w.canGet = false →
      answers (.getTargetRead x) (.getData x.origin 3 [])) ∧
    (1 ≤ x.len → Tab.find s.windows x.handle = some w → w.canGet = true → w.len < x.offset + x.len → answers (.getTargetRead x) (.getData x.origin 4 [])) ∧
    (∀ s1 pa, x.bytes.length = x.len → Tab.find s.windows x.handle = some w → w.canPut = true → x.offset + x.len ≤ w.len →
      1 ≤ x.len → (w.base.toNat + x.offset) % 65536 + x.len ≤ 65536 → (∀ q, s1.queueAt q = none) →
      s.fwReach w.asid 0 (w.base.toNat + x.offset) (min x.len 64) Need.engineWrite = (s1, .ok pa) → s1.windows = s.windows → s1.starved = false →
      ∃ s' w', exec (.putTargetReceive x) s = .next s' ∧ s'.readMem pa x.len = x.bytes ∧ Tab.find s'.windows x.handle = some w' ∧
        w'.target = w.target + BitVec.ofNat 64 x.len ∧ w'.origin = w.origin ∧ s'.outbox = .ack x.origin 0 :: s1.outbox) ∧
    (∀ q bytes, bytes.length = 128 → Tab.find s.queues q = none →
      ∃ s', exec (.peerLaunchReceive x.origin q bytes) s = .next s' ∧ s'.outbox = .ack x.origin 0 :: s.outbox ∧ s'.tasks = s.tasks ∧
        s'.launches = s.launches) ∧
    (s.Canonical → Tab.find s.txs i = some tx → tx.sent = true → tx.data = none → tx.fault = none →
      let token := fun (s' : State) (v : Pair) (f : Option Token) => ∀ t, Tab.find s.threads tx.thread = some t → t.status ≠ .exited →
        ∃ u, Tab.find s'.threads tx.thread = some u ∧ Tab.find u.toks tx.tok = f ∧ Store.read u.regs tx.tok = v.extractLsb' 0 32
      (tx.kind = 0 → ∃ s', exec (.putAckReceive i .ok) s = .next s' ∧ Tab.find s'.txs i = none ∧ token s' (BitVec.ofNat 64 tx.n) none ∧
        ∀ w, Tab.find s.windows tx.handle = some w → ∃ w', Tab.find s'.windows tx.handle = some w' ∧ w'.origin = w.origin + BitVec.ofNat 64 tx.len) ∧
      (∀ reason : BitVec 8, (∀ t, Tab.find s.threads tx.thread = some t → t.status ≠ .exited) →
        let far := 3 ≤ reason.toNat ∧ reason.toNat ≤ 5
        let f := some (Token.faulted { cause := 0x14, addr := if far then tx.offset else 0, detail := BitVec.ofNat 32 (reason.toNat +
          256 * (tx.module % 512) + 2 ^ 20 * (tx.handle % 4096)), kind := if far ↔ tx.kind = 1 then 4 else 5, size := 6 } tx.pc)
        (tx.kind = 0 → ∃ s', exec (.putAckReceive i (.reason reason)) s = .next s' ∧ Tab.find s'.txs i = none ∧
          token s' (BitVec.ofNat 64 tx.n ||| 0x8000000000000000) f) ∧
        (tx.kind = 1 → ∃ s', exec (.getDataLand i (.reason reason) []) s = .next s' ∧ Tab.find s'.txs i = none ∧
          token s' (BitVec.ofNat 64 tx.n ||| 0x8000000000000000) f)))

/-- The far sides of a get and of a launch put have their own effect (R328, R329, R331, R334, R335): a get that a window admits, and whose
page is reached without poison, is answered with the bytes at its home; the data of a get lands in the issuing block's scratchpad, adds to
the origin counter and completes the token; a packet that an access-control entry admits fills the queue's next empty slot whole, waits
there where an earlier slot is not complete and is accepted at once otherwise, and the origin is answered in every case. -/
def Claim.FabricEffects : Prop :=
  (∀ (s s1 : State) (x : PeerTx) (w : Window) (pa : Nat), Tab.find s.windows x.handle = some w → w.canGet = true → 1 ≤ x.len →
    x.offset + x.len ≤ w.len → (w.base.toNat + x.offset) % 65536 + x.len ≤ 65536 →
    s.fwReach w.asid 0 (w.base.toNat + x.offset) (min x.len 64) Need.engineRead = (s1, .ok pa) → s1.poisoned pa x.len = false →
    ∃ s', exec (.getTargetRead x) s = .next s' ∧ s'.outbox = .getData x.origin 0 (s1.readMem pa x.len) :: s1.outbox ∧
      s' = { s1 with outbox := s'.outbox, ports := s'.ports, picks := s'.picks }) ∧
  (∀ (s : State) (i p : Nat) (tx : FabricTx) (y : Block) (w : Window) (bytes : List Byte), s.Canonical →
    Tab.find s.txs i = some tx → tx.kind = 1 → tx.sent = true → tx.data = none → tx.fault = none → bytes.length = tx.len →
    Tab.find s.blocks (blkOf tx.thread) = some y → tx.local_ = BitVec.ofNat 64 (0xF0 * 2 ^ 56 + p) →
    p + tx.len ≤ (s.ctx y.ctx).header.scratch → (s.ctx y.ctx).header.scratch ≤ 524288 → Tab.find s.windows tx.handle = some w →
    ∃ s' w', exec (.getDataLand i .ok bytes) s = .next s' ∧ s'.readPlace (.spad (blkOf tx.thread) p) tx.len = bytes ∧
      (∀ q, ¬(p ≤ q ∧ q < p + tx.len) →
        s'.readPlace (.spad (blkOf tx.thread) q) 1 = s.readPlace (.spad (blkOf tx.thread) q) 1) ∧
      Tab.find s'.txs i = none ∧ Tab.find s'.windows tx.handle = some w' ∧ w'.origin = w.origin + BitVec.ofNat 64 tx.len ∧
      w'.target = w.target ∧
      ∀ t, Tab.find s.threads tx.thread = some t → ∃ u, Tab.find s'.threads tx.thread = some u ∧ Tab.find u.toks tx.tok = none ∧
        Store.read u.regs tx.tok = (BitVec.ofNat 64 tx.n).extractLsb' 0 32) ∧
  (∀ (s : State) (origin i : Nat) (q : LaunchQ) (bytes : List Byte) (j n : Nat) (e : BitVec 64), bytes.length = 128 →
    Tab.find s.queues i = some q → q.closed = false → q.collective = false →
    (n, e) ∈ s.access → n < 4096 → aclAdmits e origin i q.asid = true →
    j < 512 → (∀ m, m < j → Tab.find q.written ((q.next + m) % 512) ≠ none) → Tab.find q.written ((q.next + j) % 512) = none →
    let slot := (q.next + j) % 512
    let filled := q.write ((bytes.zipIdx).map fun (x, m) => (128 * slot + m, x)) none
    let s1 : State := { s with queues := Tab.put s.queues i filled }
    let answered := fun (s2 : State) => ∃ s', exec (.peerLaunchReceive origin i bytes) s = .next s' ∧ s'.outbox = .ack origin 0 :: s2.outbox ∧
      s' = { s2 with outbox := s'.outbox, ports := s'.ports, picks := s'.picks }
    Store.reads filled.bytes (128 * slot) 128 = bytes ∧ filled.full slot = true ∧ filled.overruns = q.overruns ∧
    (1 ≤ j → filled.full q.next = false → answered s1) ∧
    (j = 0 → q.next < 512 → ∀ s2 q2, s1.acceptSlot i filled = some s2 → s2.starved = false → Tab.find s2.queues i = some q2 →
      q2.full q2.next = false → answered s2))

/-- Links (R325, R326): a flit whose CRC-32C and sequence number are right is accepted and the next number expected; any other goes unread
and a retry request goes out, and where its CRC fails, the flit expected has failed once more; a retry request counts how often in a row the other
end asks for the
same flit; 16 failures in a row at either end retrain the link, and a training that fails takes it down.
The model's own here: flits that are kept are log 54. -/
def Claim.Links : Prop :=
  ∀ (s : State) (port : Nat) (p : Port) (flit : BitVec 2048), Tab.find s.ports port = some p →
    let good := crc32c (bytesOf 252 flit) = flit.extractLsb' 2016 32 ∧ flit.extractLsb' 0 16 = p.expect
    let gives := fun (e : Instr) (q : Port) (out : List OutMsg) =>
      exec e s = .next { s with ports := Tab.put s.ports port q, outbox := out }
    (p.up = true → p.retraining = false →
      (good → ∃ q, gives (.flitReceive port flit) q s.outbox ∧ q.expect = p.expect + 1 ∧ q.fails = 0 ∧ q.up = true ∧
        (flit.extractLsb' 16 2, flit.extractLsb' 96 1920) ∈ q.inbox ∧
        (flit.extractLsb' 18 2 = 1 → let n := Config.retrySeq (flit.extractLsb' 96 1920)
          (∀ m, p.asked = some (n, m) → q.asked = some (n, m + 1)) ∧ ((∀ m, p.asked ≠ some (n, m)) → q.asked = some (n, 1)))) ∧
      (¬good → ∃ q, gives (.flitReceive port flit) q (.retry port p.expect :: s.outbox) ∧ q.expect = p.expect ∧
        q.fails = (if crc32c (bytesOf 252 flit) = flit.extractLsb' 2016 32 then p.fails else p.fails + 1) ∧
        q.up = true ∧ q.inbox = p.inbox ∧
        (p.queued = [] → q.wire = mkFlit p.seqOut 0x7 (Config.retryPayload p.expect) :: p.wire ∧ q.seqOut = p.seqOut + 1)) ∧
      (16 ≤ p.fails ∨ (∃ n m, p.asked = some (n, m) ∧ 16 ≤ m) → gives (.linkRetrain port) { p with retraining := true } s.outbox)) ∧
    (p.retraining = true →
      (∃ q, gives (.linkRetrainingEnd port true) q s.outbox ∧ q.retraining = false ∧ q.fails = 0 ∧ q.asked = none ∧ q.up = p.up ∧ q.expect = p.expect ∧
        q.inbox = p.inbox) ∧
      ∃ s' q, exec (.linkRetrainingEnd port false) s = .next s' ∧ Tab.find s'.ports port = some q ∧ q.up = false ∧
        ∀ i tx, Tab.find s'.txs i = some tx → tx.sent = true → tx.data = none → tx.fault = none → tx.port ≠ port)

/-! ## Populations -/

/-- What a bound thread reads of its particle and population (R303 to R305, R312): the log-weight in Q31.32 and as FP32, parent and
generation, the codes of Table 17-6, and the Philox words of its counter and the population's seed; an unbound thread traps, but for its
binding, once no fault of an earlier instruction is outstanding (R411). -/
def Claim.PopulationReads : Prop :=
  ∀ (s : State) (t : Thread) (d : Dst) (a : Src) (m : Bool),
    let k := s.cur
    let halves := fun (x : Pair) => [x.extractLsb' 0 32, x.extractLsb' 32 32]
    let d1 := [fd d 1]
    let d2 := [fd d 2]
    (∀ h slot p x, t.binding = some (h, slot) → t.cut = false → Tab.find s.pops h = some p → Tab.find p.parts slot = some x →
      let gives := fun (i : Instr) (flds : List Fld) (lits : Nat) (v : List Word) => Issues s t (Req.any flds) →
        CompletesV s t (exec i s) (d.dests t.wb.toNat v.length) (some v) 0 false (nextPc t.pc lits)
      let lw : Int := if x.dead then -(2 ^ 63) else if x.pinf then 2 ^ 63 - 1 else min (2 ^ 63 - 1) (max (-(2 ^ 63)) x.l)
      gives (.wrd d false m) d2 0 (halves (BitVec.ofInt 64 lw)) ∧
      gives (.wrd d true m) d1 0 [if x.dead then 0xFF800000 else BitVec.ofNat 32 (intToFp32 lw (-32)).bits] ∧
      gives (.ppar d false m) d1 0 [BitVec.ofNat 32 x.parent] ∧ gives (.ppar d true m) d1 0 [x.generation] ∧
      gives (.pst d .status m) d1 0 [p.word] ∧ gives (.pst d .n m) d1 0 [BitVec.ofNat 32 p.n] ∧ gives (.pst d .z m) d2 0 (halves p.z) ∧
      gives (.pst d .stateVa m) d2 0 (halves (BitVec.ofNat 64 (p.base.toNat + 65536 * p.k * slot))) ∧
      gives (.pst d .index m) d2 0 (halves p.index) ∧ gives (.pst d .seed m) d2 0 (halves p.seed) ∧
      gives (.pst d .binding m) d1 0 [BitVec.ofNat 32 (slot + 65536 * h)] ∧
      gives (.pst d .flags m) d1 0 [BitVec.ofNat 32 ((if x.dead then 1 else 0) +
        (if !x.dead && (x.pinf || decide (lw ≠ x.l)) then 2 else 0) + (if x.cut then 4 else 0))] ∧
      gives (.pst d .s m) d2 0 (halves p.lastS) ∧ gives (.pst d .lmax m) d2 0 (halves p.lastLmax) ∧
      (∀ c0 c1 c2 c3, a.get128 t = [c0, c1, c2, c3] →
        gives (.rng d a false m) [fd d 4, fa a 4] (lits1 a) (philox c0 c1 c2 c3 p.seed)) ∧
      (let c := halves (a.get64 s k t)
       let r := philox (c.getD 0 0) (c.getD 1 0) (BitVec.ofNat 32 slot) (p.index.extractLsb' 0 32) p.seed
       gives (.rng d a true m) [fd d 4, fa a 2] (lits1 a) r)) ∧
    (t.binding = none →
      let trap := fun (i : Instr) (flds : List Fld) => Issues s t (Req.any flds) → exec i s = .next (if t.faulty then s.stallAt k t .results
        else s.trapAt k t { cause := 0x10, addr := 0, detail := 0x0FFF04, kind := 0, size := 0 })
      trap (.wrd d false m) d2 ∧ trap (.ppar d false m) d1 ∧ trap (.pst d .n m) d1 ∧ trap (.pctlItend d m) d1 ∧
      (Issues s t (Req.any d1) → CompletesV s t (exec (.pst d .binding m) s) (d.dests t.wb.toNat 1) (some [0xFFFFFFFF]) 0 false (t.pc + 4)))

/-- What population instructions do (R297, R301, R302, R306, R307): `pbind` binds to a slot of a running population of the ASID, or
unbinds; `wadd` moves the exact accumulator, kills for a NaN or -infinity and pins for +infinity; the codes of `pctl` count an arrival, kill,
and set threshold and test draw at the home module; `parv` counts the arrival and waits, or waits for the next episode where the particle has made its
arrivals, or traps unbound or cut, each once no fault of an earlier instruction is outstanding (R411).  The last arrival fixes the log-weights and
the draw of the resample (R292, R307).  A cut particle's thread is
told by a late fault and loses its binding (R299, R317). -/
def Claim.PopulationUpdates : Prop :=
  ∀ (s : State) (t : Thread) (d : Dst) (a b : Src) (m : Bool),
    let k := s.cur
    let ab := Req.any [fa a 1, fb b 1]
    let h' := (a.get32 s k t).toNat
    let slot' := (b.get32 s k t).toNat
    let d1 := d.dests t.wb.toNat 1
    (Issues s t ab → t.cut = false →
      (∀ p, h' < 4096 → Tab.find s.pops h' = some p → p.asid = (s.ctxOf k).asid → p.state = .running ∨ p.state = .paused → slot' < p.n →
        s.ownsSlot p slot' = true → ∃ s' u, exec (.pbind a b m) s = .next s' ∧ Tab.find s'.threads k = some u ∧
          u.binding = some (h', slot') ∧ u.pc = nextPc t.pc (lits2 a b) ∧ u.regs = t.regs ∧ OnlyThreads s s' ∧ OthersKept s s' k) ∧
      (h' = 0xFFFFFFFF → ∃ s' u, exec (.pbind a b m) s = .next s' ∧ Tab.find s'.threads k = some u ∧ u.binding = none ∧
        u.pc = nextPc t.pc (lits2 a b) ∧ u.regs = t.regs ∧ OnlyThreads s s' ∧ OthersKept s s' k) ∧
      (h' < 4096 → Tab.find s.pops h' = none → ∃ s', exec (.pbind a b m) s = .next s' ∧ IssuedV s k t s' [] (some []) 0 false
        (some { cause := 0x10, addr := 0, detail := BitVec.ofNat 32 (1 + 256 * h'), kind := 0, size := 0 }) (nextPc t.pc (lits2 a b)))) ∧
    (∀ h slot p x, t.binding = some (h, slot) → Tab.find s.pops h = some p → Tab.find p.parts slot = some x →
      (s.ctxOf k).header.relaunch = false →
      let becomes := fun (i : Instr) (flds : List Fld) (lits : Nat) (ds : List RegId) (v : List Word) (q : Population) =>
        Issues s t (Req.any flds) → ∃ s', exec i s = .next s' ∧ Tab.find s'.pops h = some q ∧ (∀ g, g ≠ h → Tab.find s'.pops g = Tab.find s.pops g) ∧
          IssuedV { s with pops := s'.pops } k t s' ds (some v) 0 false none (nextPc t.pc lits)
      let part := fun (y : Particle) => { p with parts := Tab.upd p.parts slot fun _ => y }
      let draws := fun (u : Option Word) =>
        let q : Population := { p with draw := u, snap := p.snap.map fun (y : Snapshot) => { y with redrawn := y.started || y.redrawn } }
        q
      let w := a.get32 s k t
      let late := fun (i : Instr) (flds : List Fld) (lits : Nat) (ds : List RegId) (reason place : Nat) (t' : Thread) => Issues s t (Req.any flds) →
        ∃ s', exec i s = .next s' ∧ IssuedV s k t' s' ds (some []) 0 false
          (some { cause := 0x10, addr := BitVec.ofNat 64 place, detail := BitVec.ofNat 32 (reason + 256 * h), kind := 0, size := 0 }) (nextPc t.pc lits)
      (t.cut = true → late (.pctlItend d m) [fd d 1] 0 d1 6 slot { t with binding := none, cut := false }) ∧
      (t.cut = false → p.state = .draining → (∀ i ∈ [Instr.pctlItend d m, .pctlKill d m, .pctlUndraw d m], becomes i [fd d 1] 0 d1 [0] p) ∧
        becomes (.wadd a m) [fd .z 1, fa a 1] (lits1 a) [] [] p ∧
        (Issues s t { illegal := inRelaunch s, role := 0, flds := [fd d 1] } → t.faulty = false → ∀ f,
          CompletesF s t (exec (.parv d f) s) d1 [3] 0 (t.pc + 4))) ∧
      (t.cut = false → p.state ≠ .draining →
        (p.arrivedBy.contains k = true → becomes (.wadd a m) [fd .z 1, fa a 1] (lits1 a) [] [] { p with held := p.held ++ [(slot, w)] }) ∧
        (p.arrivedBy.contains k = false → becomes (.wadd a m) [fd .z 1, fa a 1] (lits1 a) [] [] (part (
          if x.dead then x
          else match fp32 w with
            | .nan _ => { x with dead := true } | .inf true => { x with dead := true } | .inf false => { x with pinf := true }
            | v => { x with l := x.l + quantise v (-32) }))) ∧
        becomes (.pctlKill d m) [fd d 1] 0 d1 [0] (part { x with dead := true }) ∧
        (x.arrivals < p.a → becomes (.pctlItend d m) [fd d 1] 0 d1 [0]
          (Population.settle (let q := part { x with arrivals := x.arrivals + 1 }; { q with arrivedBy := p.arrivedBy ++ [k] }))) ∧
        (p.a ≤ x.arrivals → late (.pctlItend d m) [fd d 1] 0 d1 5 slot t) ∧
        (s.memberIndex p = some 0 →
          (w.toNat < 65536 → becomes (.pctlTheta d a m) [fd d 1, fa a 1] (lits1 a) d1 [0] { p with theta := w.extractLsb' 0 16 }) ∧
          becomes (.pctlDraw d a m) [fd d 1, fa a 1] (lits1 a) d1 [0] (draws (some w)) ∧
          becomes (.pctlUndraw d m) [fd d 1] 0 d1 [0] (draws none)) ∧
        (65536 ≤ w.toNat → late (.pctlTheta d a m) [fd d 1, fa a 1] (lits1 a) d1 7 0 t) ∧
        (Issues s t { illegal := inRelaunch s, role := 0, flds := [fd d 1] } → t.faulty = false → ∀ f, x.arrivals < p.a →
          ∃ s' u q, exec (.parv d f) s = .next s' ∧ Tab.find s'.threads k = some u ∧ u.status = .waiting (.parv d1 f true) 0 ∧ u.pc = t.pc ∧
            Tab.find s'.pops h = some q ∧ Tab.find q.parts slot = some { x with arrivals := x.arrivals + 1 } ∧ k ∈ q.arrivedBy) ∧
        (Issues s t { illegal := inRelaunch s, role := 0, flds := [fd d 1] } → t.faulty = false → ∀ f, p.a ≤ x.arrivals →
          ∃ s' u, exec (.parv d f) s = .next s' ∧ Tab.find s'.threads k = some u ∧ u.status = .waiting (.parv d1 f false) 0 ∧ u.pc = t.pc ∧
            s'.pops = s.pops))) ∧
    (Issues s t { illegal := inRelaunch s, role := 0, flds := [fd d 1] } → ∀ f,
      (t.faulty = true → exec (.parv d f) s = .next (s.stallAt k t .results)) ∧
      (t.faulty = false → t.binding = none → exec (.parv d f) s = .next (s.trapAt k t
        { cause := 0x10, addr := 0, detail := 0x0FFF04, kind := 0, size := 0 })) ∧
      ∀ h slot p, t.faulty = false → t.binding = some (h, slot) → Tab.find s.pops h = some p → t.cut = true →
        exec (.parv d f) s = .next (s.trapAt k { t with binding := none, cut := false }
          { cause := 0x10, addr := BitVec.ofNat 64 slot, detail := BitVec.ofNat 32 (6 + 256 * h), kind := 0, size := 0 }))

/-- The ends of a population's iterations (R307, R309, R311, R316 to R320, R323): with every arrival made, a mode of never ends the episode
without a resample; with no particle left the population is extinct and drains; otherwise, in mode always, it resamples with the log-weights
and the draw of the last arrival: every particle takes its parent's place with weight zero and the index and the estimate move on.  A deadline
cuts the particles that are short; a drop and an overrun take a population off the module's time, and the drop takes it back to its creation.
The model's own here: the moment of freeing and LASTRS are log 51, the victim is log 52. -/
def Obligations.PopulationEvents : Prop :=
  ∀ (s : State) (h : Nat) (p : Population), s.Canonical → Tab.find s.pops h = some p →
    let ends := fun (outcome : Word) (s' : State) => ∀ k t ds f lits slot, Tab.find s.threads k = some t →
      t.status = .waiting (.parv ds f true) lits → t.binding = some (h, slot) →
      ∃ u, Tab.find s'.threads k = some u ∧ u.status = .ready ∧ u.pc = nextPc t.pc lits ∧ u.regs = writeRegs t.regs ds [outcome]
    (p.members.length = 1 → s.memberIndex p = some 0 → p.state = .running → p.complete = true → p.held = [] → p.wantCancel = false →
      p.wantPause = false → s.sillage = [] → p.samples = [] →
      (∀ k t, Tab.find s.threads k = some t → t.cut = false ∧ ∀ ds f lits, t.status ≠ .waiting (.parv ds f false) lits) →
      (p.mode = some 2 → ∃ s' q, exec (.barrierEpisodeEnd h []) s = .next s' ∧ ends 1 s' ∧ Tab.find s'.pops h = some q ∧
        q = { p with parts := Tab.mapVal p.parts fun _ x => { x with arrivals := 0 }, mode := none, arrivedBy := [], donors := [],
                     snap := none, peersDone := false, peers := [], started := s.clock, lastrs := false }) ∧
      (p.mode = some 0 → (∀ e ∈ p.entering, e.2 = none) → ∃ s' q, exec (.barrierEpisodeEnd h []) s = .next s' ∧ ends 2 s' ∧
        Tab.find s'.pops h = some q ∧ q.state = .draining ∧ q.extinct = true) ∧
      (∀ lmax, p.mode = some 0 → p.k = 0 → (∀ e ∈ p.parts, e.2.root = []) → s.poison = [] → s.badWords = [] →
        maxOpt (p.entering.map Prod.snd) = some lmax →
        let word := (philox 0xFFFFFFFF (p.index.extractLsb' 0 32) (p.index.extractLsb' 32 32) 0 p.seed).getD 0 0
        let plan := p.plan 0 [] lmax (p.usedDraw.getD word).toNat
        ∃ s' q, exec (.barrierEpisodeEnd h []) s = .next s' ∧ ends 0 s' ∧ Tab.find s'.pops h = some q ∧ q.index = p.index + 1 ∧
          q.lastrs = true ∧ (∀ x, p.snap = some x → q.draw = if x.redrawn then p.draw else none) ∧
          (p.snap = none → q.draw = none) ∧
          q.lastLmax = BitVec.ofInt 64 lmax ∧ q.z = BitVec.ofInt 64 (p.nextZ plan).1 ∧
          ∀ i x, Tab.find p.parts i = some x → ∃ y, Tab.find q.parts i = some y ∧ y.l = 0 ∧ y.dead = false ∧ y.pinf = false ∧
            y.arrivals = 0 ∧ (∀ j, (plan.parents.find? fun e => e.1 == i) = some (i, j) → y.parent = j))) ∧
    (p.state = .running → p.cutPolicy = true → p.complete = false → clocksOf p.deadline < s.clock - p.started →
      ∃ s' q, exec (.cutDeadline h) s = .next s' ∧ Tab.find s'.pops h = some q ∧ q.cutrun = true ∧ q.complete = true ∧
        (p.members.length = 1 → q.snap.isSome = true) ∧
        (∀ i x, Tab.find p.parts i = some x → Tab.find q.parts i = some (if x.arrivals < p.a then
          { x with dead := true, cut := true, arrivals := p.a } else x)) ∧
        ∀ k t, Tab.find s.threads k = some t → ∀ i x, t.binding = some (h, i) → Tab.find p.parts i = some x → x.arrivals < p.a →
          Tab.find s'.threads k = some { t with cut := true }) ∧
    (p.admitted = true → ∀ used, p.budget < used → ∃ s' q, exec (.iterationOverrun h used) s = .next s' ∧
      Tab.find s'.pops h = some q ∧ q = { p with demoted := true, admitted := false } ∧
      ∀ i l, Tab.find s.launches i = some l → Tab.find s'.launches i = some (if l.population = some h then { l with priority := 0 } else l)) ∧
    (∀ asid, s.pressed asid = true → s.victim = some h → (∀ q ∈ s.copyReqs, q.thread = none ∧ (s.dropPop h).leafOf q.asid q.va.toNat = .unmapped) →
      s.queues = [] →
      (∀ g, (s.dropPop h).recompute g = none) →
      ∃ s' q, exec (.memoryPressureDrop asid) s = .next s' ∧ Tab.find s'.pops h = some q ∧ q.state = .filling ∧ q.recomp = true ∧ q.z = 0 ∧
        q.index = 0 ∧ q.theta = p.theta0 ∧ q.admitted = false ∧
        (∀ i x, Tab.find p.parts i = some x → Tab.find q.parts i = some (Particle.new i)) ∧
        ∀ k t slot, Tab.find s.threads k = some t → t.binding = some (h, slot) → t.status ≠ .exited →
          blkOf k ∈ (s.ctx (s.block (blkOf k)).ctx).blocks → Tab.find s'.threads k = none)

/-! ## Sillage -/

/-- The sequencer's instructions (R344 to R348, R350, R351, R365): loading a method table of 640 bytes, starting, stopping and closing,
taking and posting a stage's request (a post that has been made stands while its `seval` waits), and a sample's state, each with its code
or words.
The model's own here: a post kept over a retry is log 34. -/
def Claim.SillageInstructions : Prop :=
  ∀ (s : State) (t : Thread) (d : Dst) (a b : Src) (m : Bool), inRelaunch s = false → s.quiet s.cur → s.l1 = [] → s.poison = [] →
    s.badWords = [] →
    let k := s.cur
    let cl := clusterOf (s.coreOf k)
    let asid := (s.ctxOf k).asid
    let g := s.seq cl
    let addr := (a.get64 s k t).toNat
    let e := (b.get32 s k t).toNat
    let d1 := d.dests t.wb.toNat 1
    let gives := fun (i : Instr) (code : Word) (lits : Nat) (s1 : State) => ∃ s', exec i s = .next s' ∧
      IssuedV s1 k t s' d1 (some [code]) 0 false none (nextPc t.pc lits)
    let found := fun (n pa : Nat) => addr < 2 ^ 57 ∧ addr % 64 = 0 ∧ ∀ i, i < n →
      s.locate (s.agent k) (addr + 64 * i) 64 64 Need.load true = (s, .ok (.mem (pa + 64 * i)))
    (Issues s t (Req.any [fd d 1, fa a 2, fb b 1]) →
      (15 < e → addr < 2 ^ 57 → addr % 64 = 0 → gives (.scfgMeth d a b m) 1 (lits2 a b) s) ∧
      (∀ pa, found 10 pa → e ≤ 15 → (∀ x ∈ g.samples, x.2.method = e → x.2.atRest = true) →
        let bytes := (List.range 10).flatMap fun i => s.readMem (pa + 64 * i) 64
        (parseMethod asid bytes = none → gives (.scfgMeth d a b m) 1 (lits2 a b) s) ∧
        (∀ x, parseMethod asid bytes = some x → gives (.scfgMeth d a b m) 0 (lits2 a b)
          { s with sillage := Tab.put s.sillage cl { g with methods := Tab.put g.methods e x } })) ∧
      (∀ pa, found 1 pa → e < 4096 → Tab.find g.samples e = none →
        let bytes := s.readMem pa 64
        let x := parseSample asid (BitVec.ofNat 64 addr) bytes
        (sampleOk x bytes = false → gives (.scfgStart d a b m) 1 (lits2 a b) s) ∧
        (sampleOk x bytes = true → Tab.find g.methods x.method = none → gives (.scfgStart d a b m) 3 (lits2 a b) s) ∧
        (∀ y, sampleOk x bytes = true → Tab.find g.methods x.method = some y → y.asid = asid →
          ∃ g' z, gives (.scfgStart d a b m) 0 (lits2 a b) { s with sillage := Tab.put s.sillage cl g' } ∧ Tab.find g'.samples e = some z ∧
            z.state = 1 ∧ z.request = 0 ∧ z.t = x.t ∧ z.accepted = 0 ∧ z.n = Tab.getD g.started asid 0 + 1 ∧
            Tab.getD g'.started asid 0 = z.n ∧ asid ∉ g'.closed))) ∧
    (Issues s t (Req.any [fd d 1]) → ∃ g', gives (.scfgClose d m) 0 0 { s with sillage := Tab.put s.sillage cl g' } ∧ asid ∈ g'.closed ∧
      g'.queue = g.queue ∧ ∀ i x, (i, x) ∈ g'.samples ↔ (i, x) ∈ g.samples ∧ ¬(x.asid = asid ∧ x.atRest = true)) ∧
    (Issues s t (Req.any [fd d 1, fb b 1]) → e < 4096 →
      (Tab.find g.samples e = none → gives (.scfgStop d b m) 4 (lits1 b) s) ∧
      (∀ x, Tab.find g.samples e = some x → x.asid = asid → x.state = 1 →
        (x.request = 2 → ∃ g' z, gives (.scfgStop d b m) 0 (lits1 b) { s with sillage := Tab.put s.sillage cl g' } ∧
          Tab.find g'.samples e = some z ∧ z.stopping = true ∧ z.state = 1) ∧
        (x.request ≠ 2 → ∃ s' z, exec (.scfgStop d b m) s = .next s' ∧ Tab.find (s'.seq cl).samples e = some z ∧ z.state = 2 ∧
          z.request = 0 ∧ e ∉ (s'.seq cl).queue))) ∧
    (Issues s t (Req.release [fd d 2, fa a 2]) →
      (addr = 0 → ∀ i r x, g.queue = i :: r → Tab.find g.samples i = some x → x.asid = asid → i ∉ r →
        ∃ s', exec (.seval d a m) s = .next s' ∧ Tab.find (s'.seq cl).samples i = some { x with request := 2, taker := k } ∧
          (s'.seq cl).queue = r ∧ ∃ u, Tab.find s'.threads k = some u ∧ u.pc = nextPc t.pc (lits1 a) ∧ u.regs = t.regs ∧
            u.pend = outstanding t (d.dests t.wb.toNat 2)
              (some [(x.record + 0x40).extractLsb' 0 32, (x.record + 0x40).extractLsb' 32 32]) 0 false none) ∧
      (addr = 0 → g.queue = [] → asid ∈ g.closed → ∃ s' u, exec (.seval d a m) s = .next s' ∧ Tab.find s'.threads k = some u ∧
        u.pc = nextPc t.pc (lits1 a) ∧ u.pend = outstanding t (d.dests t.wb.toNat 2) (some [0, 0]) 0 false none) ∧
      (addr = 0 → g.queue = [] → asid ∉ g.closed → exec (.seval d a m) s =
        .next (s.stallAt k t .seval (regsOf [fd d 2, fa a 2] t))) ∧
      (addr ≠ 0 → t.postKey ∈ t.posted → g.queue = [] → asid ∉ g.closed → exec (.seval d a m) s =
        .next (s.stallAt k { t with posted := t.postKey :: t.posted.filter (· != t.postKey) } .seval (regsOf [fd d 2, fa a 2] t))) ∧
      (∀ i x, addr ≠ 0 → t.postKey ∉ t.posted → g.handed asid addr = some (i, x) → Tab.find g.samples i = some x → x.stopping = false →
        ∃ s' z, exec (.seval d a m) s = .next s' ∧ Tab.find (s'.seq cl).samples i = some z ∧ (i ∉ g.queue → z.request = 3) ∧ z.state = x.state) ∧
      (addr ≠ 0 → t.postKey ∉ t.posted → g.handed asid addr = none → exec (.seval d a m) s = .next (s.trapAt k t
        { cause := 0x13, addr := BitVec.ofNat 64 addr, detail := 0x901, kind := 0, size := 0 }))) ∧
    (Issues s t (Req.any [fd d 4, fa a 1]) → let i := (a.get32 s k t).toNat
      i < 4096 → ∀ x, Tab.find g.samples i = some x → x.asid = asid → x.state ≠ 0 → ∀ wait,
        (wait = true → x.state = 1 → exec (.sst d a wait m) s = .next (s.stallAt k t .sst (regsOf [fd d 4, fa a 1] t))) ∧
        (wait = false ∨ x.state ≠ 1 → ∃ s', exec (.sst d a wait m) s = .next s' ∧ IssuedV s k t s' (d.dests t.wb.toNat 4)
          (some [x.t, x.h, BitVec.ofNat 32 x.state, BitVec.ofNat 32 (x.accepted + 65536 * x.rejected)]) 0 false none (nextPc t.pc (lits1 a))))

/-- The sequencer's own work (R353 to R359): a stage's input is formed by fused multiply-adds and its request queued; a step size that is
not positive, or that stays too large at its minimum, faults the sample; a step that passes the error test advances the time to its clip or
by h and counts, one that fails keeps the time, counts and shrinks h.
The model's own here: the stage time is log 56. -/
def Claim.SillageSteps : Prop :=
  ∀ (s : State) (cl i : Nat) (x : Sample) (m : Method), Tab.find (s.seq cl).samples i = some x → Tab.find (s.seq cl).methods x.method = some m →
    x.state = 1 → x.stalled = none →
    let fails := fun (e : Instr) => ∃ s' z, exec e s = .next s' ∧ Tab.find (s'.seq cl).samples i = some z ∧ z.state = 5 ∧ z.request = 0
    (x.stage = 0 → positiveW x.h = false → fails (.sillageStage cl i)) ∧
    (∀ (s1 s2 s3 : State) (xs : List Word) (ks : List (List Word)) (n : Nat),
      n = x.stage + 1 → (x.stage = 0 ∧ positiveW x.h = true ∨ x.stage ≠ 0 ∧ x.request = 3 ∧ x.stage < m.s) →
      s.seqReads x.asid (cl / 4) x.len (x.x.toNat :: (List.range (n - 1)).map fun j => x.work.toNat + 4 * x.len * (j + 1)) =
        (s1, .ok (xs :: ks)) →
      s1.seqWrite x.asid (cl / 4) x.work.toNat (rkSum x.h xs ((m.row n).zip ks)) = (s2, none) →
      s2.seqWrite x.asid (cl / 4) (x.record.toNat + 0x40)
        [x.work.extractLsb' 0 32, x.work.extractLsb' 32 32, (BitVec.ofNat 64 (x.kAddr n)).extractLsb' 0 32, (BitVec.ofNat 64 (x.kAddr n)).extractLsb' 32 32,
         fmaW (m.c.getD (n - 1) 0) x.h x.t, BitVec.ofNat 32 x.len, BitVec.ofNat 32 (i + 4096 * n), 0] = (s3, none) →
      s3.sillage = s.sillage →
      ∃ s' z, exec (.sillageStage cl i) s = .next s' ∧ Tab.find (s'.seq cl).samples i = some z ∧ z = { x with stage := n, request := 1 } ∧
        (s'.seq cl).queue = (s.seq cl).queue ++ [i] ∧ s' = { s3 with sillage := s'.sillage }) ∧
    (∀ (s1 s2 : State) (xs : List Word) (ks : List (List Word)), x.request = 3 → x.stage = m.s →
      s.seqReads x.asid (cl / 4) x.len (x.x.toNat :: (List.range m.s).map fun j => x.work.toNat + 4 * x.len * (j + 1)) = (s1, .ok (xs :: ks)) →
      let xn := rkSum x.h xs (m.b.zip ks)
      let sq := errTotal m xs xn (rkSum x.h (List.replicate x.len 0) (m.e.zip ks))
      let hn := m.stepSize x.h (errIndex sq x.len)
      s1.seqWrite x.asid (cl / 4) (x.kAddr (m.s + 1)) xn = (s2, none) → s2.sillage = s.sillage → x.link.getLsbD 31 = false → x.limit = 0 →
      (x.len * 2 ^ 24 < sq → eqW x.h m.hMin = true → fails (.sillageStepEnd cl i)) ∧
      (x.len * 2 ^ 24 < sq → eqW x.h m.hMin = false → eqW x.t x.tEnd = false →
        ∃ s' z, exec (.sillageStepEnd cl i) s = .next s' ∧ Tab.find (s'.seq cl).samples i = some z ∧ z.t = x.t ∧ z.state = 1 ∧ z.stage = 0 ∧
          z.h = (x.clipFrom x.t hn).1 ∧ z.rejected = min 65535 (x.rejected + 1) ∧ z.accepted = x.accepted) ∧
      (∀ s3, sq ≤ x.len * 2 ^ 24 → s2.seqWrite x.asid (cl / 4) x.x.toNat xn = (s3, none) → s3.sillage = s.sillage →
        let t' := match x.clip with | some n => n | none => addW x.t x.h
        ∃ s' z, exec (.sillageStepEnd cl i) s = .next s' ∧ Tab.find (s'.seq cl).samples i = some z ∧ z.t = t' ∧
          z.accepted = min 65535 (x.accepted + 1) ∧ z.rejected = x.rejected ∧ z.h = (x.clipFrom t' hn).1 ∧
          z.state = if eqW t' x.tEnd then 3 else 1))

/-! ## Accord memory -/

/-- Accord loads and tags (R372, R373, R376, R377, R379): the copy with the largest tag of a majority of current copies supplies the value or the
tag, and the members of that majority that lag receive it; a poisoned line gives an `mld` the data-loss fault after issue, and an `mtag` a tag
whose state is 1; while no majority of a line answers the result is outstanding, and it is answered in the same way once one does; a thread whose Accord
operation is under way or that has a fault outstanding waits (R344, R411).
The model's own here: which majority answers is logs 2 and 53. -/
def Claim.AccordReads : Prop :=
  let majority := fun (s : State) (set line : Nat) (c : Copy) (ms : List Nat) => ms.length = setMajority (s.setOf set) ∧
    (∀ j ∈ ms, j ∈ s.readable set line) ∧ (∃ j ∈ ms, c = s.copy set line j) ∧ ∀ j ∈ ms, tagKey (s.copy set line j).tag ≤ tagKey c.tag
  let value := fun (c : Copy) (datum : Option (Nat × Nat)) => match datum with
    | some (off, n) => wordsOf (Line.get c.data off n)
    | none => [c.tag.extractLsb' 0 32, c.tag.extractLsb' 32 32]
  let loss := fun (set : Nat) (va : Pair) =>
    let i : TrapInfo := { cause := 0x0F, addr := va, detail := BitVec.ofNat 32 set, kind := 0, size := 0 }
    i
  (∀ (s s1 : State) (t : Thread) (d : Dst) (a : Src) (m : Bool) (set off : Nat),
    let k := s.cur
    let addr := a.get64 s k t
    let found := fun (n : Nat) => addr.toNat + n ≤ 2 ^ 57 ∧ off < 2 ^ 41 ∧
      s.locate (s.agent k) addr.toNat n n { Need.load with accord := true } true = (s1, .ok (.mem (set * 2 ^ 41 + off)))
    let line := off / 64
    -- the instruction, its result registers, the bytes it reads, none for the tag
    let forms : List (Instr × Nat × Option Nat) := [(.mld d a false m, 1, some 4), (.mld d a true m, 2, some 8), (.mtag d a m, 2, none)]
    ∀ i w n, (i, w, n) ∈ forms → Issues s t (Req.any [fd d w, fa a 2]) →
      let gives := fun (s2 : State) (vals : Option (List Word)) (fault : Option TrapInfo) => ∃ s', exec i s = .next s' ∧
        IssuedV s2 k t s' (d.dests t.wb.toNat w) vals 0 false fault (nextPc t.pc (lits1 a))
      (s.accordBusy k t = true → exec i s = .next (s.stallAt k t .accord)) ∧
      (s.accordBusy k t = false → found (n.getD 4) →
        (s1.linePoisoned set line = true →
          (n.isSome = true → gives s1 (some []) (some (loss set (BitVec.ofNat 64 (addr.toNat / 64 * 64))))) ∧
          (n = none → ∃ x : Pair, x.extractLsb' 60 3 = 1 ∧ gives s1 (some [x.extractLsb' 0 32, x.extractLsb' 32 32]) none)) ∧
        (s1.linePoisoned set line = false → s1.lineWaits set line = true →
          let r : AccordRead := { asid := (s.ctxOf k).asid, thread := k, order := t.order, set := set, line := line,
                                  datum := n.map fun n => (off % 64, n), va := addr }
          gives { s1 with accordReads := s1.accordReads ++ [r] } none none) ∧
        (s1.linePoisoned set line = false → s1.lineWaits set line = false → ∃ (s2 : State) (c : Copy) (ms : List Nat), majority s1 set line c ms ∧
          s2 = { s1 with mem := s2.mem, queues := s2.queues, poison := s2.poison, badWords := s2.badWords, picks := s2.picks } ∧
          (setLegal (s1.setOf set) = true → 64 * line + 64 ≤ s1.accordLen → s1.accordBase + s1.accordLen + 8 * line + 8 ≤ 2 ^ 36 →
            (∀ q, s1.queueAt q = none) → ∀ j ∈ setLive (s1.setOf set), s2.copy set line j =
              if j ∈ ms ∧ tagKey (s1.copy set line j).tag < tagKey c.tag then c else s1.copy set line j) ∧
          (n.isSome = true → gives (s2.l1Invalidate (s.coreOf k) (s.ctxOf k).asid) (some (value c (n.map fun n => (off % 64, n)))) none) ∧
          (n = none → gives s2 (some (value c none)) none)))) ∧
  (∀ (s : State) (r : AccordRead) (t : Thread), Tab.find s.threads r.thread = some t →
    let s' := s.serveRead r
    let answered := fun (g : Pend → Pend) => r ∉ s'.accordReads ∧ ∃ u, Tab.find s'.threads r.thread = some u ∧
      u.pend = t.pend.map fun p => if p.order = r.order && p.vals.isNone then g p else p
    (s.linePoisoned r.set r.line = true → r.datum.isSome = true → answered fun p =>
      { p with vals := some [], fault := some (loss r.set (BitVec.ofNat 64 (r.va.toNat / 64 * 64))) }) ∧
    (s.linePoisoned r.set r.line = false → s.lineWaits r.set r.line = false → ∃ c ms, majority s r.set r.line c ms ∧ answered fun p =>
      { p with vals := some (value c r.datum), flags := 0 }))

/-- Accord writes (R371, R374, R375): `mst` and `mcas` release and send one operation to their line's coordinator, its result outstanding,
or keep it in their core behind one of the core on the line; when the coordinator serves an `mst`, or an `mcas` whose version matches, every
member that answers holds the next version with the writer's id and the new bytes; an `mcas` whose version does not match leaves every copy as it was,
but that the members of its majority that lag receive the newest copy; either receives the tag; a line of which no majority answers waits
(R377).  No byte but the line's copies changes.
The model's own here: which majority answers is logs 2 and 53. -/
def Claim.AccordWrites : Prop :=
  (∀ (s s1 : State) (t : Thread) (d : Dst) (a b : Src) (w64 m : Bool) (set off : Nat), inRelaunch s = false → s.quiet s.cur →
    let k := s.cur
    let addr := a.get64 s k t
    let w := if w64 then 2 else 1
    let x := if w64 then b.get64 s k t else (b.get32 s k t).zeroExtend 64
    let op := fun (e : Option (BitVec 48)) =>
      let o : AccordOp := { asid := (s.ctxOf k).asid, core := s.coreOf k,
                            sent := !s1.accordQ.any fun o => o.core == s.coreOf k && o.set == set && o.line == off / 64,
                            set := set, line := off / 64, off := off % 64, thread := k, order := t.order, writer := writerId (s.coreOf k),
                            bytes := bytesOf (4 * w) x, expect := e, va := addr }
      o
    let found := fun (n : Need) =>
      s.locate (s.agent k) addr.toNat (4 * w) (4 * w) { n with accord := true } true = (s1, .ok (.mem (set * 2 ^ 41 + off)))
    let s2 := s1.l1Flush (s.coreOf k) (s.ctxOf k).asid
    s.accordBusy k t = false → addr.toNat + 4 * w ≤ 2 ^ 57 → off < 2 ^ 41 →
    (Issues s t (Req.any [fa a 2, fb b w]) → found Need.store → ∃ s', exec (.mst a b w64 m) s = .next s' ∧
      IssuedV { s2 with accordQ := s2.accordQ ++ [op none] } k t s' [] none 0 false none (nextPc t.pc (lits2 a b))) ∧
    (Issues s t (Req.any [fdr d 2, fa a 2, fb b w]) → found Need.atomic → ∃ s', exec (.mcas d a b w64 m) s = .next s' ∧
      IssuedV { s2 with accordQ := s2.accordQ ++ [op (some ((d.get64 t).extractLsb' 0 48))] } k t s' (d.dests t.wb.toNat 2) none 0 false none
        (nextPc t.pc (lits2 a b)))) ∧
  (∀ (s : State) (set line : Nat) (o : AccordOp) (r : List AccordOp), takeOp set line s.accordQ = some (o, r) →
    setLegal (s.setOf set) = true → 64 * line + 64 ≤ s.accordLen → s.accordBase + s.accordLen + 8 * line + 8 ≤ 2 ^ 36 →
    (∀ q, s.queueAt q = none) → s.l1 = [] → o.off + o.bytes.length ≤ 64 →
    let ofLine := fun (p : Nat) => ∃ j ∈ setLive (s.setOf set), (s.copyData set line j ≤ p ∧ p < s.copyData set line j + 64) ∨
      (s.copyTag set line j ≤ p ∧ p < s.copyTag set line j + 8)
    let serves := fun (s' : State) => exec (.accordCoordinatorServe set line) s = .next s' ∧ s'.accordQ = nextSend o r ∧ s'.sets = s.sets ∧
      (∀ p, ¬ofLine p → s'.readMem p 1 = s.readMem p 1) ∧ ∀ b p n, s'.readPlace (.spad b p) n = s.readPlace (.spad b p) n
    let gets := fun (s' : State) (vs : List Word) => ∀ t, Tab.find s.threads o.thread = some t → ∃ u, Tab.find s'.threads o.thread = some u ∧
      u.pend = t.pend.map fun p => if p.order = o.order && p.vals.isNone then { p with vals := some vs, flags := 0 } else p
    let majority := fun (c : Copy) (ms : List Nat) => ms.length = setMajority (s.setOf set) ∧ (∀ j ∈ ms, j ∈ s.readable set line) ∧
      (∃ j ∈ ms, c = s.copy set line j) ∧ ∀ j ∈ ms, tagKey (s.copy set line j).tag ≤ tagKey c.tag
    let newest := fun (c : Copy) => ∃ ms, majority c ms
    let written := fun (s' : State) (c : Copy) => ∀ j ∈ setLive (s.setOf set), s'.copy set line j =
      { tag := BitVec.ofNat 64 (tagVersion c.tag + 1 + o.writer.toNat * 2 ^ 48), data := Line.put c.data o.off o.bytes }
    (s.linePoisoned set line = true → ∃ s', serves s' ∧ s'.mem = s.mem ∧
      ∀ t, Tab.find s.threads o.thread = some t → ∃ u, Tab.find s'.threads o.thread = some u ∧
        u.pend = t.pend.map fun p => if p.order = o.order && p.vals.isNone then
          { p with vals := some [], fault := some { cause := 0x0F, addr := BitVec.ofNat 64 (o.va.toNat / 64 * 64), detail := BitVec.ofNat 32 set,
                                                    kind := if o.expect.isSome then 2 else 1, size := 0 } } else p) ∧
    (s.linePoisoned set line = false → s.lineWaits set line = true → exec (.accordCoordinatorServe set line) s = .next s) ∧
    (s.linePoisoned set line = false → s.lineWaits set line = false →
      (o.expect = none → (∀ j ∈ s.readable set line, tagVersion (s.copy set line j).tag + 1 < 2 ^ 48) →
        ∃ s' c, serves s' ∧ newest c ∧ written s' c ∧ gets s' []) ∧
      (∀ v, o.expect = some v → ∃ s' c ms, serves s' ∧ majority c ms ∧
        (tagVersion c.tag = v.toNat → v.toNat + 1 < 2 ^ 48 → written s' c ∧
          (let g := BitVec.ofNat 64 (v.toNat + 1 + o.writer.toNat * 2 ^ 48 + 2 ^ 63)
           gets s' [g.extractLsb' 0 32, g.extractLsb' 32 32])) ∧
        (tagVersion c.tag ≠ v.toNat →
          (∀ j ∈ setLive (s.setOf set), s'.copy set line j =
            if j ∈ ms ∧ tagKey (s.copy set line j).tag < tagKey c.tag then c else s.copy set line j) ∧
          (let g := c.tag &&& 0x7FFFFFFFFFFFFFFF
           gets s' [g.extractLsb' 0 32, g.extractLsb' 32 32])))))

/-- Losing and repairing copies (R377, R378, R380): a member that is lost no longer answers; while a majority of current copies is left no
line changes; a coordinator that takes over completes the write that a current copy holds; a scrub leaves the chosen copy at every member
that answers.
The model's own here: majorities are log 53. -/
def Obligations.AccordRepair : Prop :=
  ∀ (s : State) (set line m : Nat), setLegal (s.setOf set) = true → bit (s.setOf set) 23 = true →
    (m ∈ setLive (s.setOf set) →
      let e := s.setOf set &&& ~~~(BitVec.ofNat 64 (2 ^ (24 + m) + 2 ^ (29 + m)))
      setMajority e ≤ (setCurrent e).length → ∃ s', exec (.accordMemberLoss set m) s = .next s' ∧ s'.setOf set = e ∧ m ∉ setLive (s'.setOf set) ∧
        (∀ j, j ≠ m → (j ∈ setLive (s'.setOf set) ↔ j ∈ setLive (s.setOf set))) ∧ (∀ x, x ≠ set → s'.setOf x = s.setOf x) ∧ s'.mem = s.mem) ∧
    (64 * line + 64 ≤ s.accordLen → s.accordBase + s.accordLen + 8 * line + 8 ≤ 2 ^ 36 → (∀ q, s.queueAt q = none) →
      s.linePoisoned set line = false → s.lineWaits set line = false →
      (∀ o r held, takeOp set line s.accordQ = some (o, r) → o.expect = none → o.off + o.bytes.length ≤ 64 → o.set = set → o.line = line →
        line % setCount (s.setOf set) ∉ setCurrent (s.setOf set) → (∃ j ∈ held, j ∈ s.readable set line) →
        let c := s.newest set line (s.readable set line)
        tagVersion c.tag + 1 < 2 ^ 48 → ∃ s', exec (.coordinatorTakeover set line held) s = .next s' ∧ s'.accordQ = nextSend o r ∧
          ∀ j ∈ setLive (s.setOf set), s'.copy set line j =
            { tag := BitVec.ofNat 64 (tagVersion c.tag + 1 + o.writer.toNat * 2 ^ 48), data := Line.put c.data o.off o.bytes }) ∧
      (line / 1024 ∈ s.accordGiven set → ∃ s' c, exec (.accordScrubVisit set line) s = .next s' ∧ (∃ j ∈ s.readable set line, c = s.copy set line j) ∧
        (∀ j ∈ setLive (s.setOf set), s'.copy set line j = c) ∧ ∀ j, (set, line, j) ∉ s'.accordBad))

/-! ## Events of memory, issue and time -/

/-- Faults, caches and results (R221 to R223, R235, R236, R238, R247, R315, R411): a record that was deferred is appended once the others of its
instruction are known and there is space, and its thread is parked, or traps where the record is of a malformed entry; an outcome 1 lets every
thread parked on the record replay and another outcome traps it; an eviction writes the line's dirty bytes home; a shared page's copy lets the
store go on; an invalidation waits for the range's Accord operations and for the buffered writes of phases, and leaves no cached translation of it; a
poisoned
entry on the way to a record's page has its die fenced; a late result is written to its
registers alone, a late fault becomes due.
The model's own here: what an invalidation does first is log 22, and firmware's outcomes are log 47. -/
def Obligations.MemoryEvents : Prop :=
  (∀ (s s1 : State) (th n issue : Nat) (t : Thread) (r : List Byte), Tab.find s.threads th = some t → t.status = .unrecorded r issue →
    (s.issueOpen issue = true → exec (.faultRecordDeferred th) s = .next s) ∧
    (s.issueOpen issue = false → s.issueRecs issue = [(th, r)] →
      Tab.getD s.recWait (dieOf (s.coreOf th)) [] = [] → s.appendRec (dieOf (s.coreOf th)) r = some (s1, n) →
      (recReplay r = true → ∃ s' u, exec (.faultRecordDeferred th) s = .next s' ∧ Tab.find s'.threads th = some u ∧
        u.status = .parked (dieOf (s.coreOf th)) n ∧ u.regs = t.regs ∧ u.pc = t.pc ∧ OthersKept s s' th) ∧
      (recReplay r = false → (s.ctxOf th).header.handler ≠ 0 → t.inHandler = false →
        ∃ s' u, exec (.faultRecordDeferred th) s = .next s' ∧ Tab.find s'.threads th = some u ∧ u.status = .ready ∧ u.inHandler = true ∧
          u.trap.cause = 0x09 ∧ u.trap.pc = t.pc ∧ u.trap.addr = valOf 64 (r.take 8) ∧ u.regs = t.regs))) ∧
  (∀ (s : State) (die n : Nat) (outcome : BitVec 8) (r : List Byte), s.Canonical → s.pendingRec die n = some r → outcome ≠ 0 →
    s.queuePoisoned die = false → s.walkBad (field r 0x10 2) (field r 0 8) = none →
    s.sillage = [] → s.txs = [] → (∀ e ∈ s.blocks, e.2.copyQ = []) →
    ∀ k t, Tab.find s.threads k = some t → t.status = .parked die n → (∀ j u, j ≠ k → Tab.find s.threads j = some u → u.status ≠ .parked die n) →
      (outcome = 1 → ∃ s' u, exec (.faultOutcomeWrite die n outcome) s = .next s' ∧ Tab.find s'.threads k = some u ∧ u.status = .ready ∧
        u.pc = t.pc ∧ u.regs = t.regs) ∧
      (outcome ≠ 1 → (s.ctxOf k).header.handler ≠ 0 → t.inHandler = false → ∃ s' u, exec (.faultOutcomeWrite die n outcome) s = .next s' ∧
        Tab.find s'.threads k = some u ∧ u.status = .ready ∧ u.inHandler = true ∧ u.trap.cause = 0x09 ∧ u.trap.pc = t.pc ∧
        u.trap.addr = valOf 64 (r.take 8))) ∧
  (∀ (s : State) (die n d : Nat) (outcome : BitVec 8) (r : List Byte), s.pendingRec die n = some r → outcome ≠ 0 → s.queuePoisoned die = false →
    s.walkBad (field r 0x10 2) (field r 0 8) = some d → exec (.faultOutcomeWrite die n outcome) s = .next (s.fence d)) ∧
  (∀ (s : State) (core line i : Nat) (l : L1Line), (∀ q, s.queueAt q = none) → line < 2 ^ 35 → Tab.find s.l1 (2 ^ 35 * core + line) = some l → i < 64 →
    ∃ s', exec (.l1Eviction core line) s = .next s' ∧ Tab.find s'.l1 (2 ^ 35 * core + line) = none ∧
      (l.dirty.getLsbD i = true → s'.readMem (64 * line + i) 1 = [l.data.extractLsb' (8 * i) 8]) ∧
      (l.dirty.getLsbD i = false → s'.readMem (64 * line + i) 1 = s.readMem (64 * line + i) 1) ∧ s'.threads = s.threads) ∧
  (∀ (s s1 : State) (i k : Nat) (q : CopyReq) (t : Thread), s.copyReqs[i]? = some q → q.thread = some k →
    s.copyShared q.asid q.va.toNat = some s1 → Tab.find s1.threads k = some t → t.status = .copying →
    ∃ s' u, exec (.sharedPageCopy i) s = .next s' ∧ s'.copyReqs = dropAt s1.copyReqs i ∧ Tab.find s'.threads k = some u ∧ u.status = .ready ∧
      u.pc = t.pc ∧ u.regs = t.regs) ∧
  (∀ (s : State) (asid va len : Nat),
    (s.accordUses asid va len = true ∨ s.bufferUses asid va len = true → exec (.translationInvalidation asid va len) s = .next s) ∧
    (s.accordUses asid va len = false → s.bufferUses asid va len = false → ∃ s', exec (.translationInvalidation asid va len) s = .next s' ∧
      (∀ e ∈ s'.tlb, ¬(e.asid = asid ∧ e.page < va + len ∧ va < e.page + 2 ^ e.bits)) ∧ (∀ e ∈ s'.tlb, e ∈ s.tlb))) ∧
  (∀ (s : State) (th n : Nat) (t : Thread) (p : Pend), Tab.find s.threads th = some t → t.status ≠ .exited →
    (t.pend.find? fun p => p.order == n) = some p →
    let rest := t.pend.filter fun x => x.order != n
    (∀ vs, p.vals = some vs → p.fault = none → ∃ s' u, exec (.classVResultWrite th n) s = .next s' ∧ Tab.find s'.threads th = some u ∧
      u.regs = writeRegs t.regs p.dests vs ∧ u.pend = rest ∧ u.pc = t.pc ∧ u.status = t.status ∧ OthersKept s s' th ∧ BytesKept s s' ∧
      (∀ w, Tab.find s.waves (waveKey th) = some w → ∃ w', Tab.find s'.waves (waveKey th) = some w' ∧
        w'.kregs = writeKregs w.kregs p.dests vs ∧ w'.status = w.status ||| (p.flags &&& statusBits))) ∧
    (∀ i, p.fault = some i → ∃ s' u, exec (.classVResultWrite th n) s = .next s' ∧
      Tab.find s'.threads th = some u ∧ u.regs = t.regs ∧ u.pend = rest ∧
      (∃ e ∈ u.due, e.info = i ∧ e.faultPc = p.pc ∧ e.order = p.order) ∧ BytesKept s s') ∧
    (p.vals = none → p.fault = none → exec (.classVResultWrite th n) s = .next s))

/-- Runs and groups (R60, R64, R177, R178, R207, R278): the 64th instruction ends a run, and with results outstanding the group is dissolved: its
threads park; a group that has issued 16 runs in a row gives way, its
threads ready from that moment, and one that has executed `yld` gives way too, its threads ready from the `yld`; a partition that is free starts a run of
the ready threads at the PC of a thread that the scheduler may take, for each lane the oldest, and where no group has just ended a run there no
thread that could start is older than the group; a thread takes the trap that is due.
The model's own here: turns are logs 1 and 9. -/
def Claim.Scheduling : Prop :=
  (∀ (s : State) (g : Nat) (x : Group), Tab.find s.groups g = some x → x.ended = false → x.count = 64 → x.todo = [] →
    let busy := ∃ e ∈ s.threads, e.1 ∈ x.members ∧ e.2.busy = true
    ∃ s', exec (.runImplicitEnd g) s = .next s' ∧ (busy → x.runs < 16 → Tab.find s'.groups g = none) ∧
      (¬(busy ∧ x.runs < 16) → ∃ y, Tab.find s'.groups g = some y ∧ y.ended = true ∧ y.runs = x.runs + 1) ∧
      (∀ k ∈ x.members, ∀ t, Tab.find s.threads k = some t → Tab.find s'.threads k = some { t with runV := [], readyAt := s.clock }) ∧
      ∀ k, k ∉ x.members → Tab.find s'.threads k = Tab.find s.threads k) ∧
  (∀ (s : State) (g : Nat) (x : Group), Tab.find s.groups g = some x → x.ended = true →
    (16 < x.runs → ∃ s', exec (.schedulerYield g) s = .next s' ∧ Tab.find s'.groups g = none ∧ s'.threads = s.threads) ∧
    (x.runs = 16 → ∃ s', exec (.schedulerYield g) s = .next s' ∧ Tab.find s'.groups g = none ∧
      ∀ k ∈ x.members, ∀ t, Tab.find s.threads k = some t → Tab.find s'.threads k = some { t with readyAt := s.clock })) ∧
  (∀ (s : State) (core part th : Nat) (t : Thread), s.Canonical → Tab.find s.threads th = some t → (th, t) ∈ s.candidates core part →
    (∀ g ∈ s.groups, g.2.core = core → g.2.part = part → g.2.ended = true ∨ s.stalled g.2 = true) →
    ∃ s' g, exec (.issueGroupForm core part th) s = .next s' ∧ Tab.find s'.groups (s.ticket + 1) = some g ∧ g.core = core ∧ g.part = part ∧
      g.count = 0 ∧ g.ended = false ∧ g.todo = g.members ∧ (∃ k ∈ g.members, laneOf k = laneOf th) ∧
      (∀ k ∈ g.members, ∃ u, Tab.find s.threads k = some u ∧ s.mayStart k u = true ∧ u.pc = t.pc ∧ s.partOf k = s.partOf th ∧
        (s.ctxOf k).asid = (s.ctxOf th).asid ∧ ∀ j v, Tab.find s.threads j = some v → s.mayStart j v = true → v.pc = t.pc →
          s.partOf j = s.partOf th → (s.ctxOf j).asid = (s.ctxOf th).asid → laneOf j = laneOf k → u.readyAt ≤ v.readyAt) ∧
      (∀ j ∈ g.members, ∀ k ∈ g.members, laneOf j = laneOf k → j = k) ∧
      ((∀ x ∈ s.groups, x.2.core = core → x.2.part = part → x.2.ended = false) →
        ∀ j v, Tab.find s.threads j = some v → s.mayStart j v = true → s.partOf j = 4 * core + part →
          s.testThread j = false → ∃ k u, k ∈ g.members ∧ Tab.find s.threads k = some u ∧ u.readyAt ≤ v.readyAt)) ∧
  (∀ (s : State) (th : Nat) (t : Thread) (d : Due), Tab.find s.threads th = some t → t.dueBefore = some d → t.status = .ready →
    (s.ctxOf th).state = .running → (s.ctxOf th).header.handler ≠ 0 → t.inHandler = false →
    ∃ s' u, exec (.trapEntry th) s = .next s' ∧ Tab.find s'.threads th = some u ∧ u.inHandler = true ∧ u.trap.cause = d.info.cause ∧
      u.trap.detail = d.info.detail ∧ u.trap.addr = d.info.addr ∧ u.trap.pc = t.pc ∧ u.trap.faultPc = d.faultPc ∧ u.regs = t.regs ∧
      u.due = (t.due.filter fun e => e.order != d.order) ∧ u.pc = (s.ctxOf th).hdrAddr + (s.ctxOf th).header.handler.signExtend 64)

/-- Time-outs (R123, R162, R198, R201 to R203, R213, R214): a thread whose wait has lasted beyond the kernel's time-out, in a kernel with a
handler whose context runs, traps at its waiting instruction, alone where no other thread waits with it, and the report of its wave says what it
waited for and how many threads were missing; a convergent wait lasts from the first arrival at its PC.
The model's own here: the length of a wait is log 26, the threads of one event are log 27 and the bytes of a report log 28. -/
def Claim.TimeOuts : Prop :=
  ∀ (s : State) (th : Nat) (t : Thread) (w : Wave) (b : Block) (c : Ctx), s.Canonical → Tab.find s.threads th = some t →
    Tab.find s.waves (waveKey th) = some w → w.reported = [] → Tab.find s.blocks (blkOf th) = some b → Tab.find s.ctxs b.ctx = some c →
    c.header.handler ≠ 0 → t.inHandler = false → c.state = .running → clocksOf c.header.timeout < s.clock - t.since →
    (∀ j u, j ≠ th → Tab.find s.threads j = some u → ∀ x l, u.status ≠ .waiting x l) →
    let report := c.reportOffset b.gidx (waveOf th)
    let traps := fun (i : Instr) (cause : BitVec 8) (kind index : Nat) (missing : Nat) => ∃ s' u c', exec i s = .next s' ∧
      Tab.find s'.threads th = some u ∧ u.inHandler = true ∧ u.status = .ready ∧ u.trap.cause = cause ∧ u.trap.pc = t.pc ∧
      u.trap.addr = c.image + BitVec.ofNat 64 report ∧ u.trap.detail = BitVec.ofNat 32 (index + 256 * kind) ∧ u.regs = t.regs ∧
      Tab.find s'.ctxs b.ctx = some c' ∧ Store.reads c'.imageBytes (report + 3) 1 = [BitVec.ofNat 8 kind] ∧
      Store.reads c'.imageBytes (report + 6) 2 = natBytes 2 missing
    let live := fun (l : List (Nat × Thread)) => l.filter fun e => e.2.status != .exited
    let others := fun (l : List (Nat × Thread)) => (live l).filter fun e => e.1 != th
    (∀ op ds sw lits, t.status = .waiting (.conv op ds sw) lits →
      clocksOf c.header.timeout < s.clock - Tab.getD w.conv t.pc.toNat t.since →
      traps (.convergentTimeout (waveKey th)) 0x0B 4 0 (others (s.waveThreads (waveKey th))).length) ∧
    (∀ id mask lits, t.status = .waiting (.join id mask) lits →
      traps (.joinTimeout th) 0x0B 3 id.toNat ((others (s.waveThreads (waveKey th))).filter fun e => mask.getLsbD (laneOf e.1)).length) ∧
    (∀ i p lits, t.status = .waiting (.bar i p) lits → (s.barrier th false i).arrived = [th] → i < 16 →
      traps (.barrierTimeout th) 0x0A 0 i (others (s.blockThreads (blkOf th))).length) ∧
    (∀ lits, t.status = .waiting .phend lits → others (s.ctxThreads b.ctx) ≠ [] →
      traps (.barrierTimeout th) 0x0A 2 0 (others (s.ctxThreads b.ctx)).length) ∧
    (∀ e n lits, t.status = .waiting (.timeline e n) lits → traps (.barrierTimeout th) 0x0A 5 0 0) ∧
    (∀ ds n lits, t.status = .waiting (.racq ds n) lits →
      ∃ s' u, exec (.registerAcquireTimeout th) s = .next s' ∧ Tab.find s'.threads th = some u ∧ u.inHandler = true ∧ u.trap.cause = 0x0C ∧
        u.trap.pc = t.pc ∧ u.trap.detail = BitVec.ofNat 32 n ∧ u.regs = t.regs ∧
        ∀ q ∈ Tab.getD s'.racqs b.core [], q.wave ≠ waveKey th)

/-- RREL_STALL_END (R214): a stalled `rrel` is tried again ahead of its group's other threads. -/
def Claim.RrelRetries : Prop :=
  ∀ (s : State) (th since g : Nat) (t : Thread) (x : Group), Tab.find s.threads th = some t → t.stall = some (.rrel, since) →
    s.groupOf th = some (g, x) → th ∈ x.todo →
    ∃ s' u y, exec (.rrelStallEnd th) s = .next s' ∧ Tab.find s'.threads th = some u ∧ u.stall = none ∧ u.status = t.status ∧ u.regs = t.regs ∧
      Tab.find s'.groups g = some y ∧ y.todo.head? = some th ∧ OthersKept s s' th

/-! ## Launches, tasks, phases and pre-emption -/

/-- Launches and their tasks (R169 to R175, R184, R189 to R191): the write that fills the next slot of a queue with a packet that passes the
checks makes a launch with the next number and one task a gang; a gang whose cores fit is placed whole, every thread ready at the word behind
the header with its registers zero; a gang that fits nowhere waits; balancing and stealing change nothing of a task but its core; the end of
a launch's last task writes its completion value, or the complement where a context was killed.
The model's own here: the cores that are offered are log 49. -/
def Claim.LaunchEvents : Prop :=
  (∀ (s s1 : State) (q : Nat) (x : LaunchQ) (bytes : List Byte) (a : Asid) (h : Header), Tab.find s.queues q = some x →
    x.collective = false → x.closed = false → bytes.length = 128 → x.next < 512 → Tab.find x.written x.next = none →
    Tab.find s.asids x.asid = some a →
    let off := 128 * x.next
    let x' := x.write ((bytes.zipIdx).filterMap fun (b, i) => if off + i < 65536 then some (off + i, b) else none) none
    x'.full ((x.next + 1) % 512) = false →
    let l := parsePacket bytes (BitVec.ofNat 32 (a.launches + 1)) x.die
    (∀ l' : Launch, l' = { l with population := l'.population } →
      State.checkPacket { s with queues := Tab.put s.queues q x' } x' bytes l' = (s1, .ok h)) → s1.queues = Tab.put s.queues q x' →
    s1.starved = false →
    ∃ s' n y z, exec (.launchQueueWrite q off bytes) s = .next s' ∧ Tab.find s'.queues q = some y ∧ y.accepted = x.accepted + 1 ∧
      y.next = (x.next + 1) % 512 ∧ Tab.find y.written x.next = none ∧ Tab.find s'.launches n = some z ∧
      z.number = BitVec.ofNat 32 (a.launches + 1) ∧ z.open_ = l.gangs ∧ z.hdr = l.hdr ∧ z.killed = false ∧
      ∀ g, g < l.gangs → ∃ k t, Tab.find s'.tasks k = some t ∧ t.launch = n ∧ t.kind = .gang g ∧ t.header = h ∧ t.blocks = l.gangBlocks) ∧
  (∀ (s : State) (k g : Nat) (t : Task) (l : Launch) (cores : List Nat), Tab.find s.tasks k = some t → Tab.find s.launches t.launch = some l →
    s.gangTurn k t = true →
    (s.coresFit t cores = true → t.unassigned = true → s.poolFits l.asid t = true → t.kind = .gang g → l.threads ≤ 1024 → t.header.waves ≤ 32 →
      ∃ s' c, exec (.gangPlacement k cores) s = .next s' ∧ Tab.find s'.tasks k = none ∧ Tab.find s'.ctxs s.ticket = some c ∧ c.asid = l.asid ∧
        c.launch = t.launch ∧ c.header = t.header ∧ c.state = .running ∧
        (∀ i core, cores[i]? = some core → ∃ b, Tab.find s'.blocks (s.ticket + 1 + i) = some b ∧ b.core = core ∧ b.ctx = s.ticket ∧ b.gidx = i ∧
          (∀ j, j < l.threads → ∃ u, Tab.find s'.threads (1024 * (s.ticket + 1 + i) + j) = some u ∧ u.pc = t.hdr + 64 ∧ u.regs = [] ∧
            u.wb = 0 ∧ u.status = .ready ∧ u.inHandler = false ∧ u.toks = []) ∧
          (∀ w, w < t.header.waves → ∃ v, Tab.find s'.waves (32 * (s.ticket + 1 + i) + w) = some v ∧ v.alloc = t.header.base ∧
            v.status = 0 ∧ v.kregs = [] ∧ v.roles = t.header.roles.extractLsb' (3 * w) 3))) ∧
    (∀ core r, cores = core :: r → s.coresFit t cores = false → t.unassigned = true → (∀ c, c < 16 → s.fitIn t c = none) →
      s.coreCould core t.waves = true → s.clusterCould (clusterOf core) t.waves t.blocks = true → ∃ s', exec (.gangPlacement k cores) s = .next s' ∧
        Tab.find s'.tasks k = some { t with core := if t.blocks = 1 then core else 48 * clusterOf core, unassigned := false })) ∧
  (∀ (s : State) (core k : Nat) (t : Task) (l : Launch), s.firstTask (s.readyQueue core) = some (k, t) → s.coresFit t [core] = true →
    Tab.find s.launches t.launch = some l → s.poolFits l.asid t = true →
    ∃ s' c, exec (.taskPlacement core) s = .next s' ∧ Tab.find s'.tasks k = none ∧ Tab.find s'.ctxs s.ticket = some c ∧ c.launch = t.launch ∧
      c.state = .running ∧ c.origin = t ∧ c.die = dieOf core) ∧
  (∀ (s : State) (cl : Nat), Tab.rising s.tasks = true → ∃ s', exec (.neighbourBalance cl) s = .next s' ∧ s' = { s with tasks := s'.tasks } ∧
    (s.levelled = true → s' = s) ∧ ∀ k t, Tab.find s.tasks k = some t → ∃ t', Tab.find s'.tasks k = some t' ∧ t' = { t with core := t'.core } ∧
      (t.pinned = true → t' = t) ∧ (t'.core = t.core ∨ t'.core ∈ meshNeighbours t.core)) ∧
  (∀ (s : State) (core k : Nat), s.levelled = true → core < 768 → s.readyQueue core = [] → s.freeSlots core ≠ [] → s.fenced.contains (dieOf core) = false →
    s.stealFrom ((List.range 768).filter fun c => clusterOf c == clusterOf core) (fun _ => true) = some k →
    exec (.taskSteal core) s = .next { s with tasks := Tab.upd s.tasks k fun t => { t with core := core } }) ∧
  (∀ (s s1 : State) (n j pa : Nat) (l l2 : Launch), Tab.find s.launches n = some l → l.open_ = 0 → j ≠ n → Tab.find s.launches j = some l2 →
    l2.asid = l.asid → l.quiet = false → s.starved = false →
    (l.completion = 0 → ∃ s', exec (.launchComplete n) s = .next s' ∧ Tab.find s'.launches n = none ∧ Tab.find s'.launches j = some l2) ∧
    (l.completion ≠ 0 → l.completion.toNat % 8 = 0 →
      State.fwReach (s.l1FlushCores l.asid fun _ => true) l.asid l.die l.completion.toNat 8 Need.store = (s1, .ok pa) →
      s1.launches = s.launches → s1.starved = false → (∀ q, s1.queueAt q = none) →
      ∃ s', exec (.launchComplete n) s = .next s' ∧ Tab.find s'.launches n = none ∧ Tab.find s'.launches j = some l2 ∧
        s'.readMem pa 8 = bytesOf 8 (if l.killed then ~~~l.value else l.value)))

/-- The ends of phases and gangs, relaunches and pre-emption (R182, R183, R204, R286, R287, R290, R390): a gang whose threads have all exited
leaves and its launch has one less to complete; one that has arrived whole at a `phend` becomes a task of its phase records, which resume
behind it; a discarded phase starts again on another cluster; a pre-empted context leaves its runs, becomes fully evictable once its results
are written, and resumes on cores that fit.
The model's own here: room for phase records is log 61, the core of a relaunch is log 38 and resumption is log 48. -/
def Obligations.PhaseEvents : Prop :=
  ∀ (s : State) (c : Nat) (x : Ctx), Tab.find s.ctxs c = some x →
    let ts := s.ctxThreads c
    let drained := s.homeQ = [] ∧ s.bankQ = [] ∧ (∀ b ∈ x.blocks, s.enginesIdle b = true ∧ s.commitBad b x.header.carry = false ∧
      (s.block b).buffer = []) ∧
      ∀ e ∈ ts, e.2.pend = [] ∧ e.2.due = []
    let gone := fun (s' : State) => Tab.find s'.ctxs c = none ∧ (∀ k, blkOf k ∈ x.blocks → Tab.find s'.threads k = none) ∧
      (∀ b ∈ x.blocks, Tab.find s'.blocks b = none)
    (∀ l, x.state = .running → x.header.relaunch = false → drained → (∀ e ∈ ts, e.2.status = .exited) → Tab.find s.launches x.launch = some l →
      ∃ s', exec (.phaseEnd c) s = .next s' ∧ gone s' ∧ Tab.find s'.launches x.launch = some { l with open_ := l.open_ - 1 } ∧
        s'.tasks = s.tasks) ∧
    (∀ (pc : Pair) (a : Asid), x.state = .running → x.header.relaunch = false → drained →
      (∀ e ∈ ts, e.2.status = .exited ∨ e.2.status = .waiting .phend 0 ∧ Tab.find e.2.arrivals phendKey = some pc.toNat) →
      (∃ e ∈ ts, e.2.status ≠ .exited) → (∀ e ∈ ts, e.2.toks = []) → Tab.find s.asids x.asid = some a →
      (∀ l, Tab.find s.launches x.launch = some l → l.killed = false) →
      let live := x.blocks.filter fun b => (s.blockThreads b).any fun e => e.2.status != .exited
      let records := live.map fun b => s.phaseRecord x b (pc + 4)
      a.ctxUsed + records.foldl (fun n r => n + r.length) 0 ≤ a.ctxPool →
      ∃ s' k t, exec (.phaseEnd c) s = .next s' ∧ gone s' ∧ Tab.find s'.tasks k = some t ∧ t.launch = x.launch ∧ t.kind = .phase records ∧
        t.blocks = x.blocks.length ∧ t.pinned = x.origin.pinned ∧ ∀ r ∈ records, field r 16 8 = (pc + 4).toNat) ∧
    (∀ cores l, x.state = .discarded → ((((List.range 4).map fun i => 4 * x.die + i).filter (· != x.cluster)).findSome? (s.fitIn x.origin)) =
      some cores → 1 ≤ x.origin.blocks → Tab.find s.launches x.launch = some l →
      ∃ s' n y, exec (.phaseRelaunch c) s = .next s' ∧ Tab.find s'.ctxs n = some y ∧ y.state = .running ∧ y.origin = x.origin ∧
        y.launch = x.origin.launch ∧ y.poisoned = x.poisoned ∧ y.cluster ≠ x.cluster ∧ y.cluster / 4 = x.die) ∧
    (x.state = .running → ∃ s' y, exec (.preemptRequest c) s = .next s' ∧ Tab.find s'.ctxs c = some y ∧ y.state = .stopping ∧
      ∀ g ∈ s'.groups, ∀ k ∈ g.2.members, blkOf k ∉ x.blocks) ∧
    (x.state = .stopping → s.homeQ = [] → s.bankQ = [] → (∀ e ∈ ts, e.2.pend = []) → (∀ b ∈ x.blocks, Tab.find s.blocks b ≠ none) →
      (∀ b ∈ x.blocks, ∀ cmd ∈ (s.block b).copyQ, cmd.entered = false ∨ cmd.uncredited = []) →
      ∃ s' y, exec (.contextEvictable c) s = .next s' ∧ Tab.find s'.ctxs c = some y ∧ y.state = .out ∧
        ∀ b ∈ x.blocks, (s'.block b).saved = true) ∧
    (∀ b core, x.state = .out → x.held = false → x.blocks = [b] → b ≠ 0 → Tab.find s.blocks b ≠ none → dieOf core = x.die →
      s.coresFit { x.origin with blocks := 1 } [core] = true → s.keptFits x [core] = true →
      ∃ s' y, exec (.contextResume c [core]) s = .next s' ∧ Tab.find s'.ctxs c = some y ∧ y.state = .running ∧ y.kept = [] ∧
        y.cluster = clusterOf core ∧ (s'.block b).core = core ∧ (s'.block b).saved = false)

/-! ## Collectives -/

/-- The start of a collective (R337, R397): the write that completes the next slot of a collective queue window makes an instance of the
schedule that it names, with the bases that its base table holds and each operation's dependencies counted, and the fused counter of
schedules is at least the schedule's version.
The model's own here: the fused counter is log 55. -/
def Claim.CollectiveStarts : Prop :=
  ∀ (s s1 : State) (w base : Nat) (q : LaunchQ) (bytes tab : List Byte) (owner : Option Nat) (x : LoadedSched),
    Tab.find s.queues w = some q → q.collective = true → q.closed = false → bytes.length = 128 → q.next < 512 →
    Tab.find q.written q.next = none → base = field bytes 0x10 8 → field bytes 0x38 4 < 8 → zeroField bytes 0x40 64 = true →
    Tab.find s.scheds (field bytes 0 8) = some x → x.asid = q.asid →
    let off := 128 * q.next
    let q1 := q.write ((bytes.zipIdx).filterMap fun (b, i) => if off + i < 65536 then some (off + i, b) else none) owner
    let q2 : LaunchQ := { q1 with
      bytes := Store.clear q1.bytes off 128, written := Tab.del q1.written q.next, owners := Tab.del q1.owners q.next,
      next := (q.next + 1) % 512, accepted := q1.accepted + 1 }
    q2.full q2.next = false →
    State.collRead { s with queues := Tab.put (Tab.put s.queues w q1) w q2, ticket := s.ticket + 1 } q.asid q.die base 128 = (s1, some tab) →
    s1.queues = Tab.put (Tab.put s.queues w q1) w q2 → s1.starved = false →
    ∃ s' c, exec (.collectiveStartAccept w off bytes owner) s = .next s' ∧ Tab.find s'.queues w = some q2 ∧
      Tab.find s'.colls s.ticket = some c ∧ c.asid = q.asid ∧ c.handle = field bytes 0 8 ∧ c.tag.toNat = field bytes 8 8 ∧
      c.bases = (chunksOf 8 16 tab).map (valOf 64) ∧ c.completion.toNat = field bytes 0x28 8 ∧ c.value.toNat = field bytes 0x30 8 ∧
      c.done = [] ∧ c.stepMs = (if field bytes 0x3c 4 = 0 then 100 else field bytes 0x3c 4) ∧
      (∀ op o, x.sched.ops[op]? = some o → Tab.getD c.deps op 0 = o.deps) ∧ x.version.toNat ≤ (Store.read s'.fused 2).toNat

/-- The chunk operations (R336, R338, R340, R342): `send` sends the source bytes to the peer, `recv` stages a peer's chunk for its slot,
`reduce` combines a staged chunk into the destination and adds its rank to the slot's order, `copy` moves bytes, `gate` completes once its
word has reached its value, and `signal` ends the collective with success; each that completes lowers its successors' counters.
The model's own here: corners are log 55. -/
def Claim.ChunkOperations : Prop :=
  ∀ (s : State) (inst op : Nat) (c : Collective) (x : LoadedSched) (o : SchedOp), OpReady s inst op c x o →
    (∀ (peer : Nat) (s1 : State) (b : List Byte), o.kind = .send peer → packedType o.ety = none →
      s.collRead c.asid c.die (c.at_ o.src) o.len = (s1, some b) → s1.colls = s.colls → s1.starved = false →
      ∃ s' d, exec (.scheduleSend inst op) s = .next s' ∧ OpDone s' inst op c d o ∧ d.staging = c.staging ∧
        s'.outbox = .chunk (x.sched.modules.getD peer 0) x.sched.rank c.tag op b :: s1.outbox ∧ s'.mem = s1.mem) ∧
    (∀ (peer slot : Nat) (bytes : List Byte), o.kind = .recv peer slot → s.starved = false →
      ∃ s' d, exec (.scheduleRecv inst op peer bytes) s = .next s' ∧ OpDone s' inst op c d o ∧
        d.staging = c.staging ++ [(op, slot, peer, bytes)] ∧ d.order = c.order ∧ s'.mem = s.mem) ∧
    (∀ (slot : Nat) (y : Nat × Nat × Nat × List Byte) (s1 s2 : State) (d r : List Byte), o.kind = .reduce slot → c.replay = false →
      (c.staging.filter fun z => z.2.1 == slot).head? = some y → packedType o.ety = none →
      s.collRead c.asid c.die (c.at_ o.dst) o.len = (s1, some d) → combine o.ety d (y.2.2.2.take o.len) = some r →
      s1.collWrite c.asid c.die (c.at_ o.dst) r = (s2, true) → s2.starved = false →
      ∃ s' e, exec (.scheduleReduce inst op slot) s = .next s' ∧ OpDone s' inst op c e o ∧ s'.mem = s2.mem ∧
        e.staging = c.staging.filter (fun z => z.1 != y.1) ∧ Tab.getD e.order slot [] = Tab.getD c.order slot [] ++ [y.2.2.1] ∧
        e.bits = (if orderDependent o.ety then c.bits ||| 2 else c.bits)) ∧
    (∀ (s1 s2 : State) (b : List Byte), o.kind = .copy → s.collRead c.asid c.die (c.at_ o.src) o.len = (s1, some b) →
      s1.collWrite c.asid c.die (c.at_ o.dst) b = (s2, true) → s2.colls = s.colls → s2.starved = false →
      ∃ s' d, exec (.scheduleCopy inst op) s = .next s' ∧ OpDone s' inst op c d o ∧ s'.mem = s2.mem ∧ d.staging = c.staging) ∧
    (∀ (v : Pair) (s1 : State) (b : List Byte), o.kind = .gate v → s.collRead c.asid c.die (c.at_ o.src) 8 = (s1, some b) → s1.colls = s.colls →
      s1.starved = false →
      (v.toNat ≤ natOf b → ∃ s' d, exec (.scheduleGate inst op) s = .next s' ∧ OpDone s' inst op c d o ∧ s'.mem = s1.mem) ∧
      (natOf b < v.toNat → exec (.scheduleGate inst op) s = .next s1)) ∧
    (o.kind = .signal → (s.endColl inst 0).starved = false → ∃ s', exec (.scheduleSignal inst op) s = .next s' ∧ Ended s s' inst c 0)

/-- Timers, absence and reservations (R341, R343): a `recv` that has waited beyond the step timer for a rank that is not absent ends the
collective with TIMEOUT; the absence of a rank is kept with its time, and when the rank is present again the waits for it are longer by its
absence; after more than 1 ms of continuous absence of a rank ABSENT is set, and FALLBACK too where a reservation is held, which is released;
the loss of a switch reservation that is held sets FALLBACK. -/
def Claim.CollectiveTimers : Prop :=
  ∀ (s : State) (inst : Nat) (c : Collective), Tab.find s.colls inst = some c →
    (∀ (op peer slot since : Nat) (x : LoadedSched) (o : SchedOp), OpReady s inst op c x o → o.kind = .recv peer slot →
      Tab.find c.waiting op = some since → Tab.find c.absent peer = none → clocksOf (1000 * c.stepMs) < s.clock - since →
      (s.endColl inst 8).starved = false → ∃ s', exec (.stepTimerExpiry inst op) s = .next s' ∧ Ended s s' inst c 8) ∧
    (∀ rank, Tab.find c.absent rank = none → ∃ s' d, exec (.absentNotice inst rank false) s = .next s' ∧ Tab.find s'.colls inst = some d ∧
      d = { c with absent := d.absent } ∧ Tab.find d.absent rank = some s.clock ∧ (∀ r, r ≠ rank → Tab.find d.absent r = Tab.find c.absent r) ∧
      s' = { s with colls := s'.colls }) ∧
    (∀ rank gone x, Tab.find c.absent rank = some gone → Tab.find s.scheds c.handle = some x →
      ∃ s' d, exec (.absentNotice inst rank true) s = .next s' ∧ Tab.find s'.colls inst = some d ∧ Tab.find d.absent rank = none ∧
        (∀ r, r ≠ rank → Tab.find d.absent r = Tab.find c.absent r) ∧ s' = { s with colls := s'.colls } ∧
        ∀ op o peer slot since, x.sched.ops[op]? = some o → o.kind = .recv peer slot → Tab.find c.waiting op = some since →
          Tab.find d.waiting op = some (if peer = rank then since + (s.clock - max since gone) else since)) ∧
    ((∃ e ∈ c.absent, clocksOf 1000 < s.clock - e.2) → exec (.reservationRelease inst) s =
      .next { s with colls := Tab.put s.colls inst { c with bits := c.bits ||| 4 ||| (if c.reserved then 1 else 0), reserved := false } }) ∧
    ((∀ e ∈ c.absent, s.clock - e.2 ≤ clocksOf 1000) → exec (.reservationRelease inst) s = .next s) ∧
    (c.reserved = true → exec (.switchReservationLoss inst) s =
      .next { s with colls := Tab.put s.colls inst { c with bits := c.bits ||| 1, reserved := false } }) ∧
    (c.reserved = false → exec (.switchReservationLoss inst) s = .next s)

/-! ## The module -/

/-- A module reset and the boot that follows (R401, R402, R396, R397, R409): a reset clears the module and leaves its ROM running; then
firmware's envelope is checked, and memory and the dies that passed are there, but not yet READY; then key slots, self-tests, ports and READY,
with every byte of the module's memory zero, no address space, thread, queue or population left, the test kernels' images whose envelopes are
accepted, each port of a live die that trained up, and the fused counter of firmware at the image's version.  An envelope that is rejected
leaves FAIL and CODE 1 with nothing but the ROM, and its reason in firmware's log; a die that fails a step is fenced with an event, and a boot
that has no die left leaves FAIL and the code of the step that the last one failed.
The model's own here: what the boot meets is log 3, what a reset keeps is log 42, the power cap after it is log 43 and the numbers of reasons are log
88. -/
def Obligations.ModuleReset : Prop :=
  ∀ (s : State) (b : BootIn), s.Canonical →
    let stored := fun d => d ∈ b.badDies ∨ d ∈ b.badLinks
    let tested := fun d => stored d ∨ d ∈ b.badTests
    let out := fun d => tested d ∨ d ∈ b.badFabric
    ∃ s1, exec (.moduleReset b) s = .next s1 ∧ s1.host.boot = 1 ∧ s1.isReady = false ∧ s1.clock = 0 ∧ s1.threads = [] ∧ s1.ctxs = [] ∧
      (∀ a, a < 2 ^ 40 → Store.read (w := 8) s1.mem a = 0) ∧ s1.fused = s.fused ∧
      (∀ r, s.refusal 1 b.firmware = some r → ∃ s2, s1.bootNext = some s2 ∧ s2.host.boot = 0x01000009 ∧ s2.isReady = false ∧
        s2.bootNext = none ∧ s2.power.errors = [(5, 1 + 16 * r)]) ∧
      (s.refusal 1 b.firmware = none → (∀ d, d < 4 → stored d) → ∃ s2, s1.bootNext = some s2 ∧ s2.isReady = false ∧
        s2.host.boot.getLsbD 3 = true ∧ s2.host.boot.getLsbD 1 = false ∧
        s2.host.boot.extractLsb' 24 8 = (if (List.range 4).all b.badDies.contains then 2 else 3) ∧
        (∀ d, d < 4 → s2.host.boot.getLsbD (4 + d) = false ∧ d ∈ s2.fenced) ∧ s2.host.evPosted = 4 ∧ s2.bootNext = none) ∧
      (s.refusal 1 b.firmware = none → (∃ d, d < 4 ∧ ¬stored d) → ∃ s2 s3, s1.bootNext = some s2 ∧ s2.bootNext = some s3 ∧ s3.bootNext = none ∧
        s2.isReady = false ∧ s2.host.boot.getLsbD 0 = true ∧ s2.host.boot.getLsbD 1 = true ∧ s2.host.boot.getLsbD 3 = false ∧
        (∀ d, d < 4 → (s2.host.boot.getLsbD (4 + d) = true ↔ ¬stored d) ∧ (d ∈ s2.fenced ↔ stored d)) ∧
        s2.host.evPosted.toNat = s2.fenced.length ∧ s3.host.evPosted.toNat = s3.fenced.length ∧
        ((∀ d, d < 4 → out d) → s3.isReady = false ∧ s3.host.boot.getLsbD 3 = true ∧
          s3.host.boot.extractLsb' 24 8 = (if (List.range 4).all fun d => b.badDies.contains d || b.badLinks.contains d || b.badTests.contains d then 5 else 4) ∧
          ∀ d, d < 4 → s3.host.boot.getLsbD (4 + d) = false ∧ d ∈ s3.fenced) ∧
        ((∃ d, d < 4 ∧ ¬out d) →
          s3.isReady = true ∧ s3.host.boot.getLsbD 0 = true ∧ s3.host.boot.getLsbD 1 = true ∧ s3.host.boot.getLsbD 3 = false ∧
          (∀ d, d < 4 → (s3.host.boot.getLsbD (4 + d) = true ↔ ¬out d) ∧ (d ∈ s3.fenced ↔ out d)) ∧
          (∀ a, a < 2 ^ 40 → Store.read (w := 8) s3.mem a = 0) ∧ (∀ a, Store.read s3.bank a = 0) ∧ s3.l1 = [] ∧ s3.poison = [] ∧
          s3.badWords = [] ∧ s3.asids = [] ∧ s3.threads = [] ∧ s3.ctxs = [] ∧ s3.queues = [] ∧ s3.pops = [] ∧ s3.sets = [] ∧ s3.access = [] ∧
          s3.sillage = [] ∧ s3.tests = [] ∧
          (∀ p, p < 36 → ∃ y, Tab.find s3.ports p = some y ∧ (y.up = true ↔ ¬out (p / 9) ∧ p ∉ b.badPorts)) ∧
          (∀ i e, b.tests[i]? = some e → Tab.find s3.images i = if s.refusal 3 e = none then some (testImage e) else none) ∧
          (∀ i, i ≠ 1 → Store.read s3.fused i = Store.read s.fused i) ∧ (Store.read s3.fused 1).toNat = field b.firmware.head 8 4 ∧
          s3.fwVersion.toNat = field b.firmware.head 8 4 ∧ s3.power.cap = State.reset.power.cap))

/-- Fencing a die (R391): the die is fenced and no longer live in the boot status register, its frames are lost, its ports are down, its
contexts are gone, and event 3 names it.
The model's own here: the fate of operations in flight is log 39. -/
def Claim.DieFences : Prop :=
  ∀ (s : State) (die : Nat), die < 4 → die ∉ s.fenced →
    ∃ s' t : State, exec (.dieFence die) s = .next s' ∧ s' = t.postEvent 3 0xffff (natBytes 1 die) ∧ s'.fenced = insertNat die s.fenced ∧
      (∀ pa, onDie die pa = true → s'.lost pa = true) ∧ (∀ b, s'.host.boot.getLsbD b = (s.host.boot.getLsbD b && decide (b ≠ 4 + die))) ∧
      (∀ j y, j < 9 → Tab.find s'.ports (9 * die + j) = some y → y.up = false) ∧ (∀ c x, Tab.find s'.ctxs c = some x → x.die ≠ die) ∧
      ∀ t' ∈ s'.txs, t'.2.die ≠ die

/-- Power, heat and coolant (R403, R404): above the cap the busiest core island that is above the floor goes down by 100 MHz, and below 0.95
of it the least busy island that is lowered and not held goes up by 100 MHz, while nothing but the clocks and the sample changes; an island
at 100 °C is held at 1.2 GHz and 115 °C fences the die; a coolant flow below 2.0 L/min makes the cap 1,500 W; the last two and the hold post
event 4.
The model's own here: one step for each sample and holds that stay are log 43. -/
def Claim.PowerAndHeat : Prop :=
  ∀ (s : State),
    (∀ (r : Sensors) (i : Nat), s.power.cap < r.power → (r.busiest.filter s.coreIsland).find? (fun i => decide (1200 < s.islandClock i)) = some i →
      ∃ s', exec (.powerSample r) s = .next s' ∧ s'.islandClock i = max 1200 (s.islandClock i - 100) ∧
        (∀ j, j ≠ i → s'.islandClock j = s.islandClock j) ∧ s' = { s with power := { s.power with sensors := r, clocks := s'.power.clocks } }) ∧
    (∀ (r : Sensors) (i : Nat), 100 * r.power < 95 * s.power.cap →
      (r.busiest.filter s.coreIsland).reverse.find? (fun i => decide (s.islandClock i < 2400) && !s.power.held.contains i) = some i →
      ∃ s', exec (.powerSample r) s = .next s' ∧ s'.islandClock i = min 2400 (s.islandClock i + 100) ∧
        (∀ j, j ≠ i → s'.islandClock j = s.islandClock j) ∧ s' = { s with power := { s.power with sensors := r, clocks := s'.power.clocks } }) ∧
    (∀ die island temp, die < 4 → die ∉ s.fenced →
      (island < 64 → temp < 10000 → exec (.thermalEvent die island temp) s = .next { s with
        power := { s.power with temps := Tab.put s.power.temps (64 * die + island) temp } }) ∧
      (island < 48 → 10000 ≤ temp → temp < 11500 → ∃ s' t : State, exec (.thermalEvent die island temp) s = .next s' ∧
        s' = t.postEvent 4 0xffff (natBytes 1 die ++ natBytes 1 0 ++ natBytes 2 temp ++ natBytes 1 0) ∧
        s'.islandClock (64 * die + island) = 1200 ∧ 64 * die + island ∈ s'.power.held ∧
        Tab.find s'.power.temps (64 * die + island) = some temp ∧ s'.fenced = s.fenced) ∧
      (island < 64 → 11500 ≤ temp → ∃ s' t : State, exec (.thermalEvent die island temp) s = .next s' ∧ die ∈ s'.fenced ∧
        s' = t.postEvent 4 0xffff (natBytes 1 die ++ natBytes 1 0 ++ natBytes 2 temp ++ natBytes 1 1))) ∧
    (∀ flow, flow < 200 → ∃ s' t : State, exec (.coolantFlowLow flow) s = .next s' ∧ s'.power.cap = 1500 ∧
      s' = t.postEvent 4 0xffff (natBytes 1 0 ++ natBytes 1 0 ++ natBytes 2 flow ++ natBytes 1 2))

/-- Background activities (R382, R386, R392, R393): an error that ECC corrects is logged and changes nothing that a program sees; one that it
cannot correct poisons its word or unit and leaves the bytes; so does a patrol scrub; a calibration leaves a port up; a test kernel on a core
ends once its context is gone, and the digest of its result area decides: where it is the image's, levelled stealing ends and a quarantine of
the partition that ran it may be cleared; where a first run's differs, the kernel runs again on another core; where the digest of that second
run is the image's, the first core is quarantined, in whole or in part; and where it differs too, the image is suspect.
The model's own here: poison and the errors that ECC finds are log 36, stealing is log 40, quarantines are log 41 and the layout of a test kernel's
image is log 87. -/
def Claim.Background : Prop :=
  ∀ (s : State),
    (∀ c r, s.agenda = .upset c true :: r → ∃ s', step s = .next s' ∧ s' = { s with clock := s.clock + 1, agenda := r, power := s'.power } ∧
      s'.power = { s.power with errors := s'.power.errors } ∧ s'.power.errors.length = s.power.errors.length + 1) ∧
    (∀ c r, s.agenda = .upset c false :: r → ∃ s', step s = .next s' ∧ s'.mem = s.mem ∧ s'.bank = s.bank ∧
      s'.power.errors.length = s.power.errors.length + 1 ∧
      (∀ k t, Tab.find s.threads k = some t → ∃ t', Tab.find s'.threads k = some t' ∧ t' = { t with bad := t'.bad } ∧
        ∀ n, n ∈ t'.bad ↔ n ∈ t.bad ∨ c = .reg k n) ∧
      (∀ u, u ∈ s'.poison ↔ u ∈ s.poison ∨ c = .unit u) ∧
      (∀ d o, Place.bank d (8 * o) ∈ s'.badWords ↔ Place.bank d (8 * o) ∈ s.badWords ∨ ∃ p, c = .word (.bank d p) ∧ p / 8 = o)) ∧
    (∀ unit, (∃ s', exec (.patrolScrub unit false) s = .next s' ∧ s' = { s with picks := s'.picks, power := s'.power } ∧
        s'.power = { s.power with errors := s'.power.errors } ∧ (s.picks = [] → s' = s)) ∧
      (32 * unit < 2 ^ 40 → paLegal (32 * unit) = true → s.lost (32 * unit) = false → s.accordPages = [] →
        ∃ s', exec (.patrolScrub unit true) s = .next s' ∧ unit ∈ s'.poison ∧ (∀ u, u ≠ unit → (u ∈ s'.poison ↔ u ∈ s.poison)) ∧
          s'.mem = s.mem ∧ s'.power.errors = s.power.errors ++ [(0, unit)])) ∧
    (∀ port lane p, Tab.find s.ports port = some p → ∃ s', exec (.calibration port lane) s = .next s' ∧
      Tab.find s'.ports port = some { p with lane := lane } ∧ s' = { s with ports := s'.ports } ∧
      ∀ q, q ≠ port → Tab.find s'.ports q = Tab.find s.ports q) ∧
    (∀ (core image slot other : Nat) (choice : Bool) (x : TestImage) (r : TestRun) (s1 : State) (area : Option (List Byte)), Tab.find s.images image = some x →
      s.tests.find? (fun q => q.core == core && q.image == image) = some r → r.slot = some slot → (s.ctxs.any fun e => e.1 == r.ctx) = false →
      State.fwReadAll { s with tests := s.tests.filter fun y => y.core != core } (pagePieces (testVa image + x.area.1) x.area.2) = (s1, area) →
      ∃ s', exec (.testKernelEnd core image choice other) s = .next s' ∧
        match r.first with
        | none =>
          if area.map Config.sha384 = some x.result then
            s'.stealing = false ∧ s'.mem = s1.mem ∧ s'.tests = s1.tests ∧ s'.power.suspect = s1.power.suspect ∧
              (∀ c, c ≠ core → Tab.getD s'.power.quarantine c 0 = Tab.getD s1.power.quarantine c 0) ∧
              (∀ p, p < 4 → p ≠ slot % 4 → (Tab.getD s'.power.quarantine core 0).getLsbD p = (Tab.getD s1.power.quarantine core 0).getLsbD p) ∧
              (choice = true → (Tab.getD s'.power.quarantine core 0).getLsbD (slot % 4) = false) ∧
              (choice = false → s'.power.quarantine = s1.power.quarantine)
          else s'.power.suspect = s1.power.suspect ∧ s'.power.quarantine = s1.power.quarantine ∧
            ∀ q ∈ s'.tests, q ∈ s1.tests ∨ q.image = image ∧ q.core ≠ core ∧ q.first = some (core, slot)
        | some (c, n) =>
          if area.map Config.sha384 = some x.result then
            s'.stealing = true ∧ s'.power.suspect = s1.power.suspect ∧
              (∀ p, p < 4 → ((Tab.getD s'.power.quarantine c 0).getLsbD p = true ↔
                choice = true ∨ p = n % 4 ∨ (Tab.getD s1.power.quarantine c 0).getLsbD p = true)) ∧
              ∀ d, d ≠ c → Tab.getD s'.power.quarantine d 0 = Tab.getD s1.power.quarantine d 0
          else s' = { s1 with power := { s1.power with suspect := s1.power.suspect ++ [image] } })

/-- The host link (R5, R399, R400, R402, R405, R406): bytes written to the request buffer while the mailbox is ready and not busy are there, and
otherwise are discarded and set LOST; a write of MBXGO with GO = 1 keeps SEQ and makes the command of the request buffer the next event, or
sets LOST; MBXSTAT's LOST clears by writing 1; MBXIEN keeps its three enables; until READY no register takes a write; GO reads 0, and so does
an offset without a name; an access of device memory outside every aperture, and what of it lies beyond an aperture's end, is discarded and
reads as ones; one that lies in an aperture goes through the page table of its ASID.
The model's own here: the bytes of a read outside every window and the next event after GO are log 44. -/
def Claim.HostAccesses : Prop :=
  ∀ (s : State),
    let open_ := s.isReady = true ∧ s.host.stat.getLsbD 1 = false
    let lost := fun (s' : State) => s'.host.stat = s.host.stat ||| 4 ∧ s' = { s with host := { s.host with stat := s'.host.stat } }
    (∀ off (bytes : List Byte), off + bytes.length ≤ 4096 →
      (open_ → ∃ s', exec (.requestBufferWrite off bytes) s = .next s' ∧ s' = { s with host := { s.host with req := s'.host.req } } ∧
        Store.reads s'.host.req off bytes.length = bytes ∧
        ∀ i, i < off ∨ off + bytes.length ≤ i → Store.read s'.host.req i = Store.read s.host.req i) ∧
      (¬open_ → ∃ s', exec (.requestBufferWrite off bytes) s = .next s' ∧ lost s')) ∧
    (∀ w : BitVec 64,
      (w.getLsbD 0 = true → open_ → exec (.registerWrite 0x100 w false) s = .next { s with
        host := { s.host with goSeq := w.extractLsb' 16 16 }
        agenda := .event (mbxEvent s.mbxCode.1 s.mbxCode.2 (w.extractLsb' 16 16)) :: s.agenda }) ∧
      (w.getLsbD 0 = true → ¬open_ → ∃ s', exec (.registerWrite 0x100 w false) s = .next s' ∧ lost s') ∧
      (s.isReady = true →
        (w.getLsbD 0 = false → exec (.registerWrite 0x100 w false) s = .next { s with host := { s.host with goSeq := w.extractLsb' 16 16 } }) ∧
        (∃ s', exec (.registerWrite 0x104 w false) s = .next s' ∧ s' = { s with host := { s.host with stat := s'.host.stat } } ∧
          ∀ b, s'.host.stat.getLsbD b = (s.host.stat.getLsbD b && !(decide (b = 2) && w.getLsbD 2))) ∧
        (∃ s', exec (.registerWrite 0x108 w false) s = .next s' ∧ s' = { s with host := { s.host with ien := s'.host.ien } } ∧
          s'.host.ien.toNat = w.toNat % 8)) ∧
      (s.isReady = false → (w.getLsbD 0 = false → exec (.registerWrite 0x100 w false) s = .next s) ∧
        exec (.registerWrite 0x104 w false) s = .next s ∧ exec (.registerWrite 0x108 w false) s = .next s) ∧
      ∀ off ∈ [0x0, 0x110, 0x118, 0x200, 0x2000, 0x4000], exec (.registerWrite off w false) s = .next s) ∧
    (s.readReg 0 = s.host.boot ∧ (s.readReg 0x100).extractLsb' 0 16 = 0 ∧ (s.readReg 0x100).extractLsb' 16 16 = s.host.goSeq ∧
      s.readReg 0x104 = s.host.stat ∧ s.readReg 0x108 = s.host.ien ∧
      ∀ off, 0x11C < off → off < 0x1000 ∨ 0x3000 ≤ off ∧ off < 0x4000 ∨ 0x8000 ≤ off → s.readReg off = 0) ∧
    (∀ off, (∀ (bytes : List Byte), bytes ≠ [] →
        (∀ a ∈ s.host.apertures, off + bytes.length ≤ a.start ∨ a.start + a.len ≤ off) →
        exec (.bar2UnmappedAccess off (some bytes)) s = .next s) ∧
      (s.starved = false → (∀ a ∈ s.host.apertures, off + 8 ≤ a.start ∨ a.start + a.len ≤ off) →
        exec (.bar2UnmappedAccess off none) s = .next { s with host := { s.host with lastRead := List.replicate 8 0xff } })) ∧
    (∀ (a : Aperture) (off : Nat) (s1 : State) (pa : Nat), s.host.apertures = [a] → a.start ≤ off → off < a.start + a.len →
      let va := a.va.toNat + (off - a.start)
      (∀ (bytes : List Byte), bytes ≠ [] →
        let n := min bytes.length (a.start + a.len - off)
        va % 65536 + n ≤ 65536 → State.fwReach s a.asid 0 va n Need.store = (s1, .ok pa) → s1.starved = false →
        exec (.bar2UnmappedAccess off (some bytes)) s = .next (s1.writeMem pa (bytes.take n))) ∧
      (let n := min 8 (a.start + a.len - off)
       va % 65536 + n ≤ 65536 → State.fwReach s a.asid 0 va n Need.load = (s1, .ok pa) → s1.starved = false →
        exec (.bar2UnmappedAccess off none) s = .next { s1 with host := { s1.host with
          lastRead := s1.readMem pa n ++ List.replicate (8 - n) 0xff } }))

/-! ## The mailbox -/

/-- The commands with fixed fields and no action (Table 23-9): the event that serves it, its code and its payload length. -/
def Claim.fixedCommands (seq : BitVec 16) : List (Instr × Nat × Nat) :=
  [(.mbxInfo seq, 0x0001, 0), (.mbxAcknowledgeEvents seq, 0x0002, 8), (.mbxCreateAsid seq, 0x0010, 32), (.mbxTearDownAsid seq, 0x0011, 2),
   (.mbxBankSegment seq, 0x0012, 8), (.mbxMapPages seq, 0x0020, 32), (.mbxUnmapPages seq, 0x0021, 20), (.mbxAperture seq, 0x0022, 32),
   (.mbxAccordSetEntry seq, 0x0023, 8), (.mbxMapAccordPages seq, 0x0024, 20), (.mbxReplaceAccordMember seq, 0x0025, 3),
   (.mbxCreateLaunchQueue seq, 0x0030, 16), (.mbxDestroyLaunchQueue seq, 0x0031, 2), (.mbxReadOverrunCount seq, 0x0032, 2)] ++
  [(.mbxCollectiveQueueWindow seq, 0x0033, 16), (.mbxSetModuleNumber seq, 0x0040, 2), (.mbxRegisterWindow seq, 0x0041, 24),
   (.mbxUnregisterWindow seq, 0x0042, 2), (.mbxAccessControlEntry seq, 0x0043, 16), (.mbxLoadSchedule seq, 0x0044, 24),
   (.mbxPopulationRead seq, 0x0053, 2), (.mbxPreEmpt seq, 0x0060, 2), (.mbxPowerCap seq, 0x0070, 4), (.mbxTelemetry seq, 0x0071, 0),
   (.mbxAttestation seq, 0x0080, 72), (.mbxHostMessageQueue seq, 0x0090, 16)]

/-- Requests that are not served (R406 to R408): one whose payload length is not its command's, or with a reserved header byte that is not 0,
completes with status 2; a command code that no row of the table has completes with status 1; before READY every submission is discarded and
sets LOST. -/
def Claim.MailboxRefusals : Prop :=
  ∀ (s : State) (seq : BitVec 16),
    (∀ x ∈ Claim.fixedCommands seq,
      (s.isReady = true → s.host.stat.getLsbD 1 = false → Store.reads s.host.req 0 2 = natBytes 2 x.2.1 →
        (natOf (Store.reads s.host.req 4 4) ≠ x.2.2 ∨ natOf (Store.reads s.host.req 2 2) ≠ 0 ∨ natOf (Store.reads s.host.req 8 8) ≠ 0) →
        Rejects s (exec x.1 s) seq 2) ∧
      (s.isReady = false → exec x.1 s = .next s.setLost)) ∧
    (s.isReady = true → s.host.stat.getLsbD 1 = false →
      natOf (Store.reads s.host.req 0 2) ∉ [0x0001, 0x0002, 0x0010, 0x0011, 0x0012, 0x0020, 0x0021, 0x0022, 0x0023, 0x0024, 0x0025, 0x0030,
        0x0031, 0x0032, 0x0033, 0x0040, 0x0041, 0x0042, 0x0043, 0x0044, 0x0050, 0x0051, 0x0052, 0x0053, 0x0060, 0x0061, 0x0062, 0x0070,
        0x0071, 0x0080, 0x0090] → Rejects s (exec (.mbxUnknownCommand seq) s) seq 1)

/-- Commands on the module (Table 23-9, R327, R328, R334, R403, R409): info and telemetry give what they list; events are acknowledged up to
EVPOSTED and never backwards; the module number stands while no window is registered; a power cap lies from 1,500 to 4,200 W; windows are
registered with their rights and range and unregistered once nothing is in flight to them; access-control entries are kept but for their reserved
bits; a queue's overrun
count and a population's status word, resample index and Z are read.
The model's own here: how a command is served is log 46 and statuses are log 45. -/
def Claim.MailboxModule : Prop :=
  ∀ (s : State) (seq : BitVec 16) (p : List Byte),
    (Asks s 0x0001 [] p → Serves (exec (.mbxInfo seq) s) seq s (natBytes 4 1 ++ bytesOf 4 s.host.boot ++ natBytes 2 (s.module.getD 0xffff) ++
      natBytes 2 0 ++ bytesOf 4 s.fwVersion ++ bytesOf 8 s.host.evLost ++ s.quarantineMap)) ∧
    (Asks s 0x0002 [(0, 8)] p →
      (s.host.evAck.toNat ≤ field p 0 8 → field p 0 8 ≤ s.host.evPosted.toNat → Serves (exec (.mbxAcknowledgeEvents seq) s) seq
        { s with host := { s.host with evAck := BitVec.ofNat 64 (field p 0 8) } } []) ∧
      (field p 0 8 < s.host.evAck.toNat ∨ s.host.evPosted.toNat < field p 0 8 → Rejects s (exec (.mbxAcknowledgeEvents seq) s) seq 3)) ∧
    (Asks s 0x0040 [(0, 2)] p → field p 0 2 < 512 →
      (s.windows = [] → Serves (exec (.mbxSetModuleNumber seq) s) seq { s with module := some (field p 0 2) } []) ∧
      (s.windows ≠ [] → Rejects s (exec (.mbxSetModuleNumber seq) s) seq 5)) ∧
    (Asks s 0x0070 [(0, 4)] p →
      (1500 ≤ field p 0 4 → field p 0 4 ≤ 4200 → Serves (exec (.mbxPowerCap seq) s) seq
        { s with power := { s.power with cap := field p 0 4 } } []) ∧
      (field p 0 4 < 1500 ∨ 4200 < field p 0 4 → Rejects s (exec (.mbxPowerCap seq) s) seq 3)) ∧
    (Asks s 0x0071 [] p → Serves (exec (.mbxTelemetry seq) s) seq s (natBytes 4 s.power.sensors.power ++ natBytes 4 s.power.cap ++
      natBytes 2 s.power.sensors.inlet ++ natBytes 2 s.power.sensors.flow ++
      ((List.range 4).flatMap fun d => natBytes 2 (s.hottest d)) ++
      ((List.range 4).flatMap fun d => natBytes 2 (s.lowestClock d)))) ∧
    (∀ a, Asks s 0x0041 [(0, 2), (2, 2), (4, 1), (8, 8), (16, 8)] p → Tab.find s.asids (field p 2 2) = some a → a.live = true → a.closing = false →
      field p 2 2 < 1024 → field p 0 2 < 4096 → 0 < field p 4 1 → field p 4 1 < 4 → field p 8 8 % 65536 = 0 → field p 16 8 % 65536 = 0 →
      field p 16 8 ≤ 2 ^ 48 → field p 8 8 + field p 16 8 ≤ 2 ^ 57 → Tab.find s.windows (field p 0 2) = none →
      Serves (exec (.mbxRegisterWindow seq) s) seq { s with windows := (Tab.put s.windows (field p 0 2)
        (Window.mk (field p 2 2) (BitVec.ofNat 64 (field p 8 8)) (field p 16 8) (field p 4 1 % 2 == 1) (2 ≤ field p 4 1) 0 0)) } []) ∧
    (∀ x, Asks s 0x0042 [(0, 2)] p → field p 0 2 < 4096 → Tab.find s.windows (field p 0 2) = some x →
      (s.windowBusy (field p 0 2) = false → Serves (exec (.mbxUnregisterWindow seq) s) seq
        { s with windows := Tab.del s.windows (field p 0 2) } []) ∧
      (s.windowBusy (field p 0 2) = true → exec (.mbxUnregisterWindow seq) s = .next
        { s with host := { s.host with served := seq, stat := s.host.stat ||| 2 } })) ∧
    (Asks s 0x0043 [(0, 2), (8, 8)] p → field p 0 2 < 4096 → Serves (exec (.mbxAccessControlEntry seq) s) seq
      { s with access := Store.write s.access (field p 0 2) (BitVec.ofNat 64 (field p 8 8) &&& 0x33FFFFF3FF) } []) ∧
    (∀ q, Asks s 0x0032 [(0, 2)] p → field p 0 2 < 4096 → Tab.find s.queues (field p 0 2) = some q → q.closed = false →
      Serves (exec (.mbxReadOverrunCount seq) s) seq s (bytesOf 8 q.overruns)) ∧
    (∀ x, Asks s 0x0053 [(0, 2)] p → field p 0 2 < 4096 → Tab.find s.pops (field p 0 2) = some x →
      Serves (exec (.mbxPopulationRead seq) s) seq s (bytesOf 4 x.word ++ natBytes 4 0 ++ bytesOf 8 x.index ++ bytesOf 8 x.z))

/-- Commands on address spaces (Table 23-9, R169, R227, R228, R232, R234, R394, R395): a new ASID takes the lowest slot without a live key and has
an empty page table and the pools asked for; one that is torn down loses its contexts, launches, collectives and populations and closes its
queues, then, once nothing of it is in flight, its key, translations and lines, its slot's generation one higher, and then its windows and
frames, and the response follows; a bank segment is given or taken away, and what is taken away is cleared; a page is mapped by
its leaf entry and charged; one unmapped has no cached translation; apertures are made, and taken away by the ASID that
has them; queue windows are opened with nothing
in them and closed, what they have accepted running on; a message queue starts with its counts at zero.
The model's own here: the allocator is log 7, how a command is served is log 46 and the moment of a teardown is log 50. -/
def Obligations.MailboxSpaces : Prop :=
  ∀ (s : State) (seq : BitVec 16) (p : List Byte),
    (∀ n s1 pa, Asks s 0x0010 [(0, 8), (8, 8), (16, 8), (24, 8)] p →
      ((List.range 1024).find? fun n => match Tab.find s.asids n with | some a => !a.live && !a.closing | none => true) = some n →
      s.allocFrames none 32 = some (s1, pa) →
      ∃ (t : State) (a : Asid), Tab.find t.asids n = some a ∧ a.live = true ∧ a.closing = false ∧ a.root = pa ∧ a.limit = field p 0 8 ∧ a.used = 0 ∧
        a.ctxPool = field p 8 8 ∧ a.statePool = field p 16 8 ∧ a.relaunchPool = field p 24 8 ∧ a.launches = 0 ∧
        a.keyGen = (match Tab.find s.asids n with | some b => b.keyGen | none => 0) ∧
        t = { s1 with ticket := s1.ticket + 1, asids := Tab.put s1.asids n a } ∧
        Serves (exec (.mbxCreateAsid seq) s) seq t (natBytes 2 n ++ natBytes 2 0 ++ bytesOf 4 a.keyGen)) ∧
    (∀ a, Asks s 0x0011 [(0, 2)] p → field p 0 2 < 1024 → Tab.find s.asids (field p 0 2) = some a → a.live = true → a.closing = false →
      (s.teardown (field p 0 2)).starved = false →
      ∃ (t : State) (b : Asid), exec (.mbxTearDownAsid seq) s = .next t ∧ t.host.stat.getLsbD 1 = true ∧ t.host.served = seq ∧
        Tab.find t.asids (field p 0 2) = some b ∧ b.closing = true ∧ b.live = true ∧ (∀ c x, Tab.find t.ctxs c = some x → x.asid ≠ field p 0 2) ∧
        (∀ e ∈ t.colls, e.2.asid ≠ field p 0 2) ∧ (∀ e ∈ t.pops, e.2.asid ≠ field p 0 2) ∧ (∀ e ∈ t.launches, e.2.asid ≠ field p 0 2) ∧
        ∀ e ∈ t.queues, e.2.asid = field p 0 2 → e.2.closed = true) ∧
    (∀ n a, Tab.find s.asids n = some a → a.closing = true →
      (a.live = true → s.inFlight n = true → s.teardownNext n = none) ∧
      (a.live = true → s.inFlight n = false → ∃ (t : State) (b : Asid), s.teardownNext n = some t ∧ Tab.find t.asids n = some b ∧ b.live = false ∧
        b.closing = true ∧ b.key = 0 ∧ b.keyGen = a.keyGen + 1 ∧ (∀ e ∈ t.tlb, e.asid ≠ n) ∧ ∀ e ∈ t.l1, e.2.asid ≠ n) ∧
      (a.live = false → ∃ (t : State) (b : Asid), s.teardownNext n = some t ∧ Tab.find t.asids n = some b ∧ b.live = false ∧ b.closing = false ∧
        b.keyGen = a.keyGen ∧ b.root = 0 ∧ b.banks = [] ∧ (∀ e ∈ t.windows, e.2.asid ≠ n) ∧ (∀ e ∈ t.scheds, e.2.asid ≠ n) ∧
        ∀ e ∈ t.accordPages, e.2.2 ≠ n)) ∧
    (∀ a, s.host.stat.getLsbD 1 = true → s.host.served = seq →
      Asks { s with host := { s.host with stat := s.host.stat &&& ~~~2 } } 0x0011 [(0, 2)] p → Tab.find s.asids (field p 0 2) = some a →
      a.live = false → a.closing = false → Serves (exec (.mbxTearDownAsid seq) s) seq s []) ∧
    (∀ a, Asks s 0x0012 [(0, 2), (2, 1), (4, 2), (6, 2)] p → field p 0 2 < 1024 → Tab.find s.asids (field p 0 2) = some a → a.live = true →
      a.closing = false →
      field p 2 1 < 4 → field p 4 2 + field p 6 2 ≤ 1024 → field p 2 1 ∉ s.fenced →
      ∃ t : State, Serves (exec (.mbxBankSegment seq) s) seq t [] ∧
        Tab.find t.asids (field p 0 2) = some { a with banks := (if field p 6 2 = 0 then Tab.del a.banks (field p 2 1)
          else Tab.put a.banks (field p 2 1) (field p 4 2, field p 6 2)) } ∧ t = { s with asids := t.asids, bank := t.bank, badWords := t.badWords } ∧
        (Tab.find a.banks (field p 2 1) = none → t.bank = s.bank ∧ t.badWords = s.badWords) ∧
        ∀ base len, Tab.find a.banks (field p 2 1) = some (base, len) →
          (∀ o, Place.bank (field p 2 1) o ∈ t.badWords ↔ Place.bank (field p 2 1) o ∈ s.badWords ∧
            ¬(base * 65536 ≤ o ∧ o + 8 ≤ base * 65536 + len * 65536)) ∧ ∀ o, Store.read t.bank (field p 2 1 * 2 ^ 26 + o) =
          if base * 65536 ≤ o ∧ o < base * 65536 + len * 65536 then 0 else Store.read s.bank (field p 2 1 * 2 ^ 26 + o)) ∧
    (∀ a bits, Asks s 0x0020 [(0, 2), (2, 1), (3, 1), (4, 1), (5, 1), (8, 8), (16, 4), (24, 8)] p → field p 0 2 < 1024 →
      Tab.find s.asids (field p 0 2) = some a → a.live = true → a.closing = false → pageBits (field p 2 1) = some bits → field p 3 1 < 8 →
        field p 5 1 = 255 →
      field p 8 8 % 2 ^ bits = 0 → field p 8 8 + 2 ^ bits ≤ 2 ^ 57 → field p 16 4 = 1 → a.used + 2 ^ bits ≤ a.limit →
      s.leafOf (field p 0 2) (field p 8 8) = .unmapped → s.tablePoison (field p 0 2) bits 1 (field p 8 8) = none →
      (∀ s1, field p 4 1 = 0 →
        s.setLeaf (field p 0 2) (field p 8 8) bits (mkLeaf 0 (BitVec.ofNat 3 (field p 3 1)) false false 0) = some s1 →
        Serves (exec (.mbxMapPages seq) s) seq (s1.charge (field p 0 2) (2 ^ bits)) []) ∧
      (∀ s1 s2 pa, field p 4 1 = 1 → s.allocFrames none (pageFrames bits) = some (s1, pa) →
        s1.setLeaf (field p 0 2) (field p 8 8) bits (mkLeaf pa (BitVec.ofNat 3 (field p 3 1)) true false 0) = some s2 →
        Serves (exec (.mbxMapPages seq) s) seq (s2.charge (field p 0 2) (2 ^ bits)) [])) ∧
    (∀ a at_ e bits, Asks s 0x0021 [(0, 2), (8, 8), (16, 4)] p → field p 0 2 < 1024 → Tab.find s.asids (field p 0 2) = some a →
      a.live = true → a.closing = false → field p 16 4 = 1 → s.leafOf (field p 0 2) (field p 8 8) = .leaf at_ e bits → field p 8 8 % 2 ^ bits = 0 →
      s.stateOwner (field p 0 2) (field p 8 8) = none → bit e 6 = false → s.queueAt (leafFrame e) = none →
      s.tablePoison (field p 0 2) 16 1 (field p 8 8) = none → (∀ o ∈ s.accordQ, o.asid ≠ field p 0 2) →
        (∀ o ∈ s.accordReads, o.asid ≠ field p 0 2) → (∀ f, s.bufferedAt (field p 0 2) f = false) →
      ∃ t : State, Serves (exec (.mbxUnmapPages seq) s) seq t [] ∧
        ∀ x ∈ t.tlb, x.asid = field p 0 2 → ¬(field p 8 8 ≤ x.page ∧ x.page < field p 8 8 + 2 ^ bits)) ∧
    (∀ a, Asks s 0x0022 [(0, 2), (2, 1), (8, 8), (16, 8), (24, 8)] p → field p 0 2 < 1024 → Tab.find s.asids (field p 0 2) = some a →
      a.live = true → a.closing = false → field p 2 1 < 2 → field p 8 8 % 65536 = 0 → field p 24 8 % 65536 = 0 → field p 16 8 + field p 24 8 ≤ 2 ^ 57 →
      field p 8 8 + field p 24 8 ≤ (if field p 2 1 = 1 then 768 * 2 ^ 30 else 2 ^ 40) →
      (∀ y ∈ s.host.apertures, field p 24 8 = 0 → y.hdm = (field p 2 1 == 1) → y.offset = field p 8 8 → y.asid ≠ field p 0 2 →
        Rejects s (exec (.mbxAperture seq) s) seq 6) ∧
      (field p 24 8 = 0 → (∀ y ∈ s.host.apertures, y.hdm = (field p 2 1 == 1) → y.offset = field p 8 8 → y.asid = field p 0 2) →
        Serves (exec (.mbxAperture seq) s) seq { s with host := { s.host with
        apertures := s.host.apertures.filter fun x => !(x.hdm == (field p 2 1 == 1) && x.offset == field p 8 8) } } []) ∧
      (field p 24 8 ≠ 0 → (∀ x ∈ s.host.apertures, x.hdm = (field p 2 1 == 1) → x.offset + x.len ≤ field p 8 8 ∨
          field p 8 8 + field p 24 8 ≤ x.offset) →
        Serves (exec (.mbxAperture seq) s) seq { s with host := { s.host with apertures := s.host.apertures ++
          [Aperture.mk (field p 0 2) (field p 2 1 == 1) (field p 8 8) (BitVec.ofNat 64 (field p 16 8)) (field p 24 8)] } } [])) ∧
    (∀ a num s1 s2 pa, Asks s 0x0030 [(0, 2), (2, 1), (8, 8)] p → field p 0 2 < 1024 → Tab.find s.asids (field p 0 2) = some a →
      a.live = true → a.closing = false → field p 2 1 < 8 → field p 8 8 % 65536 = 0 → field p 8 8 + 65536 ≤ 2 ^ 57 →
      ((List.range 4096).find? fun n => match Tab.find s.queues n with | some q => q.closed | none => true) = some num →
      s.leafOf (field p 0 2) (field p 8 8) = .unmapped → s.allocFrames none 1 = some (s1, pa) →
      s1.setLeaf (field p 0 2) (field p 8 8) 16 (mkLeaf pa 3 true false 0) = some s2 → (∃ d, d < 4 ∧ d ∉ s2.fenced) →
      ∃ (t : State) (q : LaunchQ), Serves (exec (.mbxCreateLaunchQueue seq) s) seq t (natBytes 2 num ++ natBytes 1 q.die) ∧
        Tab.find t.queues num = some q ∧ q.asid = field p 0 2 ∧ q.maxPrio = field p 2 1 ∧ q.pa = pa ∧ q.die < 4 ∧ q.die ∉ s2.fenced ∧
        q.bytes = [] ∧ q.written = [] ∧ q.next = 0 ∧ q.accepted = 0 ∧ q.overruns = 0 ∧ q.collective = false ∧ q.closed = false ∧
        t = { s2 with queues := t.queues, picks := t.picks }) ∧
    (∀ a s1 s2 pa, Asks s 0x0033 [(0, 2), (8, 8)] p → field p 0 2 < 1024 → Tab.find s.asids (field p 0 2) = some a → a.live = true → a.closing = false →
      a.collective = none → field p 8 8 % 65536 = 0 → field p 8 8 + 65536 ≤ 2 ^ 57 →
      s.leafOf (field p 0 2) (field p 8 8) = .unmapped → s.allocFrames none 1 = some (s1, pa) →
      s1.setLeaf (field p 0 2) (field p 8 8) 16 (mkLeaf pa 3 true false 0) = some s2 → (∃ d, d < 4 ∧ d ∉ s2.fenced) →
      ∃ (t : State) (q : LaunchQ) (num : Nat), Serves (exec (.mbxCollectiveQueueWindow seq) s) seq t (natBytes 1 q.die) ∧
        Tab.find t.queues num = some q ∧ q.asid = field p 0 2 ∧ q.collective = true ∧ q.closed = false ∧ q.next = 0 ∧ q.written = [] ∧
        q.die < 4 ∧ q.die ∉ s2.fenced ∧ q.pa = pa) ∧
    (∀ q, Tab.rising s.queues = true → Asks s 0x0031 [(0, 2)] p → field p 0 2 < 4096 → Tab.find s.queues (field p 0 2) = some q → q.closed = false →
      (∀ h ∈ s.homeQ ++ s.bankQ, h.asid ≠ q.asid) →
      ∃ (t : State) (y : LaunchQ), Serves (exec (.mbxDestroyLaunchQueue seq) s) seq t [] ∧ Tab.find t.queues (field p 0 2) = some y ∧
        y.closed = true ∧ t.launches = s.launches ∧ t.tasks = s.tasks ∧ t.ctxs = s.ctxs) ∧
    (∀ a, Asks s 0x0090 [(0, 2), (2, 1), (8, 8)] p → field p 0 2 < 1024 → Tab.find s.asids (field p 0 2) = some a → a.live = true → a.closing = false →
      (field p 8 8 = 0 → Serves (exec (.mbxHostMessageQueue seq) s) seq
        { s with asids := Tab.upd s.asids (field p 0 2) fun a => { a with msgQueue := none, produced := 0 } } []) ∧
      (∀ s1, field p 8 8 ≠ 0 → 4 ≤ field p 2 1 → field p 2 1 ≤ 12 → field p 8 8 % 64 = 0 →
        field p 8 8 + 64 + 64 * 2 ^ field p 2 1 ≤ 2 ^ 57 → s.fwWrite (field p 0 2) (field p 8 8) (List.replicate 64 0) = (s1, true) →
        Serves (exec (.mbxHostMessageQueue seq) s) seq { s1 with asids := Tab.upd s1.asids (field p 0 2) fun a =>
          { a with msgQueue := some (BitVec.ofNat 64 (field p 8 8), field p 2 1), produced := 0 } } []))

/-- Commands on Accord memory and schedules (Table 23-9, R336, R367, R369, R380, R397): a set entry is written with every member live and none in
repair, once none of its pages is mapped; an Accord page's copies are zero with tag zero; a member that is not live is replaced, live and in
repair, and its copies do not count until they are written; a schedule's envelope is loaded where its signatures are accepted, and is refused
with status 6 and logged otherwise.
The model's own here: the page chosen is log 53, statuses are log 45, cryptography is log 16 and the numbers of reasons are log 88. -/
def Claim.MailboxAccord : Prop :=
  ∀ (s : State) (seq : BitVec 16) (p : List Byte),
    (∀ e, Asks s 0x0023 [(0, 1), (1, 1), (4, 4)] p → e = setEntry (field p 1 1) (field p 4 4) → field p 0 1 < 32 →
      field p 1 1 = 3 ∨ field p 1 1 = 5 → field p 4 4 < 2 ^ 20 → setLegal e = true → s.membersLive e = true →
      (s.accordGiven (field p 0 1) = [] → ∃ t : State, Serves (exec (.mbxAccordSetEntry seq) s) seq t [] ∧
        t.sets = Store.write s.sets (field p 0 1) e ∧ t = { s with sets := t.sets, rebuilt := t.rebuilt, accordBad := t.accordBad } ∧
        setCount e = field p 1 1 ∧ (∀ m, m < field p 1 1 → bit e (24 + m) = true ∧ bit e (29 + m) = false)) ∧
      (s.accordGiven (field p 0 1) ≠ [] → Rejects s (exec (.mbxAccordSetEntry seq) s) seq 5)) ∧
    (∀ a q s1, Asks s 0x0024 [(0, 2), (2, 1), (3, 1), (8, 8), (16, 4)] p → field p 0 2 < 1024 → Tab.find s.asids (field p 0 2) = some a →
      a.live = true → a.closing = false → field p 2 1 < 32 → field p 3 1 < 8 → field p 8 8 % 65536 = 0 → field p 8 8 + 65536 ≤ 2 ^ 57 → field p 16 4 = 1 →
      bit (s.setOf (field p 2 1)) 23 = true → a.used + 65536 ≤ a.limit → s.leafOf (field p 0 2) (field p 8 8) = .unmapped →
      ((List.range (min (s.accordLen / 65536) (s.accordPages.length + 1))).find? fun q => !(s.accordPages.map fun x => x.2.1).contains q) =
        some q →
      State.setLeaf { (s.zeroAccord (field p 2 1) q) with accordPages := s.accordPages ++ [(field p 2 1, q, field p 0 2)]
                                                          rebuilt := s.rebuilt.filter fun x => x.1 != field p 2 1 }
        (field p 0 2) (field p 8 8) 16 (mkLeaf (65536 * q) (BitVec.ofNat 3 (field p 3 1)) true true (field p 2 1)) = some s1 →
      Serves (exec (.mbxMapAccordPages seq) s) seq (s1.charge (field p 0 2) 65536) [] ∧
        ∀ m i, m < setCount (s.setOf (field p 2 1)) → i < 65536 →
          Store.read (w := 8) (s.zeroAccord (field p 2 1) q).mem
            (setStack (s.setOf (field p 2 1)) m * 2 ^ 36 + s.accordBase + 65536 * q + i) = 0) ∧
    (∀ e, Asks s 0x0025 [(0, 1), (1, 1), (2, 1)] p → field p 0 1 < 32 → field p 1 1 < 5 → field p 2 1 < 16 →
      e = (s.setOf (field p 0 1) &&& ~~~(BitVec.ofNat 64 (15 * 2 ^ (4 * field p 1 1)))) |||
        BitVec.ofNat 64 (field p 2 1 * 2 ^ (4 * field p 1 1)) →
      bit (s.setOf (field p 0 1)) 23 = true → field p 1 1 < setCount (s.setOf (field p 0 1)) →
      bit (s.setOf (field p 0 1)) (24 + field p 1 1) = false → setLegal (e &&& 0x00ffffff) = true → field p 2 1 / 4 ∉ s.fenced →
      s.accordGiven (field p 0 1) ≠ [] →
      ∃ t : State, Serves (exec (.mbxReplaceAccordMember seq) s) seq t [] ∧
        t.setOf (field p 0 1) = e ||| BitVec.ofNat 64 (2 ^ (24 + field p 1 1) + 2 ^ (29 + field p 1 1)) ∧
        ((∀ q, s.queueAt q = none) → ∀ line ∈ s.accordLines (field p 0 1), tagState (t.copy (field p 0 1) line (field p 1 1)).tag = 2 ∧
          field p 1 1 ∉ t.readable (field p 0 1) line)) ∧
    (∀ a s1 b, Asks s 0x0044 [(0, 2), (8, 8), (16, 8)] p → field p 0 2 < 1024 → Tab.find s.asids (field p 0 2) = some a → a.live = true →
      a.closing = false →
      0 < field p 16 8 → field p 8 8 + field p 16 8 ≤ 2 ^ 57 → s.collRead (field p 0 2) 0 (field p 8 8) (field p 16 8) = (s1, some b) →
      match envelopeOf b with
      | none => ∃ s', exec (.mbxLoadSchedule seq) s = .next s' ∧ Answered (s.logRefusal 2 1) s' seq 6 []
      | some e =>
        (∀ r, s1.refusal 2 e = some r → ∃ s', exec (.mbxLoadSchedule seq) s = .next s' ∧ Answered (s.logRefusal 2 r) s' seq 6 []) ∧
        ∀ g, s1.refusal 2 e = none → Config.scheduleOf e.payload = some g →
          ∃ h, Tab.find s1.scheds h = none ∧ Serves (exec (.mbxLoadSchedule seq) s) seq { s1 with scheds := (Tab.put s1.scheds h
            (LoadedSched.mk (field p 0 2) g (BitVec.ofNat 32 (field b 8 4)) (Config.sha384 e.payload) [])) } (natBytes 4 h))

/-- Commands on populations (Table 23-9, R294, R295, R318, R320, R322): a population is created filling, with the parameters asked for and its
state pages; it starts only when admitted; it pauses at its next boundary, resumes, keeps its launch packets and is cancelled.
The model's own here: how a command is served is log 46 and statuses are log 45. -/
def Claim.MailboxPopulations : Prop :=
  ∀ (s : State) (seq : BitVec 16) (p : List Byte) (x : Population) (h : Nat), h = field p 0 2 →
    (∀ (i n : Nat) (a : Asid) (t : State) (y : Population), Asks s 0x0050 (popFields p) p → y = parsePop p → popOk p y = true → y.asid < 1024 →
      Tab.find s.asids y.asid = some a → a.live = true → a.closing = false → s.memberIndex y = some i →
      s.rangeFree y.asid (y.base.toNat + 65536 * y.k * (y.range i).1) (y.k * ((y.range i).2 - (y.range i).1)) = true →
      s.pops.foldl (fun n e => n + e.2.parts.length) 0 + ((y.range i).2 - (y.range i).1) ≤ 1048576 →
      ((List.range 4096).find? fun g => (Tab.find s.pops g).isNone) = some n →
      let slots := (List.range ((y.range i).2 - (y.range i).1)).map ((y.range i).1 + ·)
      let z := { y with parts := slots.map fun j => (j, Particle.new j) }
      State.giveSlots { s with pops := Tab.put s.pops n z } n z slots = some t →
      Serves (exec (.mbxCreatePopulation seq) s) seq t (natBytes 2 n) ∧ z.state = .filling ∧ z.n = field p 4 4 ∧ z.a = field p 16 1 ∧
        z.index = 0 ∧ z.z = 0) ∧
    (h < 4096 → Tab.find s.pops h = some x →
      (Asks s 0x0051 [(0, 2), (2, 1)] p →
        (field p 2 1 = 1 → x.state = .filling → x.members.length = 1 → x.recomp = false →
          (s.admits h = false → Rejects s (exec (.mbxPopulationStart seq) s) seq 4) ∧
          (s.admits h = true → ∃ (t : State) (y : Population), Serves (exec (.mbxPopulationStart seq) s) seq t [] ∧ Tab.find t.pops h = some y ∧
            y.state = .running ∧ y.admitted = true ∧ y.started = s.clock ∧ y.parts = x.parts ∧ y.index = x.index)) ∧
        (field p 2 1 = 2 → x.state = .running → Serves (exec (.mbxPopulationPause seq) s) seq
          (s.updPop h fun q => { q with wantPause := true }) []) ∧
        (field p 2 1 = 3 → x.state = .paused → Serves (exec (.mbxPopulationResume seq) s) seq
          (s.updPop h fun q => { q with
            state := .running, started := s.clock
            snap := q.snap.map fun y => { y with started := true, draw := if y.started then y.draw else q.draw } }) []) ∧
        (field p 2 1 = 4 → x.state = .running →
          (x.snap.isSome = true → Serves (exec (.mbxPopulationCancel seq) s) seq (s.updPop h fun q => { q with wantCancel := true }) []) ∧
          (x.snap.isSome = false → ∃ t : State, Serves (exec (.mbxPopulationCancel seq) s) seq t [] ∧
            ∀ y, Tab.find t.pops h = some y → y.state = .draining))) ∧
      (∀ t l, Asks s 0x0052 (packetFields p) p → 0 < field p 2 2 → field p 2 2 ≤ 64 → x.state = .filling →
        s.readPackets x.asid ((List.range (field p 2 2)).map fun j => field p (8 + 8 * j) 8) = (t, some l) →
        Serves (exec (.mbxPopulationLaunches seq) s) seq (t.updPop h fun q => { q with packets := l }) []))

/-- Commands on contexts (Table 23-9, R283, R286, R398): pre-emption stops every context of the ASID that runs, and the response waits until none
is resident; a debug session is attached and detached, stops every context and lets every stopped thread go; the image of a context that is
stopped or not resident is read and written; an attestation report is written whole to an area that holds it, and not at all to one that is
too small.
The model's own here: stops and releases are log 63, images are logs 17 and 18, reports are log 16. -/
def Claim.MailboxContexts : Prop :=
  ∀ (s : State) (seq : BitVec 16) (p : List Byte) (a : Asid) (n : Nat), Tab.find s.asids n = some a → a.live = true → a.closing = false →
    n < 1024 →
    (Asks s 0x0060 [(0, 2)] p → n = field p 0 2 →
      (s.resident n = [] → Serves (exec (.mbxPreEmpt seq) s) seq s []) ∧
      (s.resident n ≠ [] → ∃ s', exec (.mbxPreEmpt seq) s = .next s' ∧ s'.host.stat.getLsbD 1 = true ∧ s'.host.served = seq ∧
        ∀ c x, Tab.find s.ctxs c = some x → x.asid = n → x.state = .running → ∃ y, Tab.find s'.ctxs c = some y ∧ y.state = .stopping)) ∧
    (Asks s 0x0061 [(0, 2), (2, 1)] p → n = field p 0 2 →
      (field p 2 1 = 0 → a.debug = false → Serves (exec (.mbxDebugAttach seq) s) seq
        { s with asids := Tab.upd s.asids n fun a => { a with debug := true } } []) ∧
      (field p 2 1 = 1 → a.debug = true → Serves (exec (.mbxDebugDetach seq) s) seq
        { s with asids := Tab.upd s.asids n fun a => { a with debug := false } } []) ∧
      (field p 2 1 = 2 → a.debug = true → ∃ t : State, Serves (exec (.mbxDebugStopAll seq) s) seq t [] ∧
        ∀ c x, Tab.find s.ctxs c = some x → x.asid = n → x.state = .running → x.held = false →
          ∃ y, Tab.find t.ctxs c = some y ∧ y.state = .debugStop) ∧
      (field p 2 1 = 3 → a.debug = true → ∃ t : State, Serves (exec (.mbxDebugReleaseAll seq) s) seq t [] ∧
        ∀ c x, Tab.find s.ctxs c = some x → x.asid = n → x.state = .debugStop → ∃ y, Tab.find t.ctxs c = some y ∧ y.state = .running)) ∧
    (∀ k c, s.ctxs.find? (fun e => e.2.asid == n && e.2.image.toNat == field p 8 8) = some (k, c) → n = field p 0 2 →
      c.state = .debugStop ∧ s.ctxStopped k = true ∨ c.state = .out → 0 < field p 20 4 → field p 20 4 ≤ 4056 →
      field p 16 4 + field p 20 4 ≤ 4096 + c.blocks.length * c.part →
      (Asks s 0x0062 [(0, 2), (2, 1), (8, 8), (16, 4), (20, 4)] p → field p 2 1 = 0 → Serves (exec (.mbxImageRead seq) s) seq
        { s with ticket := s.ticket + field p 16 4 + field p 20 4 } (s.imageRead c (field p 16 4) (field p 20 4))) ∧
      (Asks s 0x0062 [(0, 2), (2, 1), (8, 8), (16, 4), (20, 4), (24, field p 20 4)] p → field p 2 1 = 1 →
        Serves (exec (.mbxImageWrite seq) s) seq (s.imageWrite k c (field p 16 4) ((p.drop 24).take (field p 20 4))) [])) ∧
    (Asks s 0x0080 [(0, 48), (48, 2), (56, 8), (64, 8)] p → n = field p 48 2 →
      let r := s.report (p.take 48)
      if field p 64 8 < r.length then Rejects s (exec (.mbxAttestation seq) s) seq 4
      else match s.collWrite n 0 (field p 56 8) r with
        | (t, false) => t.starved = false → Rejects s (exec (.mbxAttestation seq) s) seq 3
        | (t, true) => Serves (exec (.mbxAttestation seq) s) seq t (natBytes 8 r.length))

/-! ## Statements in several parts -/

/-- What stands between the bytes at the program counter and an instruction: opcodes that no instruction has decode to nothing, words
that decode to nothing trap, and a fetch changes nothing but what its walk marks (R44, R56, R57, R237, Table 3-3). -/
def Obligations.FetchAndDecode : Prop := Claim.ReservedOpcodes ∧ Claim.UndecodableTraps ∧ Claim.FetchKeeps

/-- Taking a trap: into the handler (R276 to R278), or, without one, the kill of the context (R279). -/
def Obligations.TrapEntry : Prop := Claim.HandlerEntry ∧ Claim.TrapKills

/-- The instructions of handlers: the return (R281), and `sysr` and `sysw` (R280), in a handler and outside. -/
def Obligations.HandlerInstructions : Prop := Claim.EretReturns ∧ Claim.HandlerRegisters ∧ Claim.HandlerOnly

/-- The 32-bit instructions of one source, and bit fields (R94, R95, R97, R99). -/
def Obligations.IntegerOneSource : Prop := Claim.BitFields ∧ Claim.OneSource

/-- Rounding in each mode (R13, R102). -/
def Obligations.Rounding : Prop := Claim.RoundingModes ∧ Claim.RoundingExact

/-- What the floating-point instructions give: class F (R101 to R103, R106 to R111) and class V (R104, R105). -/
def Obligations.FloatResults : Prop := Claim.FloatNow ∧ Claim.FloatLateResults

/-- Floating-point traps (R42) and the comparison with the shadow lane (R384, R385). -/
def Obligations.FloatTraps : Prop := Claim.FloatTrapDue ∧ Claim.ShadowRetry

/-- Conversions and floating-point compares (R112 to R116). -/
def Obligations.Conversions : Prop := Claim.Converts ∧ Claim.ConvertToInteger

/-- Special registers (R41, R120, Table 5-6). -/
def Obligations.SpecialRegisters : Prop := Claim.ReadSpecial ∧ Claim.SpecialValues

/-- The checks of an access and the windows of an address (Table 12-1). -/
def Obligations.AddressChecks : Prop := Claim.AccessChecks ∧ Claim.AddressWindows

/-- Rights, and the marks that a translation leaves (R234, R235, R237). -/
def Obligations.Translation : Prop := Claim.LeafRights ∧ Claim.TranslationMarks

/-- Stores, and stores that a RELAUNCH phase buffers (R388). -/
def Obligations.Stores : Prop := Claim.PlainStores ∧ Claim.BufferedStores

/-- Fences, and what a release writes home. -/
def Obligations.Fences : Prop := Claim.FencesComplete ∧ Claim.ReleaseWritesHome

/-- Operations performed at the home of their line: their issue, their values and their effect (R251, R254). -/
def Obligations.HomeOperations : Prop := Claim.HomeOperationsIssue ∧ Claim.AtomicValues ∧ Claim.HomeOperationExecutes

/-- Cell reads (R256), block elements (R161), and the packing of blocks (R24, R25). -/
def Obligations.Elements : Prop := Claim.CellReads ∧ Claim.BlockElements ∧ Claim.BlockPacks

/-- Bank operations: their issue and their effect (R258). -/
def Obligations.BankOperations : Prop := Claim.BankOperationsIssue ∧ Claim.BankOperationExecutes

/-- Wave-convergent instructions: while threads are missing, and the constants that the last one sets (R121, R122). -/
def Obligations.ConvergentWaits : Prop := Claim.ConvergentMissing ∧ Claim.ConvergentConstants

/-- Transfers of control, and their checks. -/
def Obligations.Transfers : Prop := Claim.TransfersLand ∧ Claim.LandingChecks

/-- Joins (R196, R197) and barriers (R162, R199). -/
def Obligations.Barriers : Prop := Claim.Joins ∧ Claim.BarrierArrivals ∧ Claim.BarrierWaits

/-- Commands to the copy and matrix engines: issue and checks. -/
def Obligations.EngineCommands : Prop := Claim.CommandsIssue ∧ Claim.EngineChecks

/-- The engines at work. -/
def Obligations.EngineRuns : Prop := Claim.MatrixCommandRuns ∧ Claim.CopyCommandRuns

/-- Stage rings (R157) and checksums (R147). -/
def Obligations.Rings : Prop := Claim.RingsAndChecksums ∧ Claim.RingSlots

/-- Spawned blocks (R185, R186), launches and their tasks (R169 to R175, R189 to R191). -/
def Obligations.Tasks : Prop := Claim.Spawns ∧ Claim.LaunchEvents

/-- Port commands and window counters. -/
def Obligations.PortCommands : Prop := Claim.PutsAndGets ∧ Claim.WindowCounters

/-- Messages of the fabric, and its links. -/
def Obligations.Fabric : Prop := Claim.FabricMessages ∧ Claim.FabricEffects ∧ Claim.Links

/-- The population instructions. -/
def Obligations.PopulationInstructions : Prop := Claim.PopulationReads ∧ Claim.PopulationUpdates

/-- The Sillage sequencer: its instructions and its steps. -/
def Obligations.Sillage : Prop := Claim.SillageInstructions ∧ Claim.SillageSteps

/-- Accord reads and writes. -/
def Obligations.AccordOperations : Prop := Claim.AccordReads ∧ Claim.AccordWrites

/-- The scheduler: runs, groups, time-outs and `rrel`. -/
def Obligations.SchedulerEvents : Prop := Claim.Scheduling ∧ Claim.TimeOuts ∧ Claim.RrelRetries

/-- Collectives: starts, chunk operations, and timers (R336 to R343). -/
def Obligations.Collectives : Prop := Claim.CollectiveStarts ∧ Claim.ChunkOperations ∧ Claim.CollectiveTimers

/-- Events of the module: a die fenced, power and heat, and background activities. -/
def Obligations.ModuleEvents : Prop := Claim.DieFences ∧ Claim.PowerAndHeat ∧ Claim.Background

/-- The host link: registers and buffers, requests that are not served, and the commands on the module. -/
def Obligations.HostLink : Prop := Claim.HostAccesses ∧ Claim.MailboxRefusals ∧ Claim.MailboxModule

/-- The mailbox commands on Accord memory, schedules, populations and contexts. -/
def Obligations.MailboxObjects : Prop := Claim.MailboxAccord ∧ Claim.MailboxPopulations ∧ Claim.MailboxContexts

/-- A sum, difference, product or fused product and sum of finite FP32 values, whose exact result is `n` units of 2^-298 and no larger than the
largest finite value, is that result rounded once in the mode (R13, R102): no FP32 value lies between the two on the side that a directed
mode excludes, none is nearer in rn, where a tie goes to the even fraction; a result that is not zero has its sign, and NX says whether the
rounded value differs from the exact one. -/
def Obligations.ExactArithmetic : Prop :=
  ∀ (f : Rnd) (x y z : Word), (fp32 x).isFin = true → (fp32 y).isFin = true → (fp32 z).isFin = true →
    let is := fun (r : FOut) (n : Int) => n.natAbs ≤ (2 ^ 24 - 1) * 2 ^ 402 →
      RoundsTo f n (BitVec.ofNat 32 r.bits) ∧ r.bits < 2 ^ 32 ∧ (n ≠ 0 → (BitVec.ofNat 32 r.bits).getLsbD 31 = decide (n < 0)) ∧
        (r.flags &&& flagNX ≠ 0 ↔ fpUnits (BitVec.ofNat 32 r.bits) * 2 ^ 149 ≠ n)
    is (fadd Fmt.fp32 f (fp32 x) (fp32 y)) ((fpUnits x + fpUnits y) * 2 ^ 149) ∧
    is (fsub Fmt.fp32 f (fp32 x) (fp32 y)) ((fpUnits x - fpUnits y) * 2 ^ 149) ∧
    is (fmul Fmt.fp32 f (fp32 x) (fp32 y)) (fpUnits x * fpUnits y) ∧
    is (ffma Fmt.fp32 f (fp32 x) (fp32 y) (fp32 z)) (fpUnits x * fpUnits y + fpUnits z * 2 ^ 149)
end

