-- ==== Sys2Proof/Laws/Maps.lean ====
section
/-!
SUPPORT. The laws of tables and stores: what is read after a write, and that every operation keeps the canonical form.
-/
namespace Sys2Proof

/-! ## Reading tables -/

variable {α : Type}

@[simp] theorem Tab.find_nil (k : Nat) : Tab.find ([] : Tab α) k = none := rfl

theorem Tab.find_cons (a : Nat) (v : α) (r : Tab α) (k : Nat) :
    Tab.find ((a, v) :: r) k = if a = k then some v else Tab.find r k := rfl

@[simp] theorem Tab.find_put_self (m : Tab α) (k : Nat) (x : α) : Tab.find (Tab.put m k x) k = some x := by
  induction m with
  | nil => simp [Tab.put, Tab.find_cons]
  | cons c r ih =>
    obtain ⟨a, v⟩ := c
    simp only [Tab.put]
    split
    · simp [Tab.find_cons]
    · split
      · simp [Tab.find_cons]
      · next h => simp [Tab.find_cons, h, ih]

theorem Tab.find_put_other (m : Tab α) (k j : Nat) (x : α) (h : j ≠ k) : Tab.find (Tab.put m k x) j = Tab.find m j := by
  have hk : k ≠ j := fun e => h e.symm
  induction m with
  | nil => simp [Tab.put, Tab.find_cons, hk]
  | cons c r ih =>
    obtain ⟨a, v⟩ := c
    simp only [Tab.put]
    split
    · simp [Tab.find_cons, hk]
    · split
      · next e => subst e; simp [Tab.find_cons, hk]
      · simp only [Tab.find_cons]; split <;> simp_all

theorem Tab.find_upd (m : Tab α) (k j : Nat) (f : α → α) :
    Tab.find (Tab.upd m k f) j = if j = k then (Tab.find m j).map f else Tab.find m j := by
  induction m with
  | nil => simp [Tab.upd]
  | cons c r ih =>
    obtain ⟨a, v⟩ := c
    simp only [Tab.upd]
    split
    · next e => subst e; by_cases h : j = a
                · subst h; simp [Tab.find_cons]
                · have : a ≠ j := fun e => h e.symm
                  simp [Tab.find_cons, h, this]
    · next e => simp only [Tab.find_cons, ih]
                by_cases h : j = k
                · subst h; simp [e]
                · simp [h]

theorem Tab.find_mapVal (m : Tab α) (f : Nat → α → α) (j : Nat) :
    Tab.find (Tab.mapVal m f) j = (Tab.find m j).map (f j) := by
  induction m with
  | nil => rfl
  | cons c r ih =>
    obtain ⟨a, v⟩ := c
    simp only [Tab.mapVal, List.map_cons, Tab.find_cons] at *
    split
    · next e => subst e; rfl
    · exact ih

@[simp] theorem Tab.find_del_self (m : Tab α) (k : Nat) : Tab.find (Tab.del m k) k = none := by
  induction m with
  | nil => rfl
  | cons c r ih =>
    obtain ⟨a, v⟩ := c
    simp only [Tab.del]
    split
    · exact ih
    · next h => simp [Tab.find_cons, h, ih]

theorem Tab.find_del_other (m : Tab α) (k j : Nat) (h : j ≠ k) : Tab.find (Tab.del m k) j = Tab.find m j := by
  induction m with
  | nil => rfl
  | cons c r ih =>
    obtain ⟨a, v⟩ := c
    simp only [Tab.del]
    split
    · next e => subst e; have : a ≠ j := fun e => h e.symm
                simp [Tab.find_cons, this, ih]
    · simp only [Tab.find_cons, ih]

/-! ## Reading stores -/

variable {w : Nat}

@[simp] theorem Store.read_write_self (m : Store w) (k : Nat) (x : BitVec w) : Store.read (Store.write m k x) k = x := by
  simp only [Store.write, Store.read, Tab.getD]
  by_cases h : x = 0
  · rw [if_pos h, Tab.find_del_self, h]
  · rw [if_neg h, Tab.find_put_self]

theorem Store.read_write_other (m : Store w) (k j : Nat) (x : BitVec w) (h : j ≠ k) :
    Store.read (Store.write m k x) j = Store.read m j := by
  simp only [Store.write, Store.read, Tab.getD]
  by_cases hx : x = 0
  · rw [if_pos hx, Tab.find_del_other _ _ _ h]
  · rw [if_neg hx, Tab.find_put_other _ _ _ _ h]

/-! ## Canonical form -/

/-- Every key of a table is at least `n`. -/
def Tab.from (m : Tab α) (n : Nat) : Prop := ∀ c ∈ m, n ≤ c.1

theorem Tab.rising_cons (a : Nat) (v : α) (r : Tab α) :
    Tab.rising ((a, v) :: r) = true ↔ (∀ c ∈ r, a < c.1) ∧ Tab.rising r = true := by
  induction r generalizing a v with
  | nil => simp [Tab.rising]
  | cons c r ih =>
    obtain ⟨b, u⟩ := c
    rw [Tab.rising, Bool.and_eq_true]
    simp only [decide_eq_true_eq]
    constructor
    · rintro ⟨h, hr⟩
      refine ⟨?_, hr⟩
      intro c hc
      rcases List.mem_cons.mp hc with rfl | hc
      · exact h
      · exact Nat.lt_trans h (((ih b u).mp hr).1 c hc)
    · rintro ⟨h, hr⟩
      exact ⟨h _ (List.mem_cons_self ..), hr⟩

theorem Tab.mem_put (m : Tab α) (k : Nat) (x : α) (c : Nat × α) (h : c ∈ Tab.put m k x) : c = (k, x) ∨ c ∈ m := by
  induction m with
  | nil => simpa [Tab.put] using h
  | cons d r ih =>
    obtain ⟨a, v⟩ := d
    simp only [Tab.put] at h
    split at h
    · rcases List.mem_cons.mp h with h | h
      · exact .inl h
      · exact .inr h
    · split at h
      · rcases List.mem_cons.mp h with h | h
        · exact .inl h
        · exact .inr (List.mem_cons_of_mem _ h)
      · rcases List.mem_cons.mp h with h | h
        · exact .inr (by simp [h])
        · exact (ih h).imp id (List.mem_cons_of_mem _)

theorem Tab.rising_put (m : Tab α) (k : Nat) (x : α) (h : Tab.rising m = true) : Tab.rising (Tab.put m k x) = true := by
  induction m with
  | nil => rfl
  | cons d r ih =>
    obtain ⟨a, v⟩ := d
    obtain ⟨ha, hr⟩ := (Tab.rising_cons a v r).mp h
    simp only [Tab.put]
    split
    · next hk =>
      refine (Tab.rising_cons _ _ _).mpr ⟨?_, h⟩
      intro c hc
      rcases List.mem_cons.mp hc with rfl | hc
      · exact hk
      · exact Nat.lt_trans hk (ha c hc)
    · split
      · next e => subst e; exact (Tab.rising_cons _ _ _).mpr ⟨ha, hr⟩
      · refine (Tab.rising_cons _ _ _).mpr ⟨?_, ih hr⟩
        intro c hc
        rcases Tab.mem_put _ _ _ _ hc with rfl | hc
        · show a < k; omega
        · exact ha c hc

theorem Tab.rising_filter (m : Tab α) (p : Nat × α → Bool) (h : Tab.rising m = true) : Tab.rising (m.filter p) = true := by
  induction m with
  | nil => rfl
  | cons d r ih =>
    obtain ⟨a, v⟩ := d
    obtain ⟨ha, hr⟩ := (Tab.rising_cons a v r).mp h
    rw [List.filter_cons]
    split
    · exact (Tab.rising_cons _ _ _).mpr ⟨fun c hc => ha c ((List.mem_filter.mp hc).1), ih hr⟩
    · exact ih hr

theorem Tab.del_eq_filter (m : Tab α) (k : Nat) : Tab.del m k = m.filter fun c => c.1 != k := by
  induction m with
  | nil => rfl
  | cons d r ih =>
    obtain ⟨a, v⟩ := d
    simp only [Tab.del, List.filter_cons]
    split
    · next e => simp [e, ih]
    · next e => simp [e, ih]

theorem Store.wf_iff (m : Store w) : Store.wf m = true ↔ Tab.rising m = true ∧ ∀ c ∈ m, c.2 ≠ 0 := by
  simp [Store.wf, List.all_eq_true]

theorem Store.wf_filter (m : Store w) (p : Nat × BitVec w → Bool) (h : Store.wf m = true) : Store.wf (m.filter p) = true := by
  rw [Store.wf_iff] at *
  exact ⟨Tab.rising_filter _ _ h.1, fun c hc => h.2 c ((List.mem_filter.mp hc).1)⟩

theorem Store.wf_write (m : Store w) (k : Nat) (x : BitVec w) (h : Store.wf m = true) : Store.wf (Store.write m k x) = true := by
  unfold Store.write
  split
  · rw [Tab.del_eq_filter]; exact Store.wf_filter _ _ h
  · next hx =>
    rw [Store.wf_iff] at *
    refine ⟨Tab.rising_put _ _ _ h.1, fun c hc => ?_⟩
    rcases Tab.mem_put _ _ _ _ hc with rfl | hc
    · exact hx
    · exact h.2 c hc

theorem Store.wf_writes (m : Store w) (k : Nat) (l : List (BitVec w)) (h : Store.wf m = true) :
    Store.wf (Store.writes m k l) = true := by
  induction l generalizing m k with
  | nil => exact h
  | cons x r ih => exact ih _ _ (Store.wf_write _ _ _ h)

theorem Store.wf_clear (m : Store w) (k n : Nat) (h : Store.wf m = true) : Store.wf (Store.clear m k n) = true :=
  Store.wf_filter _ _ h

theorem Store.wf_foldl_write (m : Store w) (l : List (Nat × BitVec w)) (h : Store.wf m = true) :
    Store.wf (l.foldl (fun m c => Store.write m c.1 c.2) m) = true := by
  induction l generalizing m with
  | nil => exact h
  | cons x r ih => exact ih _ (Store.wf_write _ _ _ h)

end Sys2Proof
end

