-- ==== Sys2Proof/Laws/State.lean ====
section
/-!
SUPPORT. The fields of the state after each of its updates.
-/
namespace Sys2Proof.Machine

/-! ## `setThread` -/

@[simp] theorem State.setThread_clock (s : State) (k : Nat) (t : Thread) : (s.setThread k t).clock = s.clock := rfl
@[simp] theorem State.setThread_cur (s : State) (k : Nat) (t : Thread) : (s.setThread k t).cur = s.cur := rfl
@[simp] theorem State.setThread_agenda (s : State) (k : Nat) (t : Thread) : (s.setThread k t).agenda = s.agenda := rfl
@[simp] theorem State.setThread_delayed (s : State) (k : Nat) (t : Thread) : (s.setThread k t).delayed = s.delayed := rfl
@[simp] theorem State.setThread_starved (s : State) (k : Nat) (t : Thread) : (s.setThread k t).starved = s.starved := rfl
@[simp] theorem State.setThread_picks (s : State) (k : Nat) (t : Thread) : (s.setThread k t).picks = s.picks := rfl
@[simp] theorem State.setThread_ticket (s : State) (k : Nat) (t : Thread) : (s.setThread k t).ticket = s.ticket := rfl
@[simp] theorem State.setThread_bootIn (s : State) (k : Nat) (t : Thread) : (s.setThread k t).bootIn = s.bootIn := rfl
@[simp] theorem State.setThread_threads (s : State) (k : Nat) (t : Thread) : (s.setThread k t).threads = Tab.put s.threads k t := rfl
@[simp] theorem State.setThread_waves (s : State) (k : Nat) (t : Thread) : (s.setThread k t).waves = s.waves := rfl
@[simp] theorem State.setThread_blocks (s : State) (k : Nat) (t : Thread) : (s.setThread k t).blocks = s.blocks := rfl
@[simp] theorem State.setThread_ctxs (s : State) (k : Nat) (t : Thread) : (s.setThread k t).ctxs = s.ctxs := rfl
@[simp] theorem State.setThread_groups (s : State) (k : Nat) (t : Thread) : (s.setThread k t).groups = s.groups := rfl
@[simp] theorem State.setThread_racqs (s : State) (k : Nat) (t : Thread) : (s.setThread k t).racqs = s.racqs := rfl
@[simp] theorem State.setThread_mem (s : State) (k : Nat) (t : Thread) : (s.setThread k t).mem = s.mem := rfl
@[simp] theorem State.setThread_poison (s : State) (k : Nat) (t : Thread) : (s.setThread k t).poison = s.poison := rfl
@[simp] theorem State.setThread_badWords (s : State) (k : Nat) (t : Thread) : (s.setThread k t).badWords = s.badWords := rfl
@[simp] theorem State.setThread_bank (s : State) (k : Nat) (t : Thread) : (s.setThread k t).bank = s.bank := rfl
@[simp] theorem State.setThread_l1 (s : State) (k : Nat) (t : Thread) : (s.setThread k t).l1 = s.l1 := rfl
@[simp] theorem State.setThread_tlb (s : State) (k : Nat) (t : Thread) : (s.setThread k t).tlb = s.tlb := rfl
@[simp] theorem State.setThread_asids (s : State) (k : Nat) (t : Thread) : (s.setThread k t).asids = s.asids := rfl
@[simp] theorem State.setThread_oldKeys (s : State) (k : Nat) (t : Thread) : (s.setThread k t).oldKeys = s.oldKeys := rfl
@[simp] theorem State.setThread_fwKey (s : State) (k : Nat) (t : Thread) : (s.setThread k t).fwKey = s.fwKey := rfl
@[simp] theorem State.setThread_homeQ (s : State) (k : Nat) (t : Thread) : (s.setThread k t).homeQ = s.homeQ := rfl
@[simp] theorem State.setThread_bankQ (s : State) (k : Nat) (t : Thread) : (s.setThread k t).bankQ = s.bankQ := rfl
@[simp] theorem State.setThread_ringQ (s : State) (k : Nat) (t : Thread) : (s.setThread k t).ringQ = s.ringQ := rfl
@[simp] theorem State.setThread_copyReqs (s : State) (k : Nat) (t : Thread) : (s.setThread k t).copyReqs = s.copyReqs := rfl
@[simp] theorem State.setThread_faultQ (s : State) (k : Nat) (t : Thread) : (s.setThread k t).faultQ = s.faultQ := rfl
@[simp] theorem State.setThread_recWait (s : State) (k : Nat) (t : Thread) : (s.setThread k t).recWait = s.recWait := rfl
@[simp] theorem State.setThread_queues (s : State) (k : Nat) (t : Thread) : (s.setThread k t).queues = s.queues := rfl
@[simp] theorem State.setThread_launches (s : State) (k : Nat) (t : Thread) : (s.setThread k t).launches = s.launches := rfl
@[simp] theorem State.setThread_tasks (s : State) (k : Nat) (t : Thread) : (s.setThread k t).tasks = s.tasks := rfl
@[simp] theorem State.setThread_stealing (s : State) (k : Nat) (t : Thread) : (s.setThread k t).stealing = s.stealing := rfl
@[simp] theorem State.setThread_pops (s : State) (k : Nat) (t : Thread) : (s.setThread k t).pops = s.pops := rfl
@[simp] theorem State.setThread_module (s : State) (k : Nat) (t : Thread) : (s.setThread k t).module = s.module := rfl
@[simp] theorem State.setThread_domain (s : State) (k : Nat) (t : Thread) : (s.setThread k t).domain = s.domain := rfl
@[simp] theorem State.setThread_windows (s : State) (k : Nat) (t : Thread) : (s.setThread k t).windows = s.windows := rfl
@[simp] theorem State.setThread_access (s : State) (k : Nat) (t : Thread) : (s.setThread k t).access = s.access := rfl
@[simp] theorem State.setThread_ports (s : State) (k : Nat) (t : Thread) : (s.setThread k t).ports = s.ports := rfl
@[simp] theorem State.setThread_txs (s : State) (k : Nat) (t : Thread) : (s.setThread k t).txs = s.txs := rfl
@[simp] theorem State.setThread_outbox (s : State) (k : Nat) (t : Thread) : (s.setThread k t).outbox = s.outbox := rfl
@[simp] theorem State.setThread_scheds (s : State) (k : Nat) (t : Thread) : (s.setThread k t).scheds = s.scheds := rfl
@[simp] theorem State.setThread_colls (s : State) (k : Nat) (t : Thread) : (s.setThread k t).colls = s.colls := rfl
@[simp] theorem State.setThread_sillage (s : State) (k : Nat) (t : Thread) : (s.setThread k t).sillage = s.sillage := rfl
@[simp] theorem State.setThread_sets (s : State) (k : Nat) (t : Thread) : (s.setThread k t).sets = s.sets := rfl
@[simp] theorem State.setThread_accordBase (s : State) (k : Nat) (t : Thread) : (s.setThread k t).accordBase = s.accordBase := rfl
@[simp] theorem State.setThread_accordLen (s : State) (k : Nat) (t : Thread) : (s.setThread k t).accordLen = s.accordLen := rfl
@[simp] theorem State.setThread_accordBad (s : State) (k : Nat) (t : Thread) : (s.setThread k t).accordBad = s.accordBad := rfl
@[simp] theorem State.setThread_accordQ (s : State) (k : Nat) (t : Thread) : (s.setThread k t).accordQ = s.accordQ := rfl
@[simp] theorem State.setThread_accordReads (s : State) (k : Nat) (t : Thread) : (s.setThread k t).accordReads = s.accordReads := rfl
@[simp] theorem State.setThread_rebuilt (s : State) (k : Nat) (t : Thread) : (s.setThread k t).rebuilt = s.rebuilt := rfl
@[simp] theorem State.setThread_host (s : State) (k : Nat) (t : Thread) : (s.setThread k t).host = s.host := rfl
@[simp] theorem State.setThread_power (s : State) (k : Nat) (t : Thread) : (s.setThread k t).power = s.power := rfl
@[simp] theorem State.setThread_fenced (s : State) (k : Nat) (t : Thread) : (s.setThread k t).fenced = s.fenced := rfl
@[simp] theorem State.setThread_glitches (s : State) (k : Nat) (t : Thread) : (s.setThread k t).glitches = s.glitches := rfl
@[simp] theorem State.setThread_chunkErrs (s : State) (k : Nat) (t : Thread) : (s.setThread k t).chunkErrs = s.chunkErrs := rfl
@[simp] theorem State.setThread_frames (s : State) (k : Nat) (t : Thread) : (s.setThread k t).frames = s.frames := rfl
@[simp] theorem State.setThread_freeFrames (s : State) (k : Nat) (t : Thread) : (s.setThread k t).freeFrames = s.freeFrames := rfl
@[simp] theorem State.setThread_accordPages (s : State) (k : Nat) (t : Thread) : (s.setThread k t).accordPages = s.accordPages := rfl
@[simp] theorem State.setThread_backing (s : State) (k : Nat) (t : Thread) : (s.setThread k t).backing = s.backing := rfl
@[simp] theorem State.setThread_fused (s : State) (k : Nat) (t : Thread) : (s.setThread k t).fused = s.fused := rfl
@[simp] theorem State.setThread_fwVersion (s : State) (k : Nat) (t : Thread) : (s.setThread k t).fwVersion = s.fwVersion := rfl
@[simp] theorem State.setThread_fwMeasure (s : State) (k : Nat) (t : Thread) : (s.setThread k t).fwMeasure = s.fwMeasure := rfl
@[simp] theorem State.setThread_images (s : State) (k : Nat) (t : Thread) : (s.setThread k t).images = s.images := rfl
@[simp] theorem State.setThread_tests (s : State) (k : Nat) (t : Thread) : (s.setThread k t).tests = s.tests := rfl

/-! ## `updThread` -/

@[simp] theorem State.updThread_clock (s : State) (k : Nat) (f : Thread → Thread) : (s.updThread k f).clock = s.clock := rfl
@[simp] theorem State.updThread_cur (s : State) (k : Nat) (f : Thread → Thread) : (s.updThread k f).cur = s.cur := rfl
@[simp] theorem State.updThread_agenda (s : State) (k : Nat) (f : Thread → Thread) : (s.updThread k f).agenda = s.agenda := rfl
@[simp] theorem State.updThread_delayed (s : State) (k : Nat) (f : Thread → Thread) : (s.updThread k f).delayed = s.delayed := rfl
@[simp] theorem State.updThread_starved (s : State) (k : Nat) (f : Thread → Thread) : (s.updThread k f).starved = s.starved := rfl
@[simp] theorem State.updThread_picks (s : State) (k : Nat) (f : Thread → Thread) : (s.updThread k f).picks = s.picks := rfl
@[simp] theorem State.updThread_ticket (s : State) (k : Nat) (f : Thread → Thread) : (s.updThread k f).ticket = s.ticket := rfl
@[simp] theorem State.updThread_bootIn (s : State) (k : Nat) (f : Thread → Thread) : (s.updThread k f).bootIn = s.bootIn := rfl
@[simp] theorem State.updThread_threads (s : State) (k : Nat) (f : Thread → Thread) : (s.updThread k f).threads = Tab.upd s.threads k f := rfl
@[simp] theorem State.updThread_waves (s : State) (k : Nat) (f : Thread → Thread) : (s.updThread k f).waves = s.waves := rfl
@[simp] theorem State.updThread_blocks (s : State) (k : Nat) (f : Thread → Thread) : (s.updThread k f).blocks = s.blocks := rfl
@[simp] theorem State.updThread_ctxs (s : State) (k : Nat) (f : Thread → Thread) : (s.updThread k f).ctxs = s.ctxs := rfl
@[simp] theorem State.updThread_groups (s : State) (k : Nat) (f : Thread → Thread) : (s.updThread k f).groups = s.groups := rfl
@[simp] theorem State.updThread_racqs (s : State) (k : Nat) (f : Thread → Thread) : (s.updThread k f).racqs = s.racqs := rfl
@[simp] theorem State.updThread_mem (s : State) (k : Nat) (f : Thread → Thread) : (s.updThread k f).mem = s.mem := rfl
@[simp] theorem State.updThread_poison (s : State) (k : Nat) (f : Thread → Thread) : (s.updThread k f).poison = s.poison := rfl
@[simp] theorem State.updThread_badWords (s : State) (k : Nat) (f : Thread → Thread) : (s.updThread k f).badWords = s.badWords := rfl
@[simp] theorem State.updThread_bank (s : State) (k : Nat) (f : Thread → Thread) : (s.updThread k f).bank = s.bank := rfl
@[simp] theorem State.updThread_l1 (s : State) (k : Nat) (f : Thread → Thread) : (s.updThread k f).l1 = s.l1 := rfl
@[simp] theorem State.updThread_tlb (s : State) (k : Nat) (f : Thread → Thread) : (s.updThread k f).tlb = s.tlb := rfl
@[simp] theorem State.updThread_asids (s : State) (k : Nat) (f : Thread → Thread) : (s.updThread k f).asids = s.asids := rfl
@[simp] theorem State.updThread_oldKeys (s : State) (k : Nat) (f : Thread → Thread) : (s.updThread k f).oldKeys = s.oldKeys := rfl
@[simp] theorem State.updThread_fwKey (s : State) (k : Nat) (f : Thread → Thread) : (s.updThread k f).fwKey = s.fwKey := rfl
@[simp] theorem State.updThread_homeQ (s : State) (k : Nat) (f : Thread → Thread) : (s.updThread k f).homeQ = s.homeQ := rfl
@[simp] theorem State.updThread_bankQ (s : State) (k : Nat) (f : Thread → Thread) : (s.updThread k f).bankQ = s.bankQ := rfl
@[simp] theorem State.updThread_ringQ (s : State) (k : Nat) (f : Thread → Thread) : (s.updThread k f).ringQ = s.ringQ := rfl
@[simp] theorem State.updThread_copyReqs (s : State) (k : Nat) (f : Thread → Thread) : (s.updThread k f).copyReqs = s.copyReqs := rfl
@[simp] theorem State.updThread_faultQ (s : State) (k : Nat) (f : Thread → Thread) : (s.updThread k f).faultQ = s.faultQ := rfl
@[simp] theorem State.updThread_recWait (s : State) (k : Nat) (f : Thread → Thread) : (s.updThread k f).recWait = s.recWait := rfl
@[simp] theorem State.updThread_queues (s : State) (k : Nat) (f : Thread → Thread) : (s.updThread k f).queues = s.queues := rfl
@[simp] theorem State.updThread_launches (s : State) (k : Nat) (f : Thread → Thread) : (s.updThread k f).launches = s.launches := rfl
@[simp] theorem State.updThread_tasks (s : State) (k : Nat) (f : Thread → Thread) : (s.updThread k f).tasks = s.tasks := rfl
@[simp] theorem State.updThread_stealing (s : State) (k : Nat) (f : Thread → Thread) : (s.updThread k f).stealing = s.stealing := rfl
@[simp] theorem State.updThread_pops (s : State) (k : Nat) (f : Thread → Thread) : (s.updThread k f).pops = s.pops := rfl
@[simp] theorem State.updThread_module (s : State) (k : Nat) (f : Thread → Thread) : (s.updThread k f).module = s.module := rfl
@[simp] theorem State.updThread_domain (s : State) (k : Nat) (f : Thread → Thread) : (s.updThread k f).domain = s.domain := rfl
@[simp] theorem State.updThread_windows (s : State) (k : Nat) (f : Thread → Thread) : (s.updThread k f).windows = s.windows := rfl
@[simp] theorem State.updThread_access (s : State) (k : Nat) (f : Thread → Thread) : (s.updThread k f).access = s.access := rfl
@[simp] theorem State.updThread_ports (s : State) (k : Nat) (f : Thread → Thread) : (s.updThread k f).ports = s.ports := rfl
@[simp] theorem State.updThread_txs (s : State) (k : Nat) (f : Thread → Thread) : (s.updThread k f).txs = s.txs := rfl
@[simp] theorem State.updThread_outbox (s : State) (k : Nat) (f : Thread → Thread) : (s.updThread k f).outbox = s.outbox := rfl
@[simp] theorem State.updThread_scheds (s : State) (k : Nat) (f : Thread → Thread) : (s.updThread k f).scheds = s.scheds := rfl
@[simp] theorem State.updThread_colls (s : State) (k : Nat) (f : Thread → Thread) : (s.updThread k f).colls = s.colls := rfl
@[simp] theorem State.updThread_sillage (s : State) (k : Nat) (f : Thread → Thread) : (s.updThread k f).sillage = s.sillage := rfl
@[simp] theorem State.updThread_sets (s : State) (k : Nat) (f : Thread → Thread) : (s.updThread k f).sets = s.sets := rfl
@[simp] theorem State.updThread_accordBase (s : State) (k : Nat) (f : Thread → Thread) : (s.updThread k f).accordBase = s.accordBase := rfl
@[simp] theorem State.updThread_accordLen (s : State) (k : Nat) (f : Thread → Thread) : (s.updThread k f).accordLen = s.accordLen := rfl
@[simp] theorem State.updThread_accordBad (s : State) (k : Nat) (f : Thread → Thread) : (s.updThread k f).accordBad = s.accordBad := rfl
@[simp] theorem State.updThread_accordQ (s : State) (k : Nat) (f : Thread → Thread) : (s.updThread k f).accordQ = s.accordQ := rfl
@[simp] theorem State.updThread_accordReads (s : State) (k : Nat) (f : Thread → Thread) : (s.updThread k f).accordReads = s.accordReads := rfl
@[simp] theorem State.updThread_rebuilt (s : State) (k : Nat) (f : Thread → Thread) : (s.updThread k f).rebuilt = s.rebuilt := rfl
@[simp] theorem State.updThread_host (s : State) (k : Nat) (f : Thread → Thread) : (s.updThread k f).host = s.host := rfl
@[simp] theorem State.updThread_power (s : State) (k : Nat) (f : Thread → Thread) : (s.updThread k f).power = s.power := rfl
@[simp] theorem State.updThread_fenced (s : State) (k : Nat) (f : Thread → Thread) : (s.updThread k f).fenced = s.fenced := rfl
@[simp] theorem State.updThread_glitches (s : State) (k : Nat) (f : Thread → Thread) : (s.updThread k f).glitches = s.glitches := rfl
@[simp] theorem State.updThread_chunkErrs (s : State) (k : Nat) (f : Thread → Thread) : (s.updThread k f).chunkErrs = s.chunkErrs := rfl
@[simp] theorem State.updThread_frames (s : State) (k : Nat) (f : Thread → Thread) : (s.updThread k f).frames = s.frames := rfl
@[simp] theorem State.updThread_freeFrames (s : State) (k : Nat) (f : Thread → Thread) : (s.updThread k f).freeFrames = s.freeFrames := rfl
@[simp] theorem State.updThread_accordPages (s : State) (k : Nat) (f : Thread → Thread) : (s.updThread k f).accordPages = s.accordPages := rfl
@[simp] theorem State.updThread_backing (s : State) (k : Nat) (f : Thread → Thread) : (s.updThread k f).backing = s.backing := rfl
@[simp] theorem State.updThread_fused (s : State) (k : Nat) (f : Thread → Thread) : (s.updThread k f).fused = s.fused := rfl
@[simp] theorem State.updThread_fwVersion (s : State) (k : Nat) (f : Thread → Thread) : (s.updThread k f).fwVersion = s.fwVersion := rfl
@[simp] theorem State.updThread_fwMeasure (s : State) (k : Nat) (f : Thread → Thread) : (s.updThread k f).fwMeasure = s.fwMeasure := rfl
@[simp] theorem State.updThread_images (s : State) (k : Nat) (f : Thread → Thread) : (s.updThread k f).images = s.images := rfl
@[simp] theorem State.updThread_tests (s : State) (k : Nat) (f : Thread → Thread) : (s.updThread k f).tests = s.tests := rfl

/-! ## `updWave` -/

@[simp] theorem State.updWave_clock (s : State) (w : Nat) (f : Wave → Wave) : (s.updWave w f).clock = s.clock := rfl
@[simp] theorem State.updWave_cur (s : State) (w : Nat) (f : Wave → Wave) : (s.updWave w f).cur = s.cur := rfl
@[simp] theorem State.updWave_agenda (s : State) (w : Nat) (f : Wave → Wave) : (s.updWave w f).agenda = s.agenda := rfl
@[simp] theorem State.updWave_delayed (s : State) (w : Nat) (f : Wave → Wave) : (s.updWave w f).delayed = s.delayed := rfl
@[simp] theorem State.updWave_starved (s : State) (w : Nat) (f : Wave → Wave) : (s.updWave w f).starved = s.starved := rfl
@[simp] theorem State.updWave_picks (s : State) (w : Nat) (f : Wave → Wave) : (s.updWave w f).picks = s.picks := rfl
@[simp] theorem State.updWave_ticket (s : State) (w : Nat) (f : Wave → Wave) : (s.updWave w f).ticket = s.ticket := rfl
@[simp] theorem State.updWave_bootIn (s : State) (w : Nat) (f : Wave → Wave) : (s.updWave w f).bootIn = s.bootIn := rfl
@[simp] theorem State.updWave_threads (s : State) (w : Nat) (f : Wave → Wave) : (s.updWave w f).threads = s.threads := rfl
@[simp] theorem State.updWave_waves (s : State) (w : Nat) (f : Wave → Wave) : (s.updWave w f).waves = Tab.upd s.waves w f := rfl
@[simp] theorem State.updWave_blocks (s : State) (w : Nat) (f : Wave → Wave) : (s.updWave w f).blocks = s.blocks := rfl
@[simp] theorem State.updWave_ctxs (s : State) (w : Nat) (f : Wave → Wave) : (s.updWave w f).ctxs = s.ctxs := rfl
@[simp] theorem State.updWave_groups (s : State) (w : Nat) (f : Wave → Wave) : (s.updWave w f).groups = s.groups := rfl
@[simp] theorem State.updWave_racqs (s : State) (w : Nat) (f : Wave → Wave) : (s.updWave w f).racqs = s.racqs := rfl
@[simp] theorem State.updWave_mem (s : State) (w : Nat) (f : Wave → Wave) : (s.updWave w f).mem = s.mem := rfl
@[simp] theorem State.updWave_poison (s : State) (w : Nat) (f : Wave → Wave) : (s.updWave w f).poison = s.poison := rfl
@[simp] theorem State.updWave_badWords (s : State) (w : Nat) (f : Wave → Wave) : (s.updWave w f).badWords = s.badWords := rfl
@[simp] theorem State.updWave_bank (s : State) (w : Nat) (f : Wave → Wave) : (s.updWave w f).bank = s.bank := rfl
@[simp] theorem State.updWave_l1 (s : State) (w : Nat) (f : Wave → Wave) : (s.updWave w f).l1 = s.l1 := rfl
@[simp] theorem State.updWave_tlb (s : State) (w : Nat) (f : Wave → Wave) : (s.updWave w f).tlb = s.tlb := rfl
@[simp] theorem State.updWave_asids (s : State) (w : Nat) (f : Wave → Wave) : (s.updWave w f).asids = s.asids := rfl
@[simp] theorem State.updWave_oldKeys (s : State) (w : Nat) (f : Wave → Wave) : (s.updWave w f).oldKeys = s.oldKeys := rfl
@[simp] theorem State.updWave_fwKey (s : State) (w : Nat) (f : Wave → Wave) : (s.updWave w f).fwKey = s.fwKey := rfl
@[simp] theorem State.updWave_homeQ (s : State) (w : Nat) (f : Wave → Wave) : (s.updWave w f).homeQ = s.homeQ := rfl
@[simp] theorem State.updWave_bankQ (s : State) (w : Nat) (f : Wave → Wave) : (s.updWave w f).bankQ = s.bankQ := rfl
@[simp] theorem State.updWave_ringQ (s : State) (w : Nat) (f : Wave → Wave) : (s.updWave w f).ringQ = s.ringQ := rfl
@[simp] theorem State.updWave_copyReqs (s : State) (w : Nat) (f : Wave → Wave) : (s.updWave w f).copyReqs = s.copyReqs := rfl
@[simp] theorem State.updWave_faultQ (s : State) (w : Nat) (f : Wave → Wave) : (s.updWave w f).faultQ = s.faultQ := rfl
@[simp] theorem State.updWave_recWait (s : State) (w : Nat) (f : Wave → Wave) : (s.updWave w f).recWait = s.recWait := rfl
@[simp] theorem State.updWave_queues (s : State) (w : Nat) (f : Wave → Wave) : (s.updWave w f).queues = s.queues := rfl
@[simp] theorem State.updWave_launches (s : State) (w : Nat) (f : Wave → Wave) : (s.updWave w f).launches = s.launches := rfl
@[simp] theorem State.updWave_tasks (s : State) (w : Nat) (f : Wave → Wave) : (s.updWave w f).tasks = s.tasks := rfl
@[simp] theorem State.updWave_stealing (s : State) (w : Nat) (f : Wave → Wave) : (s.updWave w f).stealing = s.stealing := rfl
@[simp] theorem State.updWave_pops (s : State) (w : Nat) (f : Wave → Wave) : (s.updWave w f).pops = s.pops := rfl
@[simp] theorem State.updWave_module (s : State) (w : Nat) (f : Wave → Wave) : (s.updWave w f).module = s.module := rfl
@[simp] theorem State.updWave_domain (s : State) (w : Nat) (f : Wave → Wave) : (s.updWave w f).domain = s.domain := rfl
@[simp] theorem State.updWave_windows (s : State) (w : Nat) (f : Wave → Wave) : (s.updWave w f).windows = s.windows := rfl
@[simp] theorem State.updWave_access (s : State) (w : Nat) (f : Wave → Wave) : (s.updWave w f).access = s.access := rfl
@[simp] theorem State.updWave_ports (s : State) (w : Nat) (f : Wave → Wave) : (s.updWave w f).ports = s.ports := rfl
@[simp] theorem State.updWave_txs (s : State) (w : Nat) (f : Wave → Wave) : (s.updWave w f).txs = s.txs := rfl
@[simp] theorem State.updWave_outbox (s : State) (w : Nat) (f : Wave → Wave) : (s.updWave w f).outbox = s.outbox := rfl
@[simp] theorem State.updWave_scheds (s : State) (w : Nat) (f : Wave → Wave) : (s.updWave w f).scheds = s.scheds := rfl
@[simp] theorem State.updWave_colls (s : State) (w : Nat) (f : Wave → Wave) : (s.updWave w f).colls = s.colls := rfl
@[simp] theorem State.updWave_sillage (s : State) (w : Nat) (f : Wave → Wave) : (s.updWave w f).sillage = s.sillage := rfl
@[simp] theorem State.updWave_sets (s : State) (w : Nat) (f : Wave → Wave) : (s.updWave w f).sets = s.sets := rfl
@[simp] theorem State.updWave_accordBase (s : State) (w : Nat) (f : Wave → Wave) : (s.updWave w f).accordBase = s.accordBase := rfl
@[simp] theorem State.updWave_accordLen (s : State) (w : Nat) (f : Wave → Wave) : (s.updWave w f).accordLen = s.accordLen := rfl
@[simp] theorem State.updWave_accordBad (s : State) (w : Nat) (f : Wave → Wave) : (s.updWave w f).accordBad = s.accordBad := rfl
@[simp] theorem State.updWave_accordQ (s : State) (w : Nat) (f : Wave → Wave) : (s.updWave w f).accordQ = s.accordQ := rfl
@[simp] theorem State.updWave_accordReads (s : State) (w : Nat) (f : Wave → Wave) : (s.updWave w f).accordReads = s.accordReads := rfl
@[simp] theorem State.updWave_rebuilt (s : State) (w : Nat) (f : Wave → Wave) : (s.updWave w f).rebuilt = s.rebuilt := rfl
@[simp] theorem State.updWave_host (s : State) (w : Nat) (f : Wave → Wave) : (s.updWave w f).host = s.host := rfl
@[simp] theorem State.updWave_power (s : State) (w : Nat) (f : Wave → Wave) : (s.updWave w f).power = s.power := rfl
@[simp] theorem State.updWave_fenced (s : State) (w : Nat) (f : Wave → Wave) : (s.updWave w f).fenced = s.fenced := rfl
@[simp] theorem State.updWave_glitches (s : State) (w : Nat) (f : Wave → Wave) : (s.updWave w f).glitches = s.glitches := rfl
@[simp] theorem State.updWave_chunkErrs (s : State) (w : Nat) (f : Wave → Wave) : (s.updWave w f).chunkErrs = s.chunkErrs := rfl
@[simp] theorem State.updWave_frames (s : State) (w : Nat) (f : Wave → Wave) : (s.updWave w f).frames = s.frames := rfl
@[simp] theorem State.updWave_freeFrames (s : State) (w : Nat) (f : Wave → Wave) : (s.updWave w f).freeFrames = s.freeFrames := rfl
@[simp] theorem State.updWave_accordPages (s : State) (w : Nat) (f : Wave → Wave) : (s.updWave w f).accordPages = s.accordPages := rfl
@[simp] theorem State.updWave_backing (s : State) (w : Nat) (f : Wave → Wave) : (s.updWave w f).backing = s.backing := rfl
@[simp] theorem State.updWave_fused (s : State) (w : Nat) (f : Wave → Wave) : (s.updWave w f).fused = s.fused := rfl
@[simp] theorem State.updWave_fwVersion (s : State) (w : Nat) (f : Wave → Wave) : (s.updWave w f).fwVersion = s.fwVersion := rfl
@[simp] theorem State.updWave_fwMeasure (s : State) (w : Nat) (f : Wave → Wave) : (s.updWave w f).fwMeasure = s.fwMeasure := rfl
@[simp] theorem State.updWave_images (s : State) (w : Nat) (f : Wave → Wave) : (s.updWave w f).images = s.images := rfl
@[simp] theorem State.updWave_tests (s : State) (w : Nat) (f : Wave → Wave) : (s.updWave w f).tests = s.tests := rfl

/-! ## `updBlock` -/

@[simp] theorem State.updBlock_clock (s : State) (b : Nat) (f : Block → Block) : (s.updBlock b f).clock = s.clock := rfl
@[simp] theorem State.updBlock_cur (s : State) (b : Nat) (f : Block → Block) : (s.updBlock b f).cur = s.cur := rfl
@[simp] theorem State.updBlock_agenda (s : State) (b : Nat) (f : Block → Block) : (s.updBlock b f).agenda = s.agenda := rfl
@[simp] theorem State.updBlock_delayed (s : State) (b : Nat) (f : Block → Block) : (s.updBlock b f).delayed = s.delayed := rfl
@[simp] theorem State.updBlock_starved (s : State) (b : Nat) (f : Block → Block) : (s.updBlock b f).starved = s.starved := rfl
@[simp] theorem State.updBlock_picks (s : State) (b : Nat) (f : Block → Block) : (s.updBlock b f).picks = s.picks := rfl
@[simp] theorem State.updBlock_ticket (s : State) (b : Nat) (f : Block → Block) : (s.updBlock b f).ticket = s.ticket := rfl
@[simp] theorem State.updBlock_bootIn (s : State) (b : Nat) (f : Block → Block) : (s.updBlock b f).bootIn = s.bootIn := rfl
@[simp] theorem State.updBlock_threads (s : State) (b : Nat) (f : Block → Block) : (s.updBlock b f).threads = s.threads := rfl
@[simp] theorem State.updBlock_waves (s : State) (b : Nat) (f : Block → Block) : (s.updBlock b f).waves = s.waves := rfl
@[simp] theorem State.updBlock_blocks (s : State) (b : Nat) (f : Block → Block) : (s.updBlock b f).blocks = Tab.upd s.blocks b f := rfl
@[simp] theorem State.updBlock_ctxs (s : State) (b : Nat) (f : Block → Block) : (s.updBlock b f).ctxs = s.ctxs := rfl
@[simp] theorem State.updBlock_groups (s : State) (b : Nat) (f : Block → Block) : (s.updBlock b f).groups = s.groups := rfl
@[simp] theorem State.updBlock_racqs (s : State) (b : Nat) (f : Block → Block) : (s.updBlock b f).racqs = s.racqs := rfl
@[simp] theorem State.updBlock_mem (s : State) (b : Nat) (f : Block → Block) : (s.updBlock b f).mem = s.mem := rfl
@[simp] theorem State.updBlock_poison (s : State) (b : Nat) (f : Block → Block) : (s.updBlock b f).poison = s.poison := rfl
@[simp] theorem State.updBlock_badWords (s : State) (b : Nat) (f : Block → Block) : (s.updBlock b f).badWords = s.badWords := rfl
@[simp] theorem State.updBlock_bank (s : State) (b : Nat) (f : Block → Block) : (s.updBlock b f).bank = s.bank := rfl
@[simp] theorem State.updBlock_l1 (s : State) (b : Nat) (f : Block → Block) : (s.updBlock b f).l1 = s.l1 := rfl
@[simp] theorem State.updBlock_tlb (s : State) (b : Nat) (f : Block → Block) : (s.updBlock b f).tlb = s.tlb := rfl
@[simp] theorem State.updBlock_asids (s : State) (b : Nat) (f : Block → Block) : (s.updBlock b f).asids = s.asids := rfl
@[simp] theorem State.updBlock_oldKeys (s : State) (b : Nat) (f : Block → Block) : (s.updBlock b f).oldKeys = s.oldKeys := rfl
@[simp] theorem State.updBlock_fwKey (s : State) (b : Nat) (f : Block → Block) : (s.updBlock b f).fwKey = s.fwKey := rfl
@[simp] theorem State.updBlock_homeQ (s : State) (b : Nat) (f : Block → Block) : (s.updBlock b f).homeQ = s.homeQ := rfl
@[simp] theorem State.updBlock_bankQ (s : State) (b : Nat) (f : Block → Block) : (s.updBlock b f).bankQ = s.bankQ := rfl
@[simp] theorem State.updBlock_ringQ (s : State) (b : Nat) (f : Block → Block) : (s.updBlock b f).ringQ = s.ringQ := rfl
@[simp] theorem State.updBlock_copyReqs (s : State) (b : Nat) (f : Block → Block) : (s.updBlock b f).copyReqs = s.copyReqs := rfl
@[simp] theorem State.updBlock_faultQ (s : State) (b : Nat) (f : Block → Block) : (s.updBlock b f).faultQ = s.faultQ := rfl
@[simp] theorem State.updBlock_recWait (s : State) (b : Nat) (f : Block → Block) : (s.updBlock b f).recWait = s.recWait := rfl
@[simp] theorem State.updBlock_queues (s : State) (b : Nat) (f : Block → Block) : (s.updBlock b f).queues = s.queues := rfl
@[simp] theorem State.updBlock_launches (s : State) (b : Nat) (f : Block → Block) : (s.updBlock b f).launches = s.launches := rfl
@[simp] theorem State.updBlock_tasks (s : State) (b : Nat) (f : Block → Block) : (s.updBlock b f).tasks = s.tasks := rfl
@[simp] theorem State.updBlock_stealing (s : State) (b : Nat) (f : Block → Block) : (s.updBlock b f).stealing = s.stealing := rfl
@[simp] theorem State.updBlock_pops (s : State) (b : Nat) (f : Block → Block) : (s.updBlock b f).pops = s.pops := rfl
@[simp] theorem State.updBlock_module (s : State) (b : Nat) (f : Block → Block) : (s.updBlock b f).module = s.module := rfl
@[simp] theorem State.updBlock_domain (s : State) (b : Nat) (f : Block → Block) : (s.updBlock b f).domain = s.domain := rfl
@[simp] theorem State.updBlock_windows (s : State) (b : Nat) (f : Block → Block) : (s.updBlock b f).windows = s.windows := rfl
@[simp] theorem State.updBlock_access (s : State) (b : Nat) (f : Block → Block) : (s.updBlock b f).access = s.access := rfl
@[simp] theorem State.updBlock_ports (s : State) (b : Nat) (f : Block → Block) : (s.updBlock b f).ports = s.ports := rfl
@[simp] theorem State.updBlock_txs (s : State) (b : Nat) (f : Block → Block) : (s.updBlock b f).txs = s.txs := rfl
@[simp] theorem State.updBlock_outbox (s : State) (b : Nat) (f : Block → Block) : (s.updBlock b f).outbox = s.outbox := rfl
@[simp] theorem State.updBlock_scheds (s : State) (b : Nat) (f : Block → Block) : (s.updBlock b f).scheds = s.scheds := rfl
@[simp] theorem State.updBlock_colls (s : State) (b : Nat) (f : Block → Block) : (s.updBlock b f).colls = s.colls := rfl
@[simp] theorem State.updBlock_sillage (s : State) (b : Nat) (f : Block → Block) : (s.updBlock b f).sillage = s.sillage := rfl
@[simp] theorem State.updBlock_sets (s : State) (b : Nat) (f : Block → Block) : (s.updBlock b f).sets = s.sets := rfl
@[simp] theorem State.updBlock_accordBase (s : State) (b : Nat) (f : Block → Block) : (s.updBlock b f).accordBase = s.accordBase := rfl
@[simp] theorem State.updBlock_accordLen (s : State) (b : Nat) (f : Block → Block) : (s.updBlock b f).accordLen = s.accordLen := rfl
@[simp] theorem State.updBlock_accordBad (s : State) (b : Nat) (f : Block → Block) : (s.updBlock b f).accordBad = s.accordBad := rfl
@[simp] theorem State.updBlock_accordQ (s : State) (b : Nat) (f : Block → Block) : (s.updBlock b f).accordQ = s.accordQ := rfl
@[simp] theorem State.updBlock_accordReads (s : State) (b : Nat) (f : Block → Block) : (s.updBlock b f).accordReads = s.accordReads := rfl
@[simp] theorem State.updBlock_rebuilt (s : State) (b : Nat) (f : Block → Block) : (s.updBlock b f).rebuilt = s.rebuilt := rfl
@[simp] theorem State.updBlock_host (s : State) (b : Nat) (f : Block → Block) : (s.updBlock b f).host = s.host := rfl
@[simp] theorem State.updBlock_power (s : State) (b : Nat) (f : Block → Block) : (s.updBlock b f).power = s.power := rfl
@[simp] theorem State.updBlock_fenced (s : State) (b : Nat) (f : Block → Block) : (s.updBlock b f).fenced = s.fenced := rfl
@[simp] theorem State.updBlock_glitches (s : State) (b : Nat) (f : Block → Block) : (s.updBlock b f).glitches = s.glitches := rfl
@[simp] theorem State.updBlock_chunkErrs (s : State) (b : Nat) (f : Block → Block) : (s.updBlock b f).chunkErrs = s.chunkErrs := rfl
@[simp] theorem State.updBlock_frames (s : State) (b : Nat) (f : Block → Block) : (s.updBlock b f).frames = s.frames := rfl
@[simp] theorem State.updBlock_freeFrames (s : State) (b : Nat) (f : Block → Block) : (s.updBlock b f).freeFrames = s.freeFrames := rfl
@[simp] theorem State.updBlock_accordPages (s : State) (b : Nat) (f : Block → Block) : (s.updBlock b f).accordPages = s.accordPages := rfl
@[simp] theorem State.updBlock_backing (s : State) (b : Nat) (f : Block → Block) : (s.updBlock b f).backing = s.backing := rfl
@[simp] theorem State.updBlock_fused (s : State) (b : Nat) (f : Block → Block) : (s.updBlock b f).fused = s.fused := rfl
@[simp] theorem State.updBlock_fwVersion (s : State) (b : Nat) (f : Block → Block) : (s.updBlock b f).fwVersion = s.fwVersion := rfl
@[simp] theorem State.updBlock_fwMeasure (s : State) (b : Nat) (f : Block → Block) : (s.updBlock b f).fwMeasure = s.fwMeasure := rfl
@[simp] theorem State.updBlock_images (s : State) (b : Nat) (f : Block → Block) : (s.updBlock b f).images = s.images := rfl
@[simp] theorem State.updBlock_tests (s : State) (b : Nat) (f : Block → Block) : (s.updBlock b f).tests = s.tests := rfl

/-! ## `updCtx` -/

@[simp] theorem State.updCtx_clock (s : State) (c : Nat) (f : Ctx → Ctx) : (s.updCtx c f).clock = s.clock := rfl
@[simp] theorem State.updCtx_cur (s : State) (c : Nat) (f : Ctx → Ctx) : (s.updCtx c f).cur = s.cur := rfl
@[simp] theorem State.updCtx_agenda (s : State) (c : Nat) (f : Ctx → Ctx) : (s.updCtx c f).agenda = s.agenda := rfl
@[simp] theorem State.updCtx_delayed (s : State) (c : Nat) (f : Ctx → Ctx) : (s.updCtx c f).delayed = s.delayed := rfl
@[simp] theorem State.updCtx_starved (s : State) (c : Nat) (f : Ctx → Ctx) : (s.updCtx c f).starved = s.starved := rfl
@[simp] theorem State.updCtx_picks (s : State) (c : Nat) (f : Ctx → Ctx) : (s.updCtx c f).picks = s.picks := rfl
@[simp] theorem State.updCtx_ticket (s : State) (c : Nat) (f : Ctx → Ctx) : (s.updCtx c f).ticket = s.ticket := rfl
@[simp] theorem State.updCtx_bootIn (s : State) (c : Nat) (f : Ctx → Ctx) : (s.updCtx c f).bootIn = s.bootIn := rfl
@[simp] theorem State.updCtx_threads (s : State) (c : Nat) (f : Ctx → Ctx) : (s.updCtx c f).threads = s.threads := rfl
@[simp] theorem State.updCtx_waves (s : State) (c : Nat) (f : Ctx → Ctx) : (s.updCtx c f).waves = s.waves := rfl
@[simp] theorem State.updCtx_blocks (s : State) (c : Nat) (f : Ctx → Ctx) : (s.updCtx c f).blocks = s.blocks := rfl
@[simp] theorem State.updCtx_ctxs (s : State) (c : Nat) (f : Ctx → Ctx) : (s.updCtx c f).ctxs = Tab.upd s.ctxs c f := rfl
@[simp] theorem State.updCtx_groups (s : State) (c : Nat) (f : Ctx → Ctx) : (s.updCtx c f).groups = s.groups := rfl
@[simp] theorem State.updCtx_racqs (s : State) (c : Nat) (f : Ctx → Ctx) : (s.updCtx c f).racqs = s.racqs := rfl
@[simp] theorem State.updCtx_mem (s : State) (c : Nat) (f : Ctx → Ctx) : (s.updCtx c f).mem = s.mem := rfl
@[simp] theorem State.updCtx_poison (s : State) (c : Nat) (f : Ctx → Ctx) : (s.updCtx c f).poison = s.poison := rfl
@[simp] theorem State.updCtx_badWords (s : State) (c : Nat) (f : Ctx → Ctx) : (s.updCtx c f).badWords = s.badWords := rfl
@[simp] theorem State.updCtx_bank (s : State) (c : Nat) (f : Ctx → Ctx) : (s.updCtx c f).bank = s.bank := rfl
@[simp] theorem State.updCtx_l1 (s : State) (c : Nat) (f : Ctx → Ctx) : (s.updCtx c f).l1 = s.l1 := rfl
@[simp] theorem State.updCtx_tlb (s : State) (c : Nat) (f : Ctx → Ctx) : (s.updCtx c f).tlb = s.tlb := rfl
@[simp] theorem State.updCtx_asids (s : State) (c : Nat) (f : Ctx → Ctx) : (s.updCtx c f).asids = s.asids := rfl
@[simp] theorem State.updCtx_oldKeys (s : State) (c : Nat) (f : Ctx → Ctx) : (s.updCtx c f).oldKeys = s.oldKeys := rfl
@[simp] theorem State.updCtx_fwKey (s : State) (c : Nat) (f : Ctx → Ctx) : (s.updCtx c f).fwKey = s.fwKey := rfl
@[simp] theorem State.updCtx_homeQ (s : State) (c : Nat) (f : Ctx → Ctx) : (s.updCtx c f).homeQ = s.homeQ := rfl
@[simp] theorem State.updCtx_bankQ (s : State) (c : Nat) (f : Ctx → Ctx) : (s.updCtx c f).bankQ = s.bankQ := rfl
@[simp] theorem State.updCtx_ringQ (s : State) (c : Nat) (f : Ctx → Ctx) : (s.updCtx c f).ringQ = s.ringQ := rfl
@[simp] theorem State.updCtx_copyReqs (s : State) (c : Nat) (f : Ctx → Ctx) : (s.updCtx c f).copyReqs = s.copyReqs := rfl
@[simp] theorem State.updCtx_faultQ (s : State) (c : Nat) (f : Ctx → Ctx) : (s.updCtx c f).faultQ = s.faultQ := rfl
@[simp] theorem State.updCtx_recWait (s : State) (c : Nat) (f : Ctx → Ctx) : (s.updCtx c f).recWait = s.recWait := rfl
@[simp] theorem State.updCtx_queues (s : State) (c : Nat) (f : Ctx → Ctx) : (s.updCtx c f).queues = s.queues := rfl
@[simp] theorem State.updCtx_launches (s : State) (c : Nat) (f : Ctx → Ctx) : (s.updCtx c f).launches = s.launches := rfl
@[simp] theorem State.updCtx_tasks (s : State) (c : Nat) (f : Ctx → Ctx) : (s.updCtx c f).tasks = s.tasks := rfl
@[simp] theorem State.updCtx_stealing (s : State) (c : Nat) (f : Ctx → Ctx) : (s.updCtx c f).stealing = s.stealing := rfl
@[simp] theorem State.updCtx_pops (s : State) (c : Nat) (f : Ctx → Ctx) : (s.updCtx c f).pops = s.pops := rfl
@[simp] theorem State.updCtx_module (s : State) (c : Nat) (f : Ctx → Ctx) : (s.updCtx c f).module = s.module := rfl
@[simp] theorem State.updCtx_domain (s : State) (c : Nat) (f : Ctx → Ctx) : (s.updCtx c f).domain = s.domain := rfl
@[simp] theorem State.updCtx_windows (s : State) (c : Nat) (f : Ctx → Ctx) : (s.updCtx c f).windows = s.windows := rfl
@[simp] theorem State.updCtx_access (s : State) (c : Nat) (f : Ctx → Ctx) : (s.updCtx c f).access = s.access := rfl
@[simp] theorem State.updCtx_ports (s : State) (c : Nat) (f : Ctx → Ctx) : (s.updCtx c f).ports = s.ports := rfl
@[simp] theorem State.updCtx_txs (s : State) (c : Nat) (f : Ctx → Ctx) : (s.updCtx c f).txs = s.txs := rfl
@[simp] theorem State.updCtx_outbox (s : State) (c : Nat) (f : Ctx → Ctx) : (s.updCtx c f).outbox = s.outbox := rfl
@[simp] theorem State.updCtx_scheds (s : State) (c : Nat) (f : Ctx → Ctx) : (s.updCtx c f).scheds = s.scheds := rfl
@[simp] theorem State.updCtx_colls (s : State) (c : Nat) (f : Ctx → Ctx) : (s.updCtx c f).colls = s.colls := rfl
@[simp] theorem State.updCtx_sillage (s : State) (c : Nat) (f : Ctx → Ctx) : (s.updCtx c f).sillage = s.sillage := rfl
@[simp] theorem State.updCtx_sets (s : State) (c : Nat) (f : Ctx → Ctx) : (s.updCtx c f).sets = s.sets := rfl
@[simp] theorem State.updCtx_accordBase (s : State) (c : Nat) (f : Ctx → Ctx) : (s.updCtx c f).accordBase = s.accordBase := rfl
@[simp] theorem State.updCtx_accordLen (s : State) (c : Nat) (f : Ctx → Ctx) : (s.updCtx c f).accordLen = s.accordLen := rfl
@[simp] theorem State.updCtx_accordBad (s : State) (c : Nat) (f : Ctx → Ctx) : (s.updCtx c f).accordBad = s.accordBad := rfl
@[simp] theorem State.updCtx_accordQ (s : State) (c : Nat) (f : Ctx → Ctx) : (s.updCtx c f).accordQ = s.accordQ := rfl
@[simp] theorem State.updCtx_accordReads (s : State) (c : Nat) (f : Ctx → Ctx) : (s.updCtx c f).accordReads = s.accordReads := rfl
@[simp] theorem State.updCtx_rebuilt (s : State) (c : Nat) (f : Ctx → Ctx) : (s.updCtx c f).rebuilt = s.rebuilt := rfl
@[simp] theorem State.updCtx_host (s : State) (c : Nat) (f : Ctx → Ctx) : (s.updCtx c f).host = s.host := rfl
@[simp] theorem State.updCtx_power (s : State) (c : Nat) (f : Ctx → Ctx) : (s.updCtx c f).power = s.power := rfl
@[simp] theorem State.updCtx_fenced (s : State) (c : Nat) (f : Ctx → Ctx) : (s.updCtx c f).fenced = s.fenced := rfl
@[simp] theorem State.updCtx_glitches (s : State) (c : Nat) (f : Ctx → Ctx) : (s.updCtx c f).glitches = s.glitches := rfl
@[simp] theorem State.updCtx_chunkErrs (s : State) (c : Nat) (f : Ctx → Ctx) : (s.updCtx c f).chunkErrs = s.chunkErrs := rfl
@[simp] theorem State.updCtx_frames (s : State) (c : Nat) (f : Ctx → Ctx) : (s.updCtx c f).frames = s.frames := rfl
@[simp] theorem State.updCtx_freeFrames (s : State) (c : Nat) (f : Ctx → Ctx) : (s.updCtx c f).freeFrames = s.freeFrames := rfl
@[simp] theorem State.updCtx_accordPages (s : State) (c : Nat) (f : Ctx → Ctx) : (s.updCtx c f).accordPages = s.accordPages := rfl
@[simp] theorem State.updCtx_backing (s : State) (c : Nat) (f : Ctx → Ctx) : (s.updCtx c f).backing = s.backing := rfl
@[simp] theorem State.updCtx_fused (s : State) (c : Nat) (f : Ctx → Ctx) : (s.updCtx c f).fused = s.fused := rfl
@[simp] theorem State.updCtx_fwVersion (s : State) (c : Nat) (f : Ctx → Ctx) : (s.updCtx c f).fwVersion = s.fwVersion := rfl
@[simp] theorem State.updCtx_fwMeasure (s : State) (c : Nat) (f : Ctx → Ctx) : (s.updCtx c f).fwMeasure = s.fwMeasure := rfl
@[simp] theorem State.updCtx_images (s : State) (c : Nat) (f : Ctx → Ctx) : (s.updCtx c f).images = s.images := rfl
@[simp] theorem State.updCtx_tests (s : State) (c : Nat) (f : Ctx → Ctx) : (s.updCtx c f).tests = s.tests := rfl

/-! ## `updAsid` -/

@[simp] theorem State.updAsid_clock (s : State) (a : Nat) (f : Asid → Asid) : (s.updAsid a f).clock = s.clock := rfl
@[simp] theorem State.updAsid_cur (s : State) (a : Nat) (f : Asid → Asid) : (s.updAsid a f).cur = s.cur := rfl
@[simp] theorem State.updAsid_agenda (s : State) (a : Nat) (f : Asid → Asid) : (s.updAsid a f).agenda = s.agenda := rfl
@[simp] theorem State.updAsid_delayed (s : State) (a : Nat) (f : Asid → Asid) : (s.updAsid a f).delayed = s.delayed := rfl
@[simp] theorem State.updAsid_starved (s : State) (a : Nat) (f : Asid → Asid) : (s.updAsid a f).starved = s.starved := rfl
@[simp] theorem State.updAsid_picks (s : State) (a : Nat) (f : Asid → Asid) : (s.updAsid a f).picks = s.picks := rfl
@[simp] theorem State.updAsid_ticket (s : State) (a : Nat) (f : Asid → Asid) : (s.updAsid a f).ticket = s.ticket := rfl
@[simp] theorem State.updAsid_bootIn (s : State) (a : Nat) (f : Asid → Asid) : (s.updAsid a f).bootIn = s.bootIn := rfl
@[simp] theorem State.updAsid_threads (s : State) (a : Nat) (f : Asid → Asid) : (s.updAsid a f).threads = s.threads := rfl
@[simp] theorem State.updAsid_waves (s : State) (a : Nat) (f : Asid → Asid) : (s.updAsid a f).waves = s.waves := rfl
@[simp] theorem State.updAsid_blocks (s : State) (a : Nat) (f : Asid → Asid) : (s.updAsid a f).blocks = s.blocks := rfl
@[simp] theorem State.updAsid_ctxs (s : State) (a : Nat) (f : Asid → Asid) : (s.updAsid a f).ctxs = s.ctxs := rfl
@[simp] theorem State.updAsid_groups (s : State) (a : Nat) (f : Asid → Asid) : (s.updAsid a f).groups = s.groups := rfl
@[simp] theorem State.updAsid_racqs (s : State) (a : Nat) (f : Asid → Asid) : (s.updAsid a f).racqs = s.racqs := rfl
@[simp] theorem State.updAsid_mem (s : State) (a : Nat) (f : Asid → Asid) : (s.updAsid a f).mem = s.mem := rfl
@[simp] theorem State.updAsid_poison (s : State) (a : Nat) (f : Asid → Asid) : (s.updAsid a f).poison = s.poison := rfl
@[simp] theorem State.updAsid_badWords (s : State) (a : Nat) (f : Asid → Asid) : (s.updAsid a f).badWords = s.badWords := rfl
@[simp] theorem State.updAsid_bank (s : State) (a : Nat) (f : Asid → Asid) : (s.updAsid a f).bank = s.bank := rfl
@[simp] theorem State.updAsid_l1 (s : State) (a : Nat) (f : Asid → Asid) : (s.updAsid a f).l1 = s.l1 := rfl
@[simp] theorem State.updAsid_tlb (s : State) (a : Nat) (f : Asid → Asid) : (s.updAsid a f).tlb = s.tlb := rfl
@[simp] theorem State.updAsid_asids (s : State) (a : Nat) (f : Asid → Asid) : (s.updAsid a f).asids = Tab.upd s.asids a f := rfl
@[simp] theorem State.updAsid_oldKeys (s : State) (a : Nat) (f : Asid → Asid) : (s.updAsid a f).oldKeys = s.oldKeys := rfl
@[simp] theorem State.updAsid_fwKey (s : State) (a : Nat) (f : Asid → Asid) : (s.updAsid a f).fwKey = s.fwKey := rfl
@[simp] theorem State.updAsid_homeQ (s : State) (a : Nat) (f : Asid → Asid) : (s.updAsid a f).homeQ = s.homeQ := rfl
@[simp] theorem State.updAsid_bankQ (s : State) (a : Nat) (f : Asid → Asid) : (s.updAsid a f).bankQ = s.bankQ := rfl
@[simp] theorem State.updAsid_ringQ (s : State) (a : Nat) (f : Asid → Asid) : (s.updAsid a f).ringQ = s.ringQ := rfl
@[simp] theorem State.updAsid_copyReqs (s : State) (a : Nat) (f : Asid → Asid) : (s.updAsid a f).copyReqs = s.copyReqs := rfl
@[simp] theorem State.updAsid_faultQ (s : State) (a : Nat) (f : Asid → Asid) : (s.updAsid a f).faultQ = s.faultQ := rfl
@[simp] theorem State.updAsid_recWait (s : State) (a : Nat) (f : Asid → Asid) : (s.updAsid a f).recWait = s.recWait := rfl
@[simp] theorem State.updAsid_queues (s : State) (a : Nat) (f : Asid → Asid) : (s.updAsid a f).queues = s.queues := rfl
@[simp] theorem State.updAsid_launches (s : State) (a : Nat) (f : Asid → Asid) : (s.updAsid a f).launches = s.launches := rfl
@[simp] theorem State.updAsid_tasks (s : State) (a : Nat) (f : Asid → Asid) : (s.updAsid a f).tasks = s.tasks := rfl
@[simp] theorem State.updAsid_stealing (s : State) (a : Nat) (f : Asid → Asid) : (s.updAsid a f).stealing = s.stealing := rfl
@[simp] theorem State.updAsid_pops (s : State) (a : Nat) (f : Asid → Asid) : (s.updAsid a f).pops = s.pops := rfl
@[simp] theorem State.updAsid_module (s : State) (a : Nat) (f : Asid → Asid) : (s.updAsid a f).module = s.module := rfl
@[simp] theorem State.updAsid_domain (s : State) (a : Nat) (f : Asid → Asid) : (s.updAsid a f).domain = s.domain := rfl
@[simp] theorem State.updAsid_windows (s : State) (a : Nat) (f : Asid → Asid) : (s.updAsid a f).windows = s.windows := rfl
@[simp] theorem State.updAsid_access (s : State) (a : Nat) (f : Asid → Asid) : (s.updAsid a f).access = s.access := rfl
@[simp] theorem State.updAsid_ports (s : State) (a : Nat) (f : Asid → Asid) : (s.updAsid a f).ports = s.ports := rfl
@[simp] theorem State.updAsid_txs (s : State) (a : Nat) (f : Asid → Asid) : (s.updAsid a f).txs = s.txs := rfl
@[simp] theorem State.updAsid_outbox (s : State) (a : Nat) (f : Asid → Asid) : (s.updAsid a f).outbox = s.outbox := rfl
@[simp] theorem State.updAsid_scheds (s : State) (a : Nat) (f : Asid → Asid) : (s.updAsid a f).scheds = s.scheds := rfl
@[simp] theorem State.updAsid_colls (s : State) (a : Nat) (f : Asid → Asid) : (s.updAsid a f).colls = s.colls := rfl
@[simp] theorem State.updAsid_sillage (s : State) (a : Nat) (f : Asid → Asid) : (s.updAsid a f).sillage = s.sillage := rfl
@[simp] theorem State.updAsid_sets (s : State) (a : Nat) (f : Asid → Asid) : (s.updAsid a f).sets = s.sets := rfl
@[simp] theorem State.updAsid_accordBase (s : State) (a : Nat) (f : Asid → Asid) : (s.updAsid a f).accordBase = s.accordBase := rfl
@[simp] theorem State.updAsid_accordLen (s : State) (a : Nat) (f : Asid → Asid) : (s.updAsid a f).accordLen = s.accordLen := rfl
@[simp] theorem State.updAsid_accordBad (s : State) (a : Nat) (f : Asid → Asid) : (s.updAsid a f).accordBad = s.accordBad := rfl
@[simp] theorem State.updAsid_accordQ (s : State) (a : Nat) (f : Asid → Asid) : (s.updAsid a f).accordQ = s.accordQ := rfl
@[simp] theorem State.updAsid_accordReads (s : State) (a : Nat) (f : Asid → Asid) : (s.updAsid a f).accordReads = s.accordReads := rfl
@[simp] theorem State.updAsid_rebuilt (s : State) (a : Nat) (f : Asid → Asid) : (s.updAsid a f).rebuilt = s.rebuilt := rfl
@[simp] theorem State.updAsid_host (s : State) (a : Nat) (f : Asid → Asid) : (s.updAsid a f).host = s.host := rfl
@[simp] theorem State.updAsid_power (s : State) (a : Nat) (f : Asid → Asid) : (s.updAsid a f).power = s.power := rfl
@[simp] theorem State.updAsid_fenced (s : State) (a : Nat) (f : Asid → Asid) : (s.updAsid a f).fenced = s.fenced := rfl
@[simp] theorem State.updAsid_glitches (s : State) (a : Nat) (f : Asid → Asid) : (s.updAsid a f).glitches = s.glitches := rfl
@[simp] theorem State.updAsid_chunkErrs (s : State) (a : Nat) (f : Asid → Asid) : (s.updAsid a f).chunkErrs = s.chunkErrs := rfl
@[simp] theorem State.updAsid_frames (s : State) (a : Nat) (f : Asid → Asid) : (s.updAsid a f).frames = s.frames := rfl
@[simp] theorem State.updAsid_freeFrames (s : State) (a : Nat) (f : Asid → Asid) : (s.updAsid a f).freeFrames = s.freeFrames := rfl
@[simp] theorem State.updAsid_accordPages (s : State) (a : Nat) (f : Asid → Asid) : (s.updAsid a f).accordPages = s.accordPages := rfl
@[simp] theorem State.updAsid_backing (s : State) (a : Nat) (f : Asid → Asid) : (s.updAsid a f).backing = s.backing := rfl
@[simp] theorem State.updAsid_fused (s : State) (a : Nat) (f : Asid → Asid) : (s.updAsid a f).fused = s.fused := rfl
@[simp] theorem State.updAsid_fwVersion (s : State) (a : Nat) (f : Asid → Asid) : (s.updAsid a f).fwVersion = s.fwVersion := rfl
@[simp] theorem State.updAsid_fwMeasure (s : State) (a : Nat) (f : Asid → Asid) : (s.updAsid a f).fwMeasure = s.fwMeasure := rfl
@[simp] theorem State.updAsid_images (s : State) (a : Nat) (f : Asid → Asid) : (s.updAsid a f).images = s.images := rfl
@[simp] theorem State.updAsid_tests (s : State) (a : Nat) (f : Asid → Asid) : (s.updAsid a f).tests = s.tests := rfl

/-! ## `putThread` -/

@[simp] theorem State.putThread_clock (s : State) (k : Nat) (t : Thread) : (s.putThread k t).clock = s.clock := rfl
@[simp] theorem State.putThread_cur (s : State) (k : Nat) (t : Thread) : (s.putThread k t).cur = s.cur := rfl
@[simp] theorem State.putThread_agenda (s : State) (k : Nat) (t : Thread) : (s.putThread k t).agenda = s.agenda := rfl
@[simp] theorem State.putThread_delayed (s : State) (k : Nat) (t : Thread) : (s.putThread k t).delayed = s.delayed := rfl
@[simp] theorem State.putThread_starved (s : State) (k : Nat) (t : Thread) : (s.putThread k t).starved = s.starved := rfl
@[simp] theorem State.putThread_picks (s : State) (k : Nat) (t : Thread) : (s.putThread k t).picks = s.picks := rfl
@[simp] theorem State.putThread_ticket (s : State) (k : Nat) (t : Thread) : (s.putThread k t).ticket = s.ticket := rfl
@[simp] theorem State.putThread_bootIn (s : State) (k : Nat) (t : Thread) : (s.putThread k t).bootIn = s.bootIn := rfl
@[simp] theorem State.putThread_waves (s : State) (k : Nat) (t : Thread) : (s.putThread k t).waves = s.waves := rfl
@[simp] theorem State.putThread_blocks (s : State) (k : Nat) (t : Thread) : (s.putThread k t).blocks = s.blocks := rfl
@[simp] theorem State.putThread_ctxs (s : State) (k : Nat) (t : Thread) : (s.putThread k t).ctxs = s.ctxs := rfl
@[simp] theorem State.putThread_groups (s : State) (k : Nat) (t : Thread) : (s.putThread k t).groups = s.groups := rfl
@[simp] theorem State.putThread_racqs (s : State) (k : Nat) (t : Thread) : (s.putThread k t).racqs = s.racqs := rfl
@[simp] theorem State.putThread_mem (s : State) (k : Nat) (t : Thread) : (s.putThread k t).mem = s.mem := rfl
@[simp] theorem State.putThread_poison (s : State) (k : Nat) (t : Thread) : (s.putThread k t).poison = s.poison := rfl
@[simp] theorem State.putThread_badWords (s : State) (k : Nat) (t : Thread) : (s.putThread k t).badWords = s.badWords := rfl
@[simp] theorem State.putThread_bank (s : State) (k : Nat) (t : Thread) : (s.putThread k t).bank = s.bank := rfl
@[simp] theorem State.putThread_l1 (s : State) (k : Nat) (t : Thread) : (s.putThread k t).l1 = s.l1 := rfl
@[simp] theorem State.putThread_tlb (s : State) (k : Nat) (t : Thread) : (s.putThread k t).tlb = s.tlb := rfl
@[simp] theorem State.putThread_asids (s : State) (k : Nat) (t : Thread) : (s.putThread k t).asids = s.asids := rfl
@[simp] theorem State.putThread_oldKeys (s : State) (k : Nat) (t : Thread) : (s.putThread k t).oldKeys = s.oldKeys := rfl
@[simp] theorem State.putThread_fwKey (s : State) (k : Nat) (t : Thread) : (s.putThread k t).fwKey = s.fwKey := rfl
@[simp] theorem State.putThread_homeQ (s : State) (k : Nat) (t : Thread) : (s.putThread k t).homeQ = s.homeQ := rfl
@[simp] theorem State.putThread_bankQ (s : State) (k : Nat) (t : Thread) : (s.putThread k t).bankQ = s.bankQ := rfl
@[simp] theorem State.putThread_ringQ (s : State) (k : Nat) (t : Thread) : (s.putThread k t).ringQ = s.ringQ := rfl
@[simp] theorem State.putThread_copyReqs (s : State) (k : Nat) (t : Thread) : (s.putThread k t).copyReqs = s.copyReqs := rfl
@[simp] theorem State.putThread_faultQ (s : State) (k : Nat) (t : Thread) : (s.putThread k t).faultQ = s.faultQ := rfl
@[simp] theorem State.putThread_recWait (s : State) (k : Nat) (t : Thread) : (s.putThread k t).recWait = s.recWait := rfl
@[simp] theorem State.putThread_queues (s : State) (k : Nat) (t : Thread) : (s.putThread k t).queues = s.queues := rfl
@[simp] theorem State.putThread_launches (s : State) (k : Nat) (t : Thread) : (s.putThread k t).launches = s.launches := rfl
@[simp] theorem State.putThread_tasks (s : State) (k : Nat) (t : Thread) : (s.putThread k t).tasks = s.tasks := rfl
@[simp] theorem State.putThread_stealing (s : State) (k : Nat) (t : Thread) : (s.putThread k t).stealing = s.stealing := rfl
@[simp] theorem State.putThread_pops (s : State) (k : Nat) (t : Thread) : (s.putThread k t).pops = s.pops := rfl
@[simp] theorem State.putThread_module (s : State) (k : Nat) (t : Thread) : (s.putThread k t).module = s.module := rfl
@[simp] theorem State.putThread_domain (s : State) (k : Nat) (t : Thread) : (s.putThread k t).domain = s.domain := rfl
@[simp] theorem State.putThread_windows (s : State) (k : Nat) (t : Thread) : (s.putThread k t).windows = s.windows := rfl
@[simp] theorem State.putThread_access (s : State) (k : Nat) (t : Thread) : (s.putThread k t).access = s.access := rfl
@[simp] theorem State.putThread_ports (s : State) (k : Nat) (t : Thread) : (s.putThread k t).ports = s.ports := rfl
@[simp] theorem State.putThread_txs (s : State) (k : Nat) (t : Thread) : (s.putThread k t).txs = s.txs := rfl
@[simp] theorem State.putThread_outbox (s : State) (k : Nat) (t : Thread) : (s.putThread k t).outbox = s.outbox := rfl
@[simp] theorem State.putThread_scheds (s : State) (k : Nat) (t : Thread) : (s.putThread k t).scheds = s.scheds := rfl
@[simp] theorem State.putThread_colls (s : State) (k : Nat) (t : Thread) : (s.putThread k t).colls = s.colls := rfl
@[simp] theorem State.putThread_sillage (s : State) (k : Nat) (t : Thread) : (s.putThread k t).sillage = s.sillage := rfl
@[simp] theorem State.putThread_sets (s : State) (k : Nat) (t : Thread) : (s.putThread k t).sets = s.sets := rfl
@[simp] theorem State.putThread_accordBase (s : State) (k : Nat) (t : Thread) : (s.putThread k t).accordBase = s.accordBase := rfl
@[simp] theorem State.putThread_accordLen (s : State) (k : Nat) (t : Thread) : (s.putThread k t).accordLen = s.accordLen := rfl
@[simp] theorem State.putThread_accordBad (s : State) (k : Nat) (t : Thread) : (s.putThread k t).accordBad = s.accordBad := rfl
@[simp] theorem State.putThread_accordQ (s : State) (k : Nat) (t : Thread) : (s.putThread k t).accordQ = s.accordQ := rfl
@[simp] theorem State.putThread_accordReads (s : State) (k : Nat) (t : Thread) : (s.putThread k t).accordReads = s.accordReads := rfl
@[simp] theorem State.putThread_rebuilt (s : State) (k : Nat) (t : Thread) : (s.putThread k t).rebuilt = s.rebuilt := rfl
@[simp] theorem State.putThread_host (s : State) (k : Nat) (t : Thread) : (s.putThread k t).host = s.host := rfl
@[simp] theorem State.putThread_power (s : State) (k : Nat) (t : Thread) : (s.putThread k t).power = s.power := rfl
@[simp] theorem State.putThread_fenced (s : State) (k : Nat) (t : Thread) : (s.putThread k t).fenced = s.fenced := rfl
@[simp] theorem State.putThread_glitches (s : State) (k : Nat) (t : Thread) : (s.putThread k t).glitches = s.glitches := rfl
@[simp] theorem State.putThread_chunkErrs (s : State) (k : Nat) (t : Thread) : (s.putThread k t).chunkErrs = s.chunkErrs := rfl
@[simp] theorem State.putThread_frames (s : State) (k : Nat) (t : Thread) : (s.putThread k t).frames = s.frames := rfl
@[simp] theorem State.putThread_freeFrames (s : State) (k : Nat) (t : Thread) : (s.putThread k t).freeFrames = s.freeFrames := rfl
@[simp] theorem State.putThread_accordPages (s : State) (k : Nat) (t : Thread) : (s.putThread k t).accordPages = s.accordPages := rfl
@[simp] theorem State.putThread_backing (s : State) (k : Nat) (t : Thread) : (s.putThread k t).backing = s.backing := rfl
@[simp] theorem State.putThread_fused (s : State) (k : Nat) (t : Thread) : (s.putThread k t).fused = s.fused := rfl
@[simp] theorem State.putThread_fwVersion (s : State) (k : Nat) (t : Thread) : (s.putThread k t).fwVersion = s.fwVersion := rfl
@[simp] theorem State.putThread_fwMeasure (s : State) (k : Nat) (t : Thread) : (s.putThread k t).fwMeasure = s.fwMeasure := rfl
@[simp] theorem State.putThread_images (s : State) (k : Nat) (t : Thread) : (s.putThread k t).images = s.images := rfl
@[simp] theorem State.putThread_tests (s : State) (k : Nat) (t : Thread) : (s.putThread k t).tests = s.tests := rfl
@[simp] theorem State.putThread_threads (s : State) (k : Nat) (t : Thread) :
    (s.putThread k t).threads = Tab.put s.threads k (s.current k t) := rfl

end Sys2Proof.Machine
end

