-- ==== Sys2Proof/Laws/Issue.lean ====
section
/-!
SUPPORT. What issuing and finishing an instruction can do: the checks before an instruction's own effect pass exactly as `Issues` says,
and what a class F and a class V instruction leave.
-/
namespace Sys2Proof.Machine

/-! ## The checks -/

theorem firstIllegal_none {l : List Fld} {wb alloc : Nat} : firstIllegal l wb alloc = none ↔ ∀ f ∈ l, f.legal wb alloc = true := by
  induction l with
  | nil => simp [firstIllegal]
  | cons f r ih =>
    simp only [firstIllegal]
    split
    · next h => simp [h, ih]
    · next h => simp [h]

theorem tokensOf_nil {toks : Tab Token} {rs : List RegId} : tokensOf toks rs = [] ↔ ∀ r ∈ rs, tokenOf toks r = none := by
  simp [tokensOf, List.filterMap_eq_nil_iff]

theorem Issues.gate {s : State} {t : Thread} {q : Req} (h : Issues s t q) : s.gate s.cur t q = .pass := by
  have ht : tokensOf t.toks (q.flds.flatMap fun f => f.regs t.wb.toNat) = [] := by
    rw [tokensOf_nil]
    intro r hr
    obtain ⟨f, hf, hr⟩ := List.mem_flatMap.mp hr
    exact h.tokens f hf r hr
  have hz : (q.flds.flatMap fun f => f.regs t.wb.toNat).find? (fun r => t.runV.contains r) = none := by
    rw [List.find?_eq_none]
    intro r hr
    obtain ⟨f, hf, hr⟩ := List.mem_flatMap.mp hr
    have := h.hazards f hf r hr
    simpa using this
  have ho := firstIllegal_none.mpr h.operands
  have hr := h.role
  have hw : t.awaits q = false := by simp [Thread.awaits, ht]
  have hk : t.onToken q = false := by unfold Thread.onToken; split <;> simp_all
  have hd : t.dueFirst = none := by unfold Thread.dueFirst; split <;> simp [h.due]
  unfold State.gate
  simp only [h.calm, hk, hd, h.legal, ho, ht, hz, hr, h.accord, h.sound]
  simp

/-- The issue rule: under `Issues` an instruction's own effect comes about. -/
theorem issue_of_issues {s : State} {t : Thread} {q : Req} (h : Issues s t q) (body : Nat → Thread → State) :
    s.issue q body = .next (body s.cur t) := by
  unfold State.issue
  simp only [h.runs, h.gate]

theorem Issues.found {s : State} {t : Thread} {q : Req} (h : Issues s t q) : Tab.find s.threads s.cur = some t := by
  have hr := h.runs
  revert hr
  unfold State.runner
  cases Tab.find s.threads s.cur with
  | none => exact fun e => e
  | some u => intro e; split at e <;> simp_all

/-! ## The record of a thread -/

@[simp] theorem Thread.withAnswers_pend {t old : Thread} (h : t.pend = old.pend) : t.withAnswers old = t := by
  have : t.pend.map (fun p => if p.vals.isSome || old.pend.contains p then p else (old.pend.find? fun q => q.order == p.order).getD p) =
      t.pend := by
    conv => rhs; rw [← List.map_id t.pend]
    apply List.map_congr_left
    intro p hp
    have : old.pend.contains p = true := by rw [← h]; simpa using hp
    simp only [this, Bool.or_true, if_true, id]
  cases t
  simp only [Thread.withAnswers] at *
  rw [this]

theorem State.current_of_find {s : State} {k : Nat} {t u : Thread} (hs : Tab.find s.threads k = some u) (h : t.pend = u.pend) :
    s.current k t = t := by
  unfold State.current
  simp only [hs]
  exact Thread.withAnswers_pend h

/-! ## Groups -/

/-- What the groups' bookkeeping after an instruction can do: threads keep all but what the end of a run gives them, and only threads,
groups and the counter of issues change. -/
structure GroupsOnly (s s' : State) : Prop where
  rest : OnlyThreads s s'
  threads : ∀ j, (Tab.find s'.threads j).map Thread.lasting = (Tab.find s.threads j).map Thread.lasting

theorem GroupsOnly.refl (s : State) : GroupsOnly s s := ⟨rfl, fun _ => rfl⟩

theorem GroupsOnly.groups (s : State) (g : Tab Group) (n : Nat) : GroupsOnly s { s with groups := g, ticket := n } := ⟨rfl, fun _ => rfl⟩

theorem OnlyThreads.trans {a b c : State} (h : OnlyThreads a b) (k : OnlyThreads b c) : OnlyThreads a c := by
  unfold OnlyThreads at *
  rw [k, h]

theorem GroupsOnly.trans {a b c : State} (h : GroupsOnly a b) (k : GroupsOnly b c) : GroupsOnly a c :=
  ⟨h.rest.trans k.rest, fun j => (k.threads j).trans (h.threads j)⟩

theorem endRun_groupsOnly (s : State) (gk : Nat) (g : Group) : GroupsOnly s (s.endRun gk g) := by
  refine ⟨rfl, fun j => ?_⟩
  simp only [State.endRun, Tab.find_mapVal]
  cases Tab.find s.threads j with
  | none => rfl
  | some t =>
    simp only [Option.map_some]
    split <;> rfl

theorem groupNext_groupsOnly (s : State) (gk : Nat) : GroupsOnly s (s.groupNext gk) := by
  unfold State.groupNext
  split
  · exact .refl s
  · split
    · exact .refl s
    · split
      · exact ⟨rfl, fun _ => rfl⟩
      · split
        · exact .refl s
        · split
          · exact endRun_groupsOnly ..
          · split
            · exact ⟨rfl, fun _ => rfl⟩
            · exact ⟨rfl, fun _ => rfl⟩

theorem groupDone_groupsOnly (s : State) (k : Nat) (sw : Bool) : GroupsOnly s (s.groupDone k sw) := by
  unfold State.groupDone
  split
  · refine ⟨rfl, fun j => ?_⟩
    simp only [State.updThread, Tab.find_upd]
    split
    · cases Tab.find s.threads j with
      | none => rfl
      | some t => cases sw <;> rfl
    · rfl
  · next gk g _ =>
    exact GroupsOnly.trans (b := { s with groups := Tab.put s.groups gk { g with todo := g.todo.filter (· != k), closing := sw } })
      ⟨rfl, fun _ => rfl⟩ (groupNext_groupsOnly ..)

/-! ## Registers -/

theorem writeRegs_other (ds : List RegId) (vs : List Word) (regs : Store 32) (n : Nat) (h : .v n ∉ ds) :
    Store.read (writeRegs regs ds vs) n = Store.read regs n := by
  induction ds generalizing vs regs with
  | nil => simp [writeRegs]
  | cons d r ih =>
    have hr : .v n ∉ r := fun e => h (List.mem_cons_of_mem _ e)
    cases vs with
    | nil => cases d <;> simp [writeRegs]
    | cons v vs =>
      cases d with
      | k j => simpa [writeRegs] using ih vs regs hr
      | v j =>
        have hj : n ≠ j := fun e => h (by simp [e])
        simp only [writeRegs]
        rw [ih vs _ hr, Store.read_write_other _ _ _ _ hj]

theorem writeRegs_at (ds : List RegId) (vs : List Word) (regs : Store 32) (hn : ds.Nodup) (hl : ds.length ≤ vs.length) (i n : Nat)
    (hi : ds[i]? = some (.v n)) : vs[i]? = some (Store.read (writeRegs regs ds vs) n) := by
  induction ds generalizing vs regs i with
  | nil => simp at hi
  | cons d r ih =>
    cases vs with
    | nil => simp at hl
    | cons v vs =>
      have hr := (List.nodup_cons.mp hn).2
      have hl' : r.length ≤ vs.length := by simpa using hl
      cases i with
      | zero =>
        simp only [List.getElem?_cons_zero, Option.some.injEq] at hi
        subst hi
        simp only [writeRegs, List.getElem?_cons_zero]
        rw [writeRegs_other _ _ _ _ (List.nodup_cons.mp hn).1, Store.read_write_self]
      | succ i =>
        simp only [List.getElem?_cons_succ] at hi ⊢
        cases d with
        | v j => exact ih vs _ hr hl' i hi
        | k j => exact ih vs _ hr hl' i hi

/-- Writing a list of different registers. -/
theorem writeRegs_wrote {t u : Thread} {ds : List RegId} {vs : List Word} (hn : ds.Nodup) (hl : ds.length ≤ vs.length)
    (h : u.regs = writeRegs t.regs ds vs) : Wrote t u ds vs := by
  refine ⟨fun i n hi => ?_, fun n hi => ?_⟩
  · rw [h]; exact writeRegs_at ds vs t.regs hn hl i n hi
  · rw [h]; exact writeRegs_other ds vs t.regs n hi

theorem dests_nodup (d : Dst) (wb w : Nat) : (d.dests wb w).Nodup := by
  unfold Dst.dests Fld.regs fd
  cases d with
  | v n =>
    simp only [Dst.opnd]
    refine List.Pairwise.map _ ?_ (List.nodup_range (n := w))
    intro a b h e
    simp only [RegId.v.injEq] at e
    omega
  | k n =>
    simp only [Dst.opnd]
    refine List.Pairwise.map _ ?_ (List.nodup_range (n := w))
    intro a b h e
    simp only [RegId.k.injEq] at e
    omega
  | z => simp [Dst.opnd]
  | bad n => simp [Dst.opnd]

theorem dests_length (d : Dst) (wb w : Nat) : (d.dests wb w).length ≤ w := by
  unfold Dst.dests Fld.regs fd
  cases d <;> simp [Dst.opnd]

/-! ## Finishing -/

theorem BytesKept.of_only {s s' : State} (h : OnlyThreads s s') : BytesKept s s' := by
  intro p n
  rw [h]
  cases p <;> rfl

/-- What retiring leaves. -/
theorem retireAs_spec (s : State) (k : Nat) (t : Thread) (pc : Pair) (sw : Bool) :
    ∃ u : Thread, Tab.find (s.retireAs k t pc sw).threads k = some u ∧
      u.lasting = { t with pc := pc, stall := none, order := t.order + 1 }.lasting ∧
      OnlyThreads s (s.retireAs k t pc sw) ∧ OthersKept s (s.retireAs k t pc sw) k := by
  have h := groupDone_groupsOnly (s.setThread k { t with pc := pc, stall := none, order := t.order + 1 }) k sw
  have hk := h.threads k
  simp only [State.setThread_threads, Tab.find_put_self, Option.map_some] at hk
  unfold State.retireAs
  cases hf : Tab.find ((s.setThread k { t with pc := pc, stall := none, order := t.order + 1 }).groupDone k sw).threads k with
  | none => rw [hf] at hk; simp at hk
  | some u =>
    rw [hf] at hk
    refine ⟨u, rfl, by simpa using hk, OnlyThreads.trans (b := s.setThread k _) rfl h.rest, fun j hj => ?_⟩
    rw [h.threads j, State.setThread_threads, Tab.find_put_other _ _ _ _ hj]

theorem lasting_regs {u t : Thread} (h : u.lasting = t.lasting) : u.regs = t.regs := by
  have : u.lasting.regs = t.lasting.regs := congrArg Thread.regs h
  exact this

theorem lasting_due {u t : Thread} (h : u.lasting = t.lasting) : u.due = t.due := by
  have : u.lasting.due = t.lasting.due := congrArg Thread.due h
  exact this

theorem raise_eq (s : State) (k : Nat) (flags : Word) : s.raise k flags = { s with waves := raised s k flags } := by
  unfold State.raise raised
  split <;> rfl

/-- A class F instruction that finishes completes (R41, R42, R62). -/
theorem finishF_completes {s : State} {t : Thread} (hf : Tab.find s.threads s.cur = some t) (ds : List RegId) (vs : List Word)
    (flags : Word) (lits : Nat) (sw : Bool) (hn : ds.Nodup) (hl : ds.length ≤ vs.length) :
    CompletesF s t (.next (s.finishF s.cur t ds vs flags lits sw)) ds vs flags (nextPc t.pc lits) := by
  have he : s.finishF s.cur t ds vs flags lits sw = ({ s with waves := raised s s.cur flags } : State).retireAs s.cur
      { t.putRegs ds vs with due := addDue t.due (s.fpDue s.cur t flags t.pc t.order) } (nextPc t.pc lits) sw := by
    have hr : Tab.find (s.raise s.cur flags).threads s.cur = some t := by rw [raise_eq]; exact hf
    unfold State.finishF State.retire State.retireTo
    dsimp only
    rw [State.current_of_find (u := t)
      (t := { t.putRegs ds vs with due := addDue t.due (s.fpDue s.cur t flags t.pc t.order) }) hr rfl, raise_eq]
    rfl
  rw [he]
  obtain ⟨u, h1, h2, h3, h4⟩ := retireAs_spec { s with waves := raised s s.cur flags } s.cur
    { t.putRegs ds vs with due := addDue t.due (s.fpDue s.cur t flags t.pc t.order) } (nextPc t.pc lits) sw
  have hr : u.regs = writeRegs t.regs ds vs := lasting_regs h2
  have hd : u.due = addDue t.due (s.fpDue s.cur t flags t.pc t.order) := lasting_due h2
  refine ⟨_, u, rfl, h1, writeRegs_wrote hn hl hr, ?_, hd, h3, h4, ?_⟩
  · rw [h2, hr, hd]
    rfl
  · intro p n
    have := BytesKept.of_only h3 p n
    rw [this]
    cases p <;> rfl

/-- A class V instruction that finishes its issue (R64). -/
theorem finishV_issued {s : State} {k : Nat} {t : Thread} (hf : Tab.find s.threads k = some t) (ds : List RegId)
    (vals : Option (List Word)) (flags : Word) (traps : Bool) (fault : Option TrapInfo) (lits : Nat) (sw : Bool) :
    IssuedV s k t (s.finishV k t ds vals flags traps fault lits sw) ds vals flags traps fault (nextPc t.pc lits) := by
  unfold State.finishV
  rw [State.current_of_find (u := t) hf rfl]
  obtain ⟨u, h1, h2, h3, h4⟩ := retireAs_spec s k
    { t with pend := outstanding t ds vals flags traps fault, runV := t.runV ++ ds } (nextPc t.pc lits) sw
  exact ⟨u, h1, h2, h3, h4, BytesKept.of_only h3⟩

end Sys2Proof.Machine
end

