-- ==== Sys2Proof/Laws/Memory.lean ====
section
/-!
SUPPORT. Every operation on memory keeps the canonical form: writes and clears at home, the L1 of a core, places, home operations,
translation and fault records; and what the operations of threads that are built on them keep.
-/
namespace Sys2Proof

variable {α : Type}

theorem Tab.rising_iff (m : Tab α) : Tab.rising m = true ↔ m.Pairwise fun a b => a.1 < b.1 := by
  induction m with
  | nil => simp [Tab.rising]
  | cons c r ih =>
    obtain ⟨a, v⟩ := c
    rw [Tab.rising_cons, List.pairwise_cons, ih]

theorem Tab.rising_map (m : Tab α) (f : Nat × α → Nat × α) (hf : ∀ c, (f c).1 = c.1) (h : Tab.rising m = true) :
    Tab.rising (m.map f) = true := by
  rw [Tab.rising_iff] at *
  rw [List.pairwise_map]
  simpa only [hf] using h

theorem Tab.rising_mapVal (m : Tab α) (f : Nat → α → α) (h : Tab.rising m = true) : Tab.rising (Tab.mapVal m f) = true :=
  Tab.rising_map m _ (fun _ => rfl) h

theorem Tab.keys_upd (m : Tab α) (k : Nat) (f : α → α) : (Tab.upd m k f).map Prod.fst = m.map Prod.fst := by
  induction m with
  | nil => rfl
  | cons c r ih =>
    obtain ⟨a, v⟩ := c
    simp only [Tab.upd]
    split <;> simp [ih]

theorem Tab.rising_keys {β : Type} {m : Tab α} {n : Tab β} (h : m.map Prod.fst = n.map Prod.fst) (hn : Tab.rising n = true) :
    Tab.rising m = true := by
  rw [Tab.rising_iff] at *
  have := List.pairwise_map.mpr hn
  rw [← h] at this
  exact List.pairwise_map.mp this

theorem Tab.rising_upd (m : Tab α) (k : Nat) (f : α → α) (h : Tab.rising m = true) : Tab.rising (Tab.upd m k f) = true :=
  Tab.rising_keys (Tab.keys_upd m k f) h

theorem Tab.rising_del (m : Tab α) (k : Nat) (h : Tab.rising m = true) : Tab.rising (Tab.del m k) = true := by
  rw [Tab.del_eq_filter]
  exact Tab.rising_filter m _ h

end Sys2Proof

namespace Sys2Proof.Machine

/-- The arrays of the module's address spaces whose form `State.Canonical` states, but for threads and L1 lines. -/
def State.spaces (s : State) : Store 8 × Store 8 × Store 64 × Store 64 × Store 32 := (s.mem, s.bank, s.access, s.sets, s.fused)

/-- The form of a state that has the same spaces, threads and lines. -/
theorem State.Canonical.same {s t : State} (h : s.Canonical) (e : t.spaces = s.spaces) (et : t.threads = s.threads) (el : t.l1 = s.l1) :
    t.Canonical := by
  simp only [State.spaces, Prod.mk.injEq] at e
  obtain ⟨e1, e2, e3, e4, e5⟩ := e
  exact { mem := e1 ▸ h.mem, bank := e2 ▸ h.bank, access := e3 ▸ h.access, sets := e4 ▸ h.sets, fused := e5 ▸ h.fused,
          threads := et ▸ h.threads, l1 := el ▸ h.l1 }

/-- The form of a state with other threads in order. -/
theorem State.Canonical.withThreads {s t : State} (h : s.Canonical) (ht : Tab.rising t.threads = true) (e : t.spaces = s.spaces)
    (el : t.l1 = s.l1) : t.Canonical :=
  State.Canonical.same (s := { s with threads := t.threads }) { h with threads := ht } e rfl el

/-- The form of a state with other L1 lines in order. -/
theorem State.Canonical.withL1 {s t : State} (h : s.Canonical) (hl : Tab.rising t.l1 = true) (e : t.spaces = s.spaces)
    (et : t.threads = s.threads) : t.Canonical :=
  State.Canonical.same (s := { s with l1 := t.l1 }) { h with l1 := hl } e et rfl

/-- A chain of operations keeps the canonical form where each of them does. -/
theorem canonical_foldl {β : Type} (f : State → β → State) (hf : ∀ s x, s.Canonical → (f s x).Canonical) (l : List β) (s : State)
    (h : s.Canonical) : (l.foldl f s).Canonical := by
  induction l generalizing s with
  | nil => exact h
  | cons x r ih => exact ih _ (hf s x h)

/-! ## Writes and clears at home -/

theorem canonical_cleanPoison (s : State) (l : List Nat) (h : s.Canonical) : (s.cleanPoison l).Canonical := by
  unfold State.cleanPoison
  split
  · exact h
  · exact (h.same rfl rfl rfl)

theorem canonical_cleanWords (s : State) (p : Place) (n : Nat) (h : s.Canonical) : (s.cleanWords p n).Canonical := by
  unfold State.cleanWords
  split
  · exact h
  · exact (h.same rfl rfl rfl)

theorem canonical_writeCells (s : State) (l : List (Nat × Byte)) (o : Option Nat) (h : s.Canonical) : (s.writeCells l o).Canonical := by
  unfold State.writeCells
  split
  · exact h
  · split
    · exact (h.same rfl rfl rfl)
    · next a b r _ _ =>
      have h' := canonical_cleanPoison s (((a, b) :: r).map Prod.fst) h
      exact ⟨Store.wf_foldl_write _ _ h'.mem, h'.bank, h'.access, h'.sets, h'.fused, h'.threads, h'.l1⟩

theorem canonical_writeMem (s : State) (pa : Nat) (b : List Byte) (o : Option Nat) (h : s.Canonical) : (s.writeMem pa b o).Canonical :=
  canonical_writeCells s _ o h

theorem canonical_clearMem (s : State) (pa n : Nat) (h : s.Canonical) : (s.clearMem pa n).Canonical :=
  ⟨Store.wf_clear _ _ _ h.mem, h.bank, h.access, h.sets, h.fused, h.threads, h.l1⟩

/-! ## The L1 of a core -/

theorem canonical_l1Write (s : State) (k : Nat) (h : s.Canonical) : (s.l1Write k).Canonical := by
  unfold State.l1Write
  split
  · exact h
  · split
    · exact h
    · next l _ _ =>
      have h' := canonical_writeCells s (l.dirtyCells (k % 2 ^ 35 * 64)) none h
      exact h'.withL1 (Tab.rising_put _ _ _ h'.l1) rfl rfl

theorem canonical_l1Drop (s : State) (k : Nat) (h : s.Canonical) : (s.l1Drop k).Canonical := by
  have h' := canonical_l1Write s k h
  exact h'.withL1 (Tab.rising_del _ _ h'.l1) rfl rfl

theorem canonical_l1Flush (s : State) (c a : Nat) (h : s.Canonical) : (s.l1Flush c a).Canonical :=
  canonical_foldl _ canonical_l1Write _ _ h

theorem canonical_l1Invalidate (s : State) (c a : Nat) (h : s.Canonical) : (s.l1Invalidate c a).Canonical :=
  canonical_foldl _ canonical_l1Drop _ _ h

theorem canonical_l1FlushCores (s : State) (a : Nat) (p : Nat → Bool) (h : s.Canonical) : (s.l1FlushCores a p).Canonical :=
  canonical_foldl _ canonical_l1Write _ _ h

theorem canonical_l1InvalidateAll (s : State) (a : Nat) (h : s.Canonical) : (s.l1InvalidateAll a).Canonical :=
  canonical_foldl _ canonical_l1Drop _ _ h

theorem canonical_l1FlushRange (s : State) (c pa n : Nat) (h : s.Canonical) : (s.l1FlushRange c pa n).Canonical :=
  canonical_foldl _ (fun s _ h => canonical_l1Write s _ h) _ _ h

theorem canonical_l1DropRange (s : State) (c pa n : Nat) (h : s.Canonical) : (s.l1DropRange c pa n).Canonical :=
  canonical_foldl _ (fun s _ h => canonical_l1Drop s _ h) _ _ h

theorem canonical_dropEverywhere (s : State) (pa n : Nat) (h : s.Canonical) : (s.dropEverywhere pa n).Canonical :=
  canonical_foldl _ canonical_l1Drop _ _ h

theorem canonical_l1Read (s : State) (c a pa n : Nat) (h : s.Canonical) : (s.l1Read c a pa n).1.Canonical := by
  unfold State.l1Read
  split
  · exact h
  · split
    · exact h
    · exact h.withL1 (Tab.rising_put _ _ _ h.l1) rfl rfl

theorem canonical_l1Store (s : State) (c a pa : Nat) (b : List Byte) (o : Option Nat) (h : s.Canonical) :
    (s.l1Store c a pa b o).Canonical := by
  unfold State.l1Store
  split
  · exact canonical_writeMem _ _ _ _ (canonical_l1Drop _ _ h)
  · exact h.withL1 (Tab.rising_put _ _ _ h.l1) rfl rfl

/-! ## Records of the state -/

theorem canonical_updBlock (s : State) (b : Nat) (f : Block → Block) (h : s.Canonical) : (s.updBlock b f).Canonical :=
  (h.same rfl rfl rfl)

theorem canonical_updCtx (s : State) (c : Nat) (f : Ctx → Ctx) (h : s.Canonical) : (s.updCtx c f).Canonical :=
  (h.same rfl rfl rfl)

theorem canonical_updWave (s : State) (w : Nat) (f : Wave → Wave) (h : s.Canonical) : (s.updWave w f).Canonical :=
  (h.same rfl rfl rfl)

theorem canonical_updAsid (s : State) (a : Nat) (f : Asid → Asid) (h : s.Canonical) : (s.updAsid a f).Canonical :=
  (h.same rfl rfl rfl)

theorem canonical_updThread (s : State) (k : Nat) (f : Thread → Thread) (h : s.Canonical) : (s.updThread k f).Canonical :=
  h.withThreads (Tab.rising_upd _ _ _ h.threads) rfl rfl

theorem canonical_setThread (s : State) (k : Nat) (t : Thread) (h : s.Canonical) : (s.setThread k t).Canonical :=
  h.withThreads (Tab.rising_put _ _ _ h.threads) rfl rfl

theorem canonical_putThread (s : State) (k : Nat) (t : Thread) (h : s.Canonical) : (s.putThread k t).Canonical :=
  canonical_setThread s k _ h

/-! ## Places and home operations -/

theorem canonical_writePlace (s : State) (p : Place) (b : List Byte) (o : Option Nat) (h : s.Canonical) : (s.writePlace p b o).Canonical := by
  cases p with
  | mem pa => exact canonical_writeMem s pa b o h
  | spad k x => exact canonical_updBlock _ k _ (canonical_cleanWords s _ _ h)
  | bank d x =>
    have h' := canonical_cleanWords s (.bank d x) b.length h
    exact ⟨h'.mem, Store.wf_writes _ _ _ h'.bank, h'.access, h'.sets, h'.fused, h'.threads, h'.l1⟩
  | image c x => exact canonical_updCtx s c _ h

theorem canonical_cleanAt (s : State) (p : Place) (n : Nat) (h : s.Canonical) : (s.cleanAt p n).Canonical := by
  unfold State.cleanAt
  split
  · exact canonical_cleanPoison _ _ h
  · exact canonical_cleanWords _ _ _ h

theorem canonical_homeRun (s : State) (p : Place) (k : HomeKind) (h : s.Canonical) : (s.homeRun p k).1.Canonical := by
  unfold State.homeRun
  dsimp only
  refine canonical_cleanAt _ _ _ ?_
  split
  · exact (canonical_writePlace _ _ _ _ h).same rfl rfl rfl
  · exact h.same rfl rfl rfl

theorem canonical_dropLineAt (s : State) (c : Nat) (p : Place) (h : s.Canonical) : (s.dropLineAt c p).Canonical := by
  unfold State.dropLineAt
  split
  · exact canonical_l1Drop _ _ h
  · exact h

/-! ## Translation -/

theorem canonical_translate (s : State) (g : Agent) (va : Nat) (n : Need) (h : s.Canonical) : (s.translate g va n).1.Canonical := by
  have hw : ∀ (at_ : Nat) (e e2 : BitVec 64), (if e2 = e then s else s.writeMem at_ (bytesOf 8 e2)).Canonical := fun at_ e e2 => by
    split
    · exact h
    · exact canonical_writeMem _ _ _ _ h
  have hl : ∀ root : Option Nat, (match root with
      | none => (s, if s.keyless g.asid then Xlate.keyless else Xlate.prot 0x01)
      | some root =>
        match s.walkFrom va 3 root with
        | .unmapped => (s, .prot 0x01)
        | .malformed => (s, .malformed)
        | .poison at_ => (s, .poison (stackOf at_ / 4))
        | .lost => (s, .prot 0x0b)
        | .leaf at_ e bits =>
          let x := s.leafCheck e bits va n
          let done := match x with | .ok _ => true | .accord _ _ => true | _ => false
          if done then
            let e2 := e ||| 0x100 ||| (if n.w then 0x200 else 0)
            let s := if e2 = e then s else s.writeMem at_ (bytesOf 8 e2)
            let t : TlbEntry := { core := g.core, asid := g.asid, page := va / 2 ^ bits * 2 ^ bits, bits := bits, entry := e2 }
            ({ s with tlb := t :: s.tlb.filter fun u => !decide (u.core = g.core ∧ u.asid = g.asid ∧ u.page = t.page) }, x)
          else (s, x)).1.Canonical := fun root => by
    cases root with
    | none => exact h
    | some root =>
      dsimp only
      cases s.walkFrom va 3 root with
      | leaf at_ e bits =>
        have h' := hw at_ e (e ||| 0x100 ||| (if n.w then 0x200 else 0))
        dsimp only
        cases s.leafCheck e bits va n <;> first
          | exact h
          | exact (h'.same rfl rfl rfl)
      | _ => exact h
  unfold State.translate
  split
  · exact h
  · exact hl _

theorem canonical_locate (s : State) (g : Agent) (a n al : Nat) (d : Need) (host : Bool) (h : s.Canonical) :
    (s.locate g a n al d host).1.Canonical := by
  unfold State.locate
  cases s.window g a n with
  | none => exact h
  | some w =>
    dsimp only
    split
    · exact h
    · cases w with
      | place p => exact h
      | glob va =>
        dsimp only
        cases s.imageAt g.asid va with
        | some x => dsimp only; split <;> exact h
        | none =>
          have h' := canonical_translate s g va d h
          dsimp only
          generalize s.translate g va d = r at h'
          obtain ⟨s', x⟩ := r
          dsimp only
          split
          · split <;> exact h'
          · exact h'

/-! ## Fault records -/

theorem canonical_appendRec (s t : State) (die n : Nat) (r : List Byte) (h : s.Canonical) (e : s.appendRec die r = some (t, n)) :
    t.Canonical := by
  cases hq : Tab.find s.faultQ die with
  | none => simp [State.appendRec, hq] at e
  | some q =>
    have h' := canonical_writeMem s (q.slot q.append) (r.take 0x1c ++ natBytes 2 q.append ++ r.drop 0x1e) none h
    simp only [State.appendRec, hq, Option.ite_none_left_eq_some] at e
    cases e.2
    exact (h'.same rfl rfl rfl)

theorem canonical_pushRec (s : State) (die : Nat) (r : List Byte) (h : s.Canonical) : (s.pushRec die r).Canonical := by
  unfold State.pushRec
  dsimp only
  split
  · split
    · next t n e => exact canonical_appendRec s t _ n r h e
    · split
      · exact (h.same rfl rfl rfl)
      · exact h
  · exact (h.same rfl rfl rfl)

theorem canonical_setOutcome (s : State) (die n : Nat) (o : BitVec 8) (h : s.Canonical) : (s.setOutcome die n o).Canonical := by
  unfold State.setOutcome
  split
  · exact h
  · split
    · exact canonical_writeMem _ _ _ _ h
    · exact h

theorem canonical_postEvent (s : State) (t a : Nat) (p : List Byte) (h : s.Canonical) : (s.postEvent t a p).Canonical := by
  unfold State.postEvent
  dsimp only
  split <;> exact (h.same rfl rfl rfl)

/-! ## Groups, waits and grants -/

theorem canonical_endRun (s : State) (k : Nat) (g : Group) (h : s.Canonical) : (s.endRun k g).Canonical :=
  h.withThreads (by unfold State.endRun; dsimp only; exact Tab.rising_mapVal _ _ h.threads) rfl rfl

theorem canonical_groupNext (s : State) (k : Nat) (h : s.Canonical) : (s.groupNext k).Canonical := by
  unfold State.groupNext
  split
  · exact h
  · repeat' split
    all_goals first
      | exact h
      | exact canonical_endRun _ _ _ h
      | exact (h.same rfl rfl rfl)

theorem canonical_groupDone (s : State) (k : Nat) (sw : Bool) (h : s.Canonical) : (s.groupDone k sw).Canonical := by
  unfold State.groupDone
  split
  · exact canonical_updThread _ _ _ h
  · exact canonical_groupNext _ _ (h.same rfl rfl rfl)

theorem canonical_leaveGroup (s : State) (k : Nat) (h : s.Canonical) : (s.leaveGroup k).Canonical := by
  unfold State.leaveGroup
  split
  · exact h
  · exact canonical_groupNext _ _ (h.same rfl rfl rfl)

theorem canonical_retireAs (s : State) (k : Nat) (t : Thread) (pc : Pair) (sw : Bool) (h : s.Canonical) :
    (s.retireAs k t pc sw).Canonical :=
  canonical_groupDone _ _ _ (canonical_setThread _ _ _ h)

theorem canonical_retireTo (s : State) (k : Nat) (t : Thread) (pc : Pair) (sw : Bool) (h : s.Canonical) :
    (s.retireTo k t pc sw).Canonical := canonical_retireAs _ _ _ _ _ h

theorem canonical_retire (s : State) (k : Nat) (t : Thread) (n : Nat) (sw : Bool) (h : s.Canonical) :
    (s.retire k t n sw).Canonical := canonical_retireAs _ _ _ _ _ h

theorem canonical_raise (s : State) (k : Nat) (f : Word) (h : s.Canonical) : (s.raise k f).Canonical := by
  unfold State.raise
  split
  · exact h
  · exact canonical_updWave _ _ _ h

theorem canonical_finishF (s : State) (k : Nat) (t : Thread) (ds : List RegId) (vs : List Word) (f : Word) (n : Nat) (sw : Bool)
    (h : s.Canonical) : (s.finishF k t ds vs f n sw).Canonical :=
  canonical_retire _ _ _ _ _ (canonical_raise _ _ _ h)

theorem canonical_finishV (s : State) (k : Nat) (t : Thread) (ds : List RegId) (vs : Option (List Word)) (f : Word) (tr : Bool)
    (fault : Option TrapInfo) (n : Nat) (sw : Bool) (h : s.Canonical) : (s.finishV k t ds vs f tr fault n sw).Canonical :=
  canonical_retireAs _ _ _ _ _ h

theorem canonical_stallAt (s : State) (k : Nat) (t : Thread) (x : StallKind) (r : List RegId) (h : s.Canonical) :
    (s.stallAt k t x r).Canonical := by
  unfold State.stallAt
  dsimp only
  split
  · exact canonical_putThread _ _ _ (canonical_leaveGroup _ _ h)
  · split
    · exact canonical_putThread _ _ _ h
    · exact (canonical_putThread _ _ _ h).same rfl rfl rfl

theorem canonical_waitAt (s : State) (k : Nat) (t : Thread) (w : Wait) (n : Nat) (sw : Bool) (h : s.Canonical) :
    (s.waitAt k t w n sw).Canonical := by
  unfold State.waitAt
  split
  · exact canonical_putThread _ _ _ (canonical_leaveGroup _ _ h)
  · exact canonical_groupDone _ _ _ (canonical_putThread _ _ _ h)

theorem canonical_joinRegs (s : State) (w n : Nat) (h : s.Canonical) : (s.joinRegs w n).Canonical := by
  unfold State.joinRegs
  dsimp only
  split
  · exact h
  · refine ⟨h.mem, h.bank, h.access, h.sets, h.fused, ?_, h.l1⟩
    dsimp only
    exact Tab.rising_mapVal _ _ h.threads

theorem canonical_wake (s : State) (k : Nat) (t : Thread) (n : Nat) (h : s.Canonical) : (s.wake k t n).Canonical :=
  canonical_putThread _ _ _ h

theorem canonical_withdraw (s : State) (k : Nat) (t : Thread) (h : s.Canonical) : (s.withdraw k t).Canonical :=
  canonical_putThread _ _ _ h

theorem canonical_racqRelease (s : State) (w a : Nat) (h : s.Canonical) : (s.racqRelease w a).Canonical := by
  refine canonical_foldl _ (fun s x h => ?_) _ _ h
  dsimp only
  split
  · split
    · exact canonical_wake _ _ _ _ h
    · exact h
  · exact h

theorem canonical_racqServe (n : Nat) (s : State) (core : Nat) (h : s.Canonical) : (s.racqServe core n).Canonical := by
  induction n generalizing s with
  | zero => exact h
  | succ n ih =>
    unfold State.racqServe
    split
    · exact h
    · dsimp only
      split
      · exact ih _ (canonical_racqRelease _ _ _ (canonical_joinRegs _ _ _ (h.same rfl rfl rfl)))
      · exact h

theorem canonical_racqGrant (s : State) (core : Nat) (h : s.Canonical) : (s.racqGrant core).Canonical := canonical_racqServe _ _ _ h

/-! ## Acquires and timelines -/

theorem canonical_acquire (s : State) (k : Nat) (f : Scope) (h : s.Canonical) : (s.acquire k f).Canonical := by
  unfold State.acquire
  split
  · exact canonical_l1Invalidate _ _ _ h
  · exact h

theorem canonical_waitAcquire (s : State) (k n : Nat) (h : s.Canonical) : (s.waitAcquire k n).Canonical := by
  unfold State.waitAcquire
  split
  · exact h
  · exact canonical_acquire _ _ _ h

theorem canonical_timelineSettle (s : State) (h : s.Canonical) : s.timelineSettle.Canonical := by
  refine canonical_foldl _ (fun s x h => ?_) _ _ h
  dsimp only
  repeat' split
  all_goals first
    | exact canonical_wake _ _ _ _ (canonical_waitAcquire _ _ _ h)
    | exact h

/-! ## Home operations -/

theorem canonical_answer (s : State) (k o : Nat) (vs : List Word) (f : Word) (h : s.Canonical) : (s.answer k o vs f).Canonical :=
  canonical_updThread _ _ _ h

theorem canonical_plainLoad (s : State) (k : Nat) (p : Place) (n : Nat) (h : s.Canonical) : (s.plainLoad k p n).1.Canonical := by
  unfold State.plainLoad
  split
  · exact canonical_l1Read _ _ _ _ _ h
  · exact h

theorem canonical_plainStore (s : State) (k : Nat) (p : Place) (b : List Byte) (h : s.Canonical) : (s.plainStore k p b).Canonical := by
  unfold State.plainStore
  split
  · exact canonical_l1Store _ _ _ _ _ _ h
  · exact canonical_writePlace _ _ _ _ h

theorem canonical_answerOp (s : State) (x : HomeOp) (l : List Word) (h : s.Canonical) : (s.answerOp x l).Canonical := by
  unfold State.answerOp
  split
  · exact canonical_answer _ _ _ _ _ h
  · exact h

theorem canonical_bankEnd (s : State) (x : HomeOp) (h : s.Canonical) : (s.bankEnd x).Canonical := by
  unfold State.bankEnd
  split
  · exact canonical_timelineSettle _ (canonical_updAsid _ _ _ h)
  · exact h

theorem canonical_performOp (s : State) (x : HomeOp) (h : s.Canonical) : (s.performOp x).Canonical := by
  have h1 := canonical_answerOp _ x (s.homeRun x.place x.kind).2 (canonical_bankEnd _ x (canonical_homeRun s x.place x.kind h))
  unfold State.performOp
  dsimp only
  split
  · exact h1
  · split
    · exact canonical_answerOp _ _ _ (canonical_plainLoad _ _ _ _ h)
    · exact canonical_plainStore _ _ _ _ h
    · exact h1

/-! ## Kills and traps -/

theorem canonical_finishOps (s : State) (l : List Nat) (h : s.Canonical) : (s.finishOps l).Canonical :=
  canonical_foldl _ canonical_performOp _ _ (h.same rfl rfl rfl)

theorem canonical_dropTxs (s : State) (l : List Nat) (h : s.Canonical) : (s.dropTxs l).Canonical := by
  unfold State.dropTxs
  dsimp only
  split
  · exact (h.same rfl rfl rfl)
  · exact canonical_timelineSettle _ (canonical_foldl _ (fun s _ h => canonical_updAsid s _ _ h) _ _
      (h.same rfl rfl rfl))

theorem canonical_dropCtx (s : State) (c : Nat) (h : s.Canonical) : (s.dropCtx c).Canonical := by
  unfold State.dropCtx
  dsimp only
  refine canonical_foldl _ canonical_racqGrant _ _ (canonical_dropTxs _ _ (canonical_updAsid _ _ _ ?_))
  have h1 := canonical_finishOps s (s.ctx c).blocks h
  generalize s.finishOps (s.ctx c).blocks = s1 at h1 ⊢
  have h2 := canonical_foldl (fun (t : State) core => t.l1Invalidate core (s.ctx c).asid) (fun t x h => canonical_l1Invalidate t x _ h)
    (dedup ((s.ctx c).ran ++ dedup ((s.ctx c).blocks.map fun b => (s1.block b).core))) s1 h1
  generalize List.foldl (fun (t : State) core => t.l1Invalidate core (s.ctx c).asid) s1
    (dedup ((s.ctx c).ran ++ dedup ((s.ctx c).blocks.map fun b => (s1.block b).core))) = s2 at h2 ⊢
  have h3 := canonical_foldl (fun (t : State) (x : Nat × Nat) => t.setOutcome x.1 x.2 2) (fun t x h => canonical_setOutcome t x.1 x.2 2 h)
    (s2.pendingRecs c) s2 h2
  exact h3.withThreads (Tab.rising_filter _ _ h3.threads) rfl rfl

theorem canonical_launchDown (s : State) (l n : Nat) (h : s.Canonical) : (s.launchDown l n).Canonical :=
  (h.same rfl rfl rfl)

theorem canonical_killCtx (s : State) (c : Nat) (r : Option (List Byte)) (h : s.Canonical) : (s.killCtx c r).Canonical := by
  unfold State.killCtx
  split
  · exact h
  · dsimp only
    refine canonical_launchDown _ _ _ (canonical_updAsid _ _ _ ?_)
    have h' : ∀ s' : State, s'.Canonical → (s'.dropCtx c).Canonical := fun s' h => canonical_dropCtx s' c h
    cases r with
    | none =>
      have k := h' s h
      exact (k.same rfl rfl rfl)
    | some r =>
      have k := h' _ (canonical_postEvent _ 2 (s.ctx c).asid (r ++ bytesOf 4 (match Tab.find (s.pushRec (s.ctx c).die r).launches
        (s.ctx c).launch with | some l => l.number | none => 0)) (canonical_pushRec s (s.ctx c).die r h))
      exact (k.same rfl rfl rfl)

theorem canonical_shareMask (s : State) (w ev : Nat) (h : s.Canonical) : (s.shareMask w ev).Canonical :=
  h.withThreads (by unfold State.shareMask; dsimp only; exact Tab.rising_mapVal _ _ h.threads) rfl rfl

theorem canonical_takeTrap (s : State) (k : Nat) (t : Thread) (i : TrapInfo) (pc f : Pair) (ev : Nat) (h : s.Canonical) :
    (s.takeTrap k t i pc f ev).Canonical := by
  unfold State.takeTrap
  dsimp only
  split
  · exact canonical_killCtx _ _ _ h
  · exact canonical_shareMask _ _ _ (canonical_putThread _ _ _ (canonical_leaveGroup _ _ h))

theorem canonical_trapEvent (s : State) (k : Nat) (h : s.Canonical) : (s.trapEvent k).2.Canonical := by
  unfold State.trapEvent
  split
  · exact h
  · exact (h.same rfl rfl rfl)

theorem canonical_trapAt (s : State) (k : Nat) (t : Thread) (i : TrapInfo) (h : s.Canonical) : (s.trapAt k t i).Canonical :=
  canonical_takeTrap _ _ _ _ _ _ _ (canonical_trapEvent s k h)

theorem canonical_takeDue (s : State) (k : Nat) (t : Thread) (d : Due) (h : s.Canonical) : (s.takeDue k t d).Canonical :=
  canonical_takeTrap _ _ _ _ _ _ _ (canonical_trapEvent s k h)

theorem canonical_returnFromTrap (s : State) (k : Nat) (t : Thread) (h : s.Canonical) : (s.returnFromTrap k t).Canonical :=
  canonical_retireTo _ _ _ _ _ (canonical_updWave _ _ _ h)

theorem canonical_consumePoison (s : State) (c : Nat) (r : List Byte) (h : s.Canonical) : (s.consumePoison c r).Canonical := by
  unfold State.consumePoison
  dsimp only
  repeat' split
  all_goals first
    | exact h
    | exact (h.same rfl rfl rfl)
    | exact canonical_killCtx _ _ _ h

theorem canonical_recorded (s : State) (k : Nat) (t : Thread) (d n i : Nat) (r : List Byte) (h : s.Canonical) :
    (s.recorded k t d n i r).Canonical := by
  unfold State.recorded
  split
  · exact canonical_putThread _ _ _ h
  · exact canonical_takeTrap _ _ _ _ _ _ _ h

theorem canonical_appendIssue (s : State) (die i : Nat) (rs : List (Nat × List Byte)) (h : s.Canonical) :
    (s.appendIssue die i rs).Canonical := by
  refine canonical_foldl _ (fun s x h => ?_) _ _ h
  dsimp only
  split
  · next t n u e _ => exact canonical_recorded _ _ _ _ _ _ _ (canonical_appendRec _ _ _ _ _ h e)
  · exact h

theorem canonical_recordIssue (s : State) (die i : Nat) (h : s.Canonical) : (s.recordIssue die i).Canonical := by
  unfold State.recordIssue
  dsimp only
  split
  · exact h
  · exact canonical_appendIssue _ _ _ _ h

theorem canonical_parkWith (s : State) (k : Nat) (t : Thread) (r : List Byte) (h : s.Canonical) : (s.parkWith k t r).Canonical :=
  canonical_recordIssue _ _ _ (canonical_putThread _ _ _ (canonical_leaveGroup _ _ (canonical_trapEvent s k h)))

theorem canonical_park (s : State) (k : Nat) (t : Thread) (va : Nat) (kind : BitVec 3) (n : Nat) (h : s.Canonical) :
    (s.park k t va kind n).Canonical := canonical_parkWith _ _ _ _ h

theorem canonical_stopThread (s : State) (k : Nat) (t : Thread) (x : Stop) (h : s.Canonical) : (s.stopThread k t x).Canonical := by
  cases x with
  | trap i => exact canonical_trapAt _ _ _ _ h
  | malformed i =>
    unfold State.stopThread
    dsimp only
    split
    · exact canonical_trapAt _ _ _ _ h
    · exact canonical_parkWith _ _ _ _ h
  | absent va kind n => exact canonical_park _ _ _ _ _ _ h
  | copy va =>
    have h' := canonical_putThread _ k { t with status := .copying, stall := none, runV := [], run := 0 } (canonical_leaveGroup s k h)
    exact (h'.same rfl rfl rfl)
  | poison va =>
    unfold State.stopThread
    exact canonical_consumePoison _ _ _ h
  | fence die => exact (h.same rfl rfl rfl)
  | keyless va kind n =>
    unfold State.stopThread
    exact canonical_killCtx _ _ _ h

/-! ## Home operations on their way, releases, loads and stores -/

theorem canonical_homeExec (s : State) (x : HomeOp) (h : s.Canonical) : (s.homeExec x).Canonical := by
  have key : ∀ t : State, t.Canonical → ∀ half : Bool, (if t.opBad x && (Tab.find t.threads x.thread).isSome then
      t.consumePoison (t.block (blkOf x.thread)).ctx
        (t.threadRec x.thread { accTrap 0x09 0 0x0a (if half then 0 else 2) x.kind.size with addr := x.va } x.pc false)
      else t.performOp x).Canonical := fun t h half => by
    split
    · exact canonical_consumePoison _ _ _ h
    · exact canonical_performOp _ _ h
  unfold State.homeExec
  refine key _ ?_ _
  split <;> first | exact h | exact canonical_dropLineAt _ _ _ h

theorem canonical_drain (s : State) (k : Nat) (h : s.Canonical) : (s.drain k).Canonical :=
  canonical_foldl _ canonical_homeExec _ _ (h.same rfl rfl rfl)

theorem canonical_release (s : State) (k : Nat) (f : Scope) (h : s.Canonical) : (s.release k f).Canonical := by
  unfold State.release
  dsimp only
  split
  · exact canonical_l1Flush _ _ _ (canonical_drain _ _ h)
  · exact canonical_drain _ _ h

theorem canonical_promote (s : State) (k : Nat) (f : Scope) (h : s.Canonical) : (s.promote k f).Canonical := by
  unfold State.promote
  split
  · exact canonical_l1FlushCores _ _ _ h
  · exact canonical_l1FlushCores _ _ _ h
  · exact h

theorem canonical_buffer (s t : State) (b : Nat) (l : List BufEntry) (h : s.Canonical) (e : s.buffer b l = some t) : t.Canonical := by
  unfold State.buffer at e
  simp only [Option.ite_none_right_eq_some, Option.some.injEq] at e
  rw [← e.2]
  exact canonical_updBlock _ _ _ h

theorem canonical_noteRead (s : State) (b : Nat) (p : Place) (n : Nat) (l : Line) (h : s.Canonical) : (s.noteRead b p n l).Canonical :=
  canonical_updBlock _ _ _ h

theorem canonical_firstLine (s : State) (b : Nat) (p : Place) (n : Nat) (h : s.Canonical) : (s.firstLine b p n).1.Canonical := by
  have h' := canonical_noteRead s b p n (Line.of (s.readPlace p.line.1 64)) h
  unfold State.firstLine
  dsimp only
  split <;> exact h'

theorem canonical_loadAt (s : State) (k : Nat) (p : Place) (n : Nat) (h : s.Canonical) : (s.loadAt k p n).1.Canonical := by
  have h' := canonical_drain s k h
  unfold State.loadAt
  dsimp only
  split
  · refine canonical_noteRead _ _ _ _ _ ?_
    split
    · exact canonical_l1Read _ _ _ _ _ h'
    · exact h'
  · exact canonical_plainLoad _ _ _ _ h'

theorem canonical_storeAt (s t : State) (k : Nat) (p : Place) (va : Nat) (b : List Byte) (h : s.Canonical) (e : s.storeAt k p va b = some t) :
    t.Canonical := by
  have h' := canonical_drain s k h
  unfold State.storeAt at e
  dsimp only at e
  split at e
  · exact canonical_buffer _ _ _ _ h' e
  · cases e
    exact canonical_plainStore _ _ _ _ h'

/-- An instruction keeps the canonical form where its own effect does: each of the checks before it does (R67). -/
theorem canonical_issue (s t : State) (q : Req) (body : Nat → Thread → State) (h : s.Canonical)
    (hb : ∀ u, s.runner = some u → (body s.cur u).Canonical) (e : s.issue q body = .next t) : t.Canonical := by
  unfold State.issue at e
  split at e
  · cases e
  · next u hu =>
    split at e <;> cases e
    · exact hb u hu
    · exact canonical_drain _ _ h
    · exact canonical_consumePoison _ _ _ h
    · exact canonical_takeDue _ _ _ _ h
    · exact canonical_trapAt _ _ _ _ h
    · exact canonical_trapAt _ _ _ _ h
    · exact canonical_stallAt _ _ _ _ _ h

end Sys2Proof.Machine
end

