-- ==== Sys2Proof/Laws/Shared.lean ====
section
/-!
SUPPORT. What the shared operations can do, each said once: the checks at issue, waits and stalls, traps, operations on their way,
writes at home and translation; and that a read after a write gives what was written.
-/
namespace Sys2Proof

variable {w : Nat}

/-! ## Reads after writes -/

theorem Store.read_writes_other (m : Store w) (k j : Nat) (l : List (BitVec w)) (h : j < k ∨ k + l.length ≤ j) :
    Store.read (Store.writes m k l) j = Store.read m j := by
  induction l generalizing m k with
  | nil => rfl
  | cons x r ih =>
    simp only [List.length_cons] at h
    simp only [Store.writes]
    rw [ih (Store.write m k x) (k + 1) (by omega), Store.read_write_other _ _ _ _ (by omega)]

theorem Store.read_writes (m : Store w) (k i : Nat) (l : List (BitVec w)) (h : i < l.length) :
    Store.read (Store.writes m k l) (k + i) = l[i] := by
  induction l generalizing m k i with
  | nil => simp at h
  | cons x r ih =>
    simp only [Store.writes]
    cases i with
    | zero =>
      rw [Store.read_writes_other _ _ _ _ (by omega)]
      simp
    | succ i =>
      have := ih (Store.write m k x) (k + 1) i (by simpa using h)
      rw [show k + (i + 1) = k + 1 + i by omega, this]
      simp

theorem Store.reads_length (m : Store w) (k n : Nat) : (Store.reads m k n).length = n := by
  induction n generalizing k with
  | zero => rfl
  | succ n ih => simp [Store.reads, ih]

theorem Store.reads_at (m : Store w) (k n i : Nat) (h : i < n) :
    (Store.reads m k n)[i]'(by rw [Store.reads_length]; exact h) = Store.read m (k + i) := by
  induction n generalizing k i with
  | zero => omega
  | succ n ih =>
    cases i with
    | zero => simp [Store.reads]
    | succ i =>
      simp only [Store.reads, List.getElem_cons_succ]
      rw [ih (k + 1) i (by omega)]
      congr 1
      omega

theorem Store.reads_congr (m n : Store w) (k c : Nat) (h : ∀ i, i < c → Store.read m (k + i) = Store.read n (k + i)) :
    Store.reads m k c = Store.reads n k c := by
  refine List.ext_getElem (by simp [Store.reads_length]) fun i hi _ => ?_
  rw [Store.reads_length] at hi
  rw [Store.reads_at _ _ _ _ hi, Store.reads_at _ _ _ _ hi, h i hi]

/-- Bytes read where they were written are the bytes written. -/
theorem Store.reads_writes (m : Store w) (k : Nat) (l : List (BitVec w)) : Store.reads (Store.writes m k l) k l.length = l := by
  refine List.ext_getElem (Store.reads_length ..) fun i hi h => ?_
  rw [Store.reads_at _ _ _ _ h, Store.read_writes _ _ _ _ h]

/-- Bytes that no byte was written to read as before. -/
theorem Store.reads_writes_other (m : Store w) (k j n : Nat) (l : List (BitVec w)) (h : j + n ≤ k ∨ k + l.length ≤ j) :
    Store.reads (Store.writes m k l) j n = Store.reads m j n :=
  Store.reads_congr _ _ _ _ fun i hi => Store.read_writes_other _ _ _ _ (by omega)

theorem Tab.find_filter {α : Type} (m : Tab α) (p : Nat → Bool) (j : Nat) :
    Tab.find (m.filter fun c => p c.1) j = if p j then Tab.find m j else none := by
  induction m with
  | nil => simp
  | cons c r ih =>
    obtain ⟨a, v⟩ := c
    rw [List.filter_cons]
    dsimp only
    by_cases ha : a = j
    · subst ha
      by_cases hp : p a = true
      · simp [hp, Tab.find_cons]
      · simp only [Bool.not_eq_true] at hp
        simp only [hp, Bool.false_eq_true, if_false] at ih ⊢
        exact ih
    · split <;> simp [Tab.find_cons, ha, ih]

/-- A cleared range reads 0 and the rest reads as before. -/
theorem Store.read_clear (m : Store w) (k n j : Nat) :
    Store.read (Store.clear m k n) j = if k ≤ j ∧ j < k + n then 0 else Store.read m j := by
  have h : Store.clear m k n = m.filter fun c => (fun a => decide (a < k) || decide (k + n ≤ a)) c.1 := rfl
  unfold Store.read Tab.getD
  rw [h, Tab.find_filter m (fun a => decide (a < k) || decide (k + n ≤ a))]
  by_cases hk : k ≤ j ∧ j < k + n
  · have : (decide (j < k) || decide (k + n ≤ j)) = false := by simp; omega
    simp [this, hk]
  · have : (decide (j < k) || decide (k + n ≤ j)) = true := by simp; omega
    simp [this, hk]

end Sys2Proof

namespace Sys2Proof.Machine

/-! ## The checks at issue -/

/-- What an issue does with the outcome of the checks in a thread that is ready (R67). -/
def State.gated (s : State) (t : Thread) (q : Req) (body : Nat → Thread → State) : Gate → State
  | .pass => body s.cur t
  | .home => s.drain s.cur
  | .poison => s.consumePoison (s.block (blkOf s.cur)).ctx (s.threadRec s.cur (accTrap 0x09 0 0x0a 0 1) t.pc false)
  | .due d => s.takeDue s.cur t d
  | .trap i => s.trapAt s.cur t i
  | .deliver n i => s.trapAt s.cur { t with toks := Tab.del t.toks n } i
  | .stall x => s.stallAt s.cur t x (regsOf q.flds t)

/-- Where an issue leads: nowhere without a thread that is ready, and otherwise where the checks send it. -/
theorem issue_eq (s : State) (q : Req) (body : Nat → Thread → State) :
    s.issue q body = match s.runner with | none => .fault .noThread | some t => .next (s.gated t q body (s.gate s.cur t q)) := by
  unfold State.issue State.gated
  cases s.runner with
  | none => rfl
  | some t => dsimp only; cases s.gate s.cur t q <;> rfl

/-- An issue in a thread that is ready goes on. -/
theorem issue_next {s : State} {t : Thread} (h : s.runner = some t) (q : Req) (body : Nat → Thread → State) :
    s.issue q body = .next (s.gated t q body (s.gate s.cur t q)) := by rw [issue_eq, h]

/-! ## Waits and stalls -/

/-- What waiting leaves, where the context runs or the wait is none that a stop withdraws. -/
theorem waitAt_waits {s : State} {k : Nat} {t : Thread} (hf : Tab.find s.threads k = some t) (w : Wait) (lits : Nat) (sw : Bool)
    (hw : (w.withdrawn && s.waitsOff k t) = false) : WaitsAt s (s.waitAt k t w lits sw) k t w lits := by
  let t' : Thread := { t with status := .waiting w lits, since := s.issueClock k t, stall := none }
  have he : s.waitAt k t w lits sw = (s.setThread k t').groupDone k sw := by
    have hc : s.current k t' = t' := State.current_of_find hf rfl
    unfold State.waitAt State.putThread
    rw [if_neg (by simp [hw])]
    exact congrArg (fun x => (s.setThread k x).groupDone k sw) hc
  have h := groupDone_groupsOnly (s.setThread k t') k sw
  have hk := h.threads k
  rw [State.setThread_threads, Tab.find_put_self, Option.map_some, Option.map_eq_some_iff] at hk
  obtain ⟨u, hu, hl⟩ := hk
  have ho : OnlyThreads s ((s.setThread k t').groupDone k sw) := OnlyThreads.trans (b := s.setThread k t') rfl h.rest
  rw [he]
  refine ⟨u, hu, ?_, ho, fun j hj => ?_, BytesKept.of_only ho⟩
  · have hs : u.since = t'.since := (congrArg Thread.since hl : u.lasting.since = t'.lasting.since)
    rw [hl, hs]
  · rw [h.threads j, State.setThread_threads, Tab.find_put_other _ _ _ _ hj]

/-- What a stall in place leaves: the thread is at its instruction, with its stall, and only it and its group have changed (R65), where
the context runs or the stall is none that a stop withdraws. -/
theorem stallAt_spec {s : State} {k : Nat} {t : Thread} (hf : Tab.find s.threads k = some t) (x : StallKind) (r : List RegId)
    (hw : (x.withdrawn && s.waitsOff k t) = false) :
    (∃ n, Tab.find (s.stallAt k t x r).threads k = some { t with stall := some (x, n), held := r }) ∧ OnlyThreads s (s.stallAt k t x r) ∧
      (∀ j, j ≠ k → Tab.find (s.stallAt k t x r).threads j = Tab.find s.threads j) ∧ BytesKept s (s.stallAt k t x r) := by
  obtain ⟨n, g, e⟩ : ∃ (n : Nat) (g : Tab Group),
      s.stallAt k t x r = { s with threads := Tab.put s.threads k { t with stall := some (x, n), held := r }, groups := g } := by
    have hc : ∀ n, s.current k { t with stall := some (x, n), held := r } = { t with stall := some (x, n), held := r } :=
      fun n => State.current_of_find (t := { t with stall := some (x, n), held := r }) hf rfl
    unfold State.stallAt State.putThread
    rw [if_neg (by simp [hw])]
    simp only [hc]
    split
    · exact ⟨_, s.groups, rfl⟩
    · exact ⟨_, _, rfl⟩
  rw [e]
  have ho : OnlyThreads s { s with threads := Tab.put s.threads k { t with stall := some (x, n), held := r }, groups := g } := rfl
  exact ⟨⟨n, Tab.find_put_self ..⟩, ho, fun j hj => Tab.find_put_other _ _ _ _ hj, BytesKept.of_only ho⟩

/-! ## Traps -/

/-- Without a handler, or in one, a trap kills the context (R279). -/
theorem takeTrap_kill {s : State} {k : Nat} {t : Thread} (h : (s.ctx (s.block (blkOf k)).ctx).header.handler = 0 ∨ t.inHandler = true)
    (i : TrapInfo) (pc f : Pair) (ev : Nat) :
    s.takeTrap k t i pc f ev = s.killCtx (s.block (blkOf k)).ctx (some (s.threadRec k i pc false)) := by
  unfold State.takeTrap
  rw [if_pos (by simpa using h)]

/-- With a handler and in none, the thread enters it (R278). -/
theorem takeTrap_enter {s : State} {k : Nat} {t : Thread} (h : (s.ctx (s.block (blkOf k)).ctx).header.handler ≠ 0) (hi : t.inHandler = false)
    (i : TrapInfo) (pc f : Pair) (ev : Nat) :
    s.takeTrap k t i pc f ev = ((s.leaveGroup k).putThread k { t with
      trap := { cause := i.cause, pc := pc, addr := i.addr, detail := i.detail, mask := 0, faultPc := f, event := ev, order := t.order }
      inHandler := true
      pc := (s.ctx (s.block (blkOf k)).ctx).hdrAddr + (s.ctx (s.block (blkOf k)).ctx).header.handler.signExtend 64
      status := .ready, readyAt := s.clock, runV := [], run := 0, stall := none }).shareMask (waveKey k) ev := by
  unfold State.takeTrap
  rw [if_neg (by simpa [hi] using h)]

/-! ## Operations on their way -/

/-- A thread with nothing on its way has nothing to wait for (R248). -/
theorem drain_quiet {s : State} {k : Nat} (h : s.quiet k) : s.drain k = s := by
  have none (q : List HomeOp) (hq : ∀ x ∈ q, x.thread ≠ k) :
      (q.filter fun x => x.thread == k) = [] ∧ (q.filter fun x => !(x.thread == k)) = q :=
    ⟨List.filter_eq_nil_iff.mpr (by simpa using hq), List.filter_eq_self.mpr (by simpa using hq)⟩
  unfold State.drain State.opsOf
  rw [(none _ h.1).1, (none _ h.1).2, (none _ h.2).1, (none _ h.2).2]
  rfl

/-! ## Writes at home and translation -/

/-- Nothing but global memory, its poison and the slots of queue windows differs. -/
def MemoryOnly (s s' : State) : Prop := s' = { s with mem := s'.mem, poison := s'.poison, badWords := s'.badWords, queues := s'.queues }

theorem writeCells_memoryOnly (s : State) (l : List (Nat × Byte)) (o : Option Nat) : MemoryOnly s (s.writeCells l o) := by
  unfold MemoryOnly State.writeCells
  split
  · rfl
  · split
    · rfl
    · unfold State.cleanPoison
      dsimp only
      split <;> rfl

theorem writeMem_memoryOnly (s : State) (pa : Nat) (b : List Byte) (o : Option Nat) : MemoryOnly s (s.writeMem pa b o) :=
  writeCells_memoryOnly ..

/-- Clearing memory also ends the hold of destroyed keys on its cells (R394). -/
theorem clearMem_memoryOnly (s : State) (pa n : Nat) : MemoryOnly { s with oldKeys := (s.clearMem pa n).oldKeys } (s.clearMem pa n) := rfl

/-- A line written back or dropped: nothing but memory and the L1s differs. -/
def CachesOnly (s s' : State) : Prop :=
  s' = { s with mem := s'.mem, poison := s'.poison, badWords := s'.badWords, queues := s'.queues, l1 := s'.l1 }

theorem CachesOnly.refl (s : State) : CachesOnly s s := rfl

theorem CachesOnly.trans {a b c : State} (h : CachesOnly a b) (k : CachesOnly b c) : CachesOnly a c := by
  unfold CachesOnly at *
  rw [k, h]

theorem MemoryOnly.caches {s s' : State} (h : MemoryOnly s s') : CachesOnly s s' := by
  unfold MemoryOnly at h
  unfold CachesOnly
  rw [h]

theorem l1Write_cachesOnly (s : State) (k : Nat) : CachesOnly s (s.l1Write k) := by
  unfold State.l1Write
  split
  · rfl
  · split
    · rfl
    · next l _ _ => exact CachesOnly.trans (writeCells_memoryOnly s (l.dirtyCells (k % 2 ^ 35 * 64)) none).caches rfl

theorem l1Drop_cachesOnly (s : State) (k : Nat) : CachesOnly s (s.l1Drop k) := CachesOnly.trans (l1Write_cachesOnly s k) rfl

theorem foldl_cachesOnly {β : Type} (f : State → β → State) (hf : ∀ s x, CachesOnly s (f s x)) (l : List β) (s : State) :
    CachesOnly s (l.foldl f s) := by
  induction l generalizing s with
  | nil => rfl
  | cons x r ih => exact CachesOnly.trans (hf s x) (ih _)

theorem l1Flush_cachesOnly (s : State) (c a : Nat) : CachesOnly s (s.l1Flush c a) := foldl_cachesOnly _ l1Write_cachesOnly _ _
theorem l1Invalidate_cachesOnly (s : State) (c a : Nat) : CachesOnly s (s.l1Invalidate c a) := foldl_cachesOnly _ l1Drop_cachesOnly _ _
theorem l1FlushCores_cachesOnly (s : State) (a : Nat) (p : Nat → Bool) : CachesOnly s (s.l1FlushCores a p) :=
  foldl_cachesOnly _ l1Write_cachesOnly _ _
theorem dropEverywhere_cachesOnly (s : State) (pa n : Nat) : CachesOnly s (s.dropEverywhere pa n) := foldl_cachesOnly _ l1Drop_cachesOnly _ _

theorem acquire_cachesOnly (s : State) (k : Nat) (f : Scope) : CachesOnly s (s.acquire k f) := by
  unfold State.acquire
  split
  · exact l1Invalidate_cachesOnly ..
  · rfl

theorem l1Read_cachesOnly (s : State) (c a pa n : Nat) : CachesOnly s (s.l1Read c a pa n).1 := by
  unfold State.l1Read
  split
  · rfl
  · split <;> rfl

/-- A translation: nothing but memory, for the marks in the leaf entry, and the cached translations differs (R235, R237). -/
def WalkOnly (s s' : State) : Prop :=
  s' = { s with mem := s'.mem, poison := s'.poison, badWords := s'.badWords, queues := s'.queues, tlb := s'.tlb }

theorem WalkOnly.refl (s : State) : WalkOnly s s := rfl

theorem MemoryOnly.walk {s s' : State} (h : MemoryOnly s s') (t : List TlbEntry) : WalkOnly s { s' with tlb := t } := by
  unfold MemoryOnly at h
  unfold WalkOnly
  rw [h]

theorem translate_walkOnly (s : State) (g : Agent) (va : Nat) (n : Need) : WalkOnly s (s.translate g va n).1 := by
  have hw : ∀ (at_ : Nat) (e e2 : BitVec 64) (t : List TlbEntry),
      WalkOnly s { (if e2 = e then s else s.writeMem at_ (bytesOf 8 e2)) with tlb := t } := fun at_ e e2 t => by
    split
    · rfl
    · exact (writeMem_memoryOnly s at_ (bytesOf 8 e2) none).walk t
  have hl : ∀ root : Option Nat, WalkOnly s (match root with
      | none => (s, if s.keyless g.asid then Xlate.keyless else Xlate.prot 0x01)
      | some root =>
        match s.walkFrom va 3 root with
        | .unmapped => (s, .prot 0x01)
        | .malformed => (s, .malformed)
        | .poison at_ => (s, .poison (stackOf at_ / 4))
        | .lost => (s, .prot 0x0b)
        | .leaf at_ e bits =>
          let x := s.leafCheck e bits va n
          let done := match x with | .ok _ => true | .accord _ _ => true | _ => false
          if done then
            let e2 := e ||| 0x100 ||| (if n.w then 0x200 else 0)
            let s := if e2 = e then s else s.writeMem at_ (bytesOf 8 e2)
            let t : TlbEntry := { core := g.core, asid := g.asid, page := va / 2 ^ bits * 2 ^ bits, bits := bits, entry := e2 }
            ({ s with tlb := t :: s.tlb.filter fun u => !decide (u.core = g.core ∧ u.asid = g.asid ∧ u.page = t.page) }, x)
          else (s, x)).1 := fun root => by
    cases root with
    | none => rfl
    | some root =>
      dsimp only
      cases s.walkFrom va 3 root with
      | leaf at_ e bits =>
        dsimp only
        cases s.leafCheck e bits va n <;> first
          | exact WalkOnly.refl s
          | exact hw at_ e (e ||| 0x100 ||| (if n.w then 0x200 else 0)) _
      | _ => rfl
  unfold State.translate
  split
  · rfl
  · exact hl _

theorem locate_walkOnly (s : State) (g : Agent) (a n al : Nat) (d : Need) (host : Bool) : WalkOnly s (s.locate g a n al d host).1 := by
  unfold State.locate
  cases s.window g a n with
  | none => rfl
  | some w =>
    dsimp only
    split
    · rfl
    · cases w with
      | place p => rfl
      | glob va =>
        dsimp only
        cases s.imageAt g.asid va with
        | some x => dsimp only; split <;> rfl
        | none =>
          have h' := translate_walkOnly s g va d
          dsimp only
          generalize s.translate g va d = r at h'
          obtain ⟨s', x⟩ := r
          dsimp only
          split
          · split <;> exact h'
          · exact h'

end Sys2Proof.Machine
end

