-- ==== Sys2Proof/Tests/Slice0.lean ====
section
/-!
SUPPORT. Tests: well-formedness, decoding, and for every statement a state and operands that meet its hypotheses together.  Expected
words and values come from the samples and tables of the spec.
-/
namespace Sys2Proof.Tests

set_option Elab.async false

open Sys2Proof Sys2Proof.Machine

/-! ## Well-formedness: an ill-formed term for each check -/

/-- Table 5-3: the exact conversions take f = 0 only. -/
theorem test_wf_cvt : [Instr.cvt (.v 0) (.v 2) .bf16f32 .rz false, .cvt (.v 0) (.v 2) .e4m3f32 .ru false, .cvt (.v 0) (.v 2) .e5m2f32 .rd false].all
    (fun i => !i.wf) = true := by decide

/-- R110: b is used by `copysign` alone. -/
theorem test_wf_fsgn : (Instr.fsgn (.v 0) (.v 1) (.v 2) .neg false).wf = false := by decide

/-- R126: `elect` uses no a. -/
theorem test_wf_vote : (Instr.vote (.v 0) (.v 1) .elect false).wf = false := by decide

/-- R120: clr is valid with code 0x10 only. -/
theorem test_wf_rdsr : (Instr.rdsr (.v 0) .lane true false).wf = false := by decide

/-- R249, R250: no promotion in `stl` and a releasing fence. -/
theorem test_wf_release : [Instr.stl (.v 0) (.v 2) .z .diepro false, .stl (.v 0) (.v 2) .z .devpro false, .fenceRel .diepro false,
    .fenceRel .devpro false].all (fun i => !i.wf) = true := by decide

/-! ## Decoding -/

/-- Each word is the first word of the instruction beside it. -/
def reads (l : List (Nat × Instr)) : Bool := l.all fun e => decide (decodeTableWord 32 e.1 = some e.2)

/-- Words that decode to an instruction with literals. -/
def readsWords (l : List Word) (i : Instr) : Bool :=
  match decode (wordsBytes l) with
  | .ok x => decide (x = (i, []))
  | .error _ => false

/-- Words with literals, and reserved words. -/
theorem test_decode_literals :
    readsWords [0x1C03E7E0, 0x00000000, 0xF0000000] (.add64 (.v 0) .z (.lit64 0xF000000000000000) .add false) = true ∧
    readsWords [0xC1F3FFC0, 0xFFFFFFFF] (.pbind (.lit32 0xFFFFFFFF) .z false) = true ∧
    readsWords [0xCBF3F840, 0xB3333333] (.pctlDraw .z (.lit32 0xB3333333) false) = true ∧
    decodeTableWord 32 0xAFF3E7C0 = none ∧ decodeTableWord 32 0x5E000000 = none := by decide

/-- Eight facts in front of others. -/
theorem join8 {a b c d e f g h r : Prop} (l : a ∧ b ∧ c ∧ d ∧ e ∧ f ∧ g ∧ h) (k : r) : a ∧ b ∧ c ∧ d ∧ e ∧ f ∧ g ∧ h ∧ r :=
  ⟨l.1, l.2.1, l.2.2.1, l.2.2.2.1, l.2.2.2.2.1, l.2.2.2.2.2.1, l.2.2.2.2.2.2.1, l.2.2.2.2.2.2.2, k⟩

/-- Words of the spec's samples and of its tables: integer. -/
theorem test_decode_integer : reads [
  (0x020C0801, .iadd (.v 3) (.v 1) (.v 0) true),
  (0x04143070, .isub (.v 5) (.v 6) (.v 7) false),
  (0x06143075, .imul (.v 5) (.v 6) (.v 7) .hin true),
  (0x08143072, .imad (.v 5) (.v 6) (.v 7) .w64 false),
  (0x0A143076, .imnx (.v 5) (.v 6) (.v 7) .nmax false),
  (0x0C143072, .and (.v 5) (.v 6) (.v 7) true false),
  (0x0E143070, .or (.v 5) (.v 6) (.v 7) false false),
  (0x10143073, .xor (.v 5) (.v 6) (.v 7) true true),
  (0x12143070, .shl (.v 5) (.v 6) (.v 7) false),
  (0x14143072, .shr (.v 5) (.v 6) (.v 7) true false),
  (0x16143072, .bfx (.v 5) (.v 6) (.v 7) true false),
  (0x18143070, .bfi (.v 5) (.v 6) (.v 7) false),
  (0x1A1437C6, .bits (.v 5) (.v 6) .brev false),
  (0x1C143078, .add64 (.v 5) (.v 6) (.v 7) .x16 false),
  (0x1E03FFFA, .movi (.v 0) (-3) false),
  (0x00000001, .nop true)] = true := by decide

/-- Words of the spec's samples and of its tables: float. -/
theorem test_decode_float : reads [
  (0x202C5990, .fadd (.v 11) (.v 11) (.v 25) .rn false),
  (0x22605170, .fsub (.v 24) (.v 10) (.v 23) .rn false),
  (0x242C5980, .fmul (.v 11) (.v 11) (.v 24) .rn false),
  (0x26B962D0, .ffma (.v 46) (.v 44) (.v 45) .rn false),
  (0x285C5162, .fmnx (.v 23) (.v 10) (.v 22) .max false),
  (0x2A1437C4, .frcp (.v 5) (.v 6) .rsqrt false),
  (0x2C60C7C0, .fex (.v 24) (.v 24) .exp2 false),
  (0x2E143076, .fscl (.v 5) (.v 6) (.v 7) .rd false),
  (0x301437C0, .fcls (.v 5) (.v 6) false),
  (0x32143072, .bfadd (.v 5) (.v 6) (.v 7) .rz false),
  (0x34143074, .bfmul (.v 5) (.v 6) (.v 7) .ru false),
  (0x36143076, .bffma (.v 5) (.v 6) (.v 7) .rd false),
  (0x38143072, .fdot2 (.v 5) (.v 6) (.v 7) .rz false),
  (0x3A5CB9D0, .fdiv (.v 23) (.v 23) (.v 29) .rn false),
  (0x3C143074, .fsgn (.v 5) (.v 6) (.v 7) .copysign false),
  (0x3E1437C6, .frnd (.v 5) (.v 6) .floor false)] = true := by decide

/-- Words of the spec's samples and of its tables: lane. -/
theorem test_decode_lane : reads [
  (0x401430C6, .cvt (.v 5) (.v 6) .f32e5m2 .rd false),
  (0x4214307E, .icmp (.v 5) (.v 6) (.v 7) .len false),
  (0x4414307C, .fcmp (.v 5) (.v 6) (.v 7) .un false),
  (0x46143072, .sel (.v 5) (.v 6) (.v 7) true false),
  (0x48143076, .shfl (.v 5) (.v 6) (.v 7) .xor false),
  (0x4A1437C4, .vote (.v 5) (.v 6) .ballot false),
  (0x4C1437CE, .wred (.v 5) (.v 6) .xor false),
  (0x4E6857C5, .fwred (.v 26) (.v 10) .max true),
  (0x501437C6, .wscn (.v 5) (.v 6) .excor false),
  (0x5203E130, .rdsr (.v 0) .args false false),
  (0x55C037C0, .kset (.k 0) (.v 6) false false),
  (0x56143070, .prm (.v 5) (.v 6) (.v 7) false),
  (0x582847C0, .mov (.v 10) (.v 8) .w32 false),
  (0x5A143076, .idiv (.v 5) (.v 6) (.v 7) .nr false),
  (0x5C1437C4, .iabs (.v 5) (.v 6) .sgn false)] = true := by decide

/-- Words of the spec's samples and of its tables: memory. -/
theorem test_decode_memory : reads [
  (0x603867C9, .ld (.v 14) (.v 12) .z .b32 true),
  (0x6248A7C8, .st (.v 18) (.v 20) .z .b32 false),
  (0x642827C8, .lda (.v 10) (.v 4) .z .device false),
  (0x662827C8, .stl (.v 10) (.v 4) .z .device false),
  (0x6814307E, .atom (.v 5) (.v 6) (.v 7) .xchg false),
  (0x6A3020E0, .cas (.v 12) (.v 4) (.v 14) false false),
  (0x6DF020E0, .fxadd (.v 4) (.v 14) false),
  (0x6E3C27C0, .fxrd (.v 15) (.v 4) false false),
  (0x70403080, .bnk (.v 16) (.v 6) (.v 8) .iadd false),
  (0x73F3E008, .fenceAcqrel .device false),
  (0x73F3E01E, .fenceAcq .devpro false),
  (0x73F3E02A, .fenceRel .system false),
  (0x74B000C0, .ldb (.v 44) (.v 0) (.v 12) false)] = true := by decide

/-- Words of the spec's samples and of its tables: cache. -/
theorem test_decode_cache : reads [
  (0x77F02000, .cctlWb (.v 4) false),
  (0x77F02010, .cctlWbinv (.v 4) false),
  (0x77F02020, .cctlWball (.v 4) false),
  (0x77F02030, .cctlWbinvall (.v 4) false),
  (0x77F02080, .cctlPf1 (.v 4) false),
  (0x77F02090, .cctlPf2 (.v 4) false),
  (0x76143100, .cctlCreset (.v 5) (.v 6) false),
  (0x79C027C0, .ldk (.k 0) (.v 4) .z false false),
  (0x7A3020E0, .atom64 (.v 12) (.v 4) (.v 14) .add false)] = true := by decide

/-- Words of the spec's samples and of its tables: control. -/
theorem test_decode_control : reads [
  (0x8037FFF3, .bnz (.v 13) (-7)),
  (0x8238001D, .bz (.v 14) 14),
  (0x85FFFFE5, .jmp (-14)),
  (0x861BFFFF, .call (.v 6) (-1)),
  (0x89F037C1, .jind (.v 6)),
  (0x8A2037C1, .calli (.v 8) (.v 6)),
  (0x8DF037C1, .ret (.v 6)),
  (0x8FF3E7C1, .land true),
  (0x91F03631, .join (.v 6) 99),
  (0x93F3E0F1, .barSync 15),
  (0x93F3E033, .barArr 3),
  (0x93F3E035, .barWt 3),
  (0x95F3E0F1, .gbarSync 15),
  (0x95F3E003, .gbarArr 0),
  (0x95F3E005, .gbarWt 0),
  (0x97F3E7C1, .exit),
  (0x99F3E7F1, .trap 127),
  (0x9BF3E7C1, .brk),
  (0x9DF3E7C1, .yld),
  (0x9FF3E031, .waitAll .ports),
  (0x9FF03043, .waitGe (.v 6) .bank)] = true := by decide

/-- Words of the spec's samples and of its tables: engines. -/
theorem test_decode_engines : reads [
  (0xA0143078, .mma (.v 5) (.v 6) (.v 7) .ck false),
  (0xA2202060, .cpy (.v 8) (.v 4) (.v 6) false),
  (0xA4143070, .cpym (.v 5) (.v 6) (.v 7) false),
  (0xA6143070, .ringInit (.v 5) (.v 6) (.v 7) false),
  (0xA6143072, .ringArrive (.v 5) (.v 6) (.v 7) false),
  (0xA6143074, .ringWait (.v 5) (.v 6) (.v 7) false),
  (0xA6143076, .ringRelease (.v 5) (.v 6) (.v 7) false),
  (0xA81437C2, .mck (.v 5) (.v 6) true false),
  (0xAA7BE010, .tlrd (.v 30) .matrix false),
  (0xAC143072, .spawn (.v 5) (.v 6) (.v 7) true false),
  (0xAFF3E7C1, .phend),
  (0xB617E7C0, .mfillZero (.v 5) false),
  (0xB61437C2, .mfillSet (.v 5) (.v 6) false)] = true := by decide

/-- Words of the spec's samples and of its tables: fabric. -/
theorem test_decode_fabric : reads [
  (0xB0143070, .putWin (.v 5) (.v 6) (.v 7) false),
  (0xB01437C2, .putLaunch (.v 5) (.v 6) false),
  (0xB2143070, .get (.v 5) (.v 6) (.v 7) false),
  (0xB41437C0, .wcntRdo (.v 5) (.v 6) false),
  (0xB41437C2, .wcntRdt (.v 5) (.v 6) false),
  (0xB4143074, .wcntWto (.v 5) (.v 6) (.v 7) false),
  (0xB4143076, .wcntWtt (.v 5) (.v 6) (.v 7) false)] = true := by decide

/-- Words of the spec's samples and of its tables: population. -/
theorem test_decode_population : reads [
  (0xC1F05020, .pbind (.v 10) (.v 2) false),
  (0xC3F05FC0, .wadd (.v 11) false),
  (0xC44BE7C2, .wrd (.v 18) true false),
  (0xC643E7C3, .parv (.v 16) .ess),
  (0xC853E020, .pst (.v 20) .z false),
  (0xCBF3E000, .pctlItend .z false),
  (0xCA17E010, .pctlKill (.v 5) false),
  (0xCA143020, .pctlTheta (.v 5) (.v 6) false),
  (0xCA143040, .pctlDraw (.v 5) (.v 6) false),
  (0xCA17E050, .pctlUndraw (.v 5) false),
  (0xCC5087C0, .rng (.v 20) (.v 16) false false),
  (0xCE47E7C2, .ppar (.v 17) true false)] = true := by decide

/-- Words of the spec's samples and of its tables: sillage. -/
theorem test_decode_sillage : reads [
  (0xD0143070, .scfgMeth (.v 5) (.v 6) (.v 7) false),
  (0xD0143072, .scfgStart (.v 5) (.v 6) (.v 7) false),
  (0xD017E7C4, .scfgClose (.v 5) false),
  (0xD017E076, .scfgStop (.v 5) (.v 7) false),
  (0xD21017C1, .seval (.v 4) (.v 2) true),
  (0xD423E7C2, .sst (.v 8) .z true false),
  (0xD65087C2, .mld (.v 20) (.v 16) true false),
  (0xD9F08082, .mst (.v 16) (.v 8) true false),
  (0xDA288080, .mcas (.v 10) (.v 16) (.v 8) false false),
  (0xDC6087C1, .mtag (.v 24) (.v 16) true)] = true := by decide

/-- Words of the spec's samples and of its tables: system. -/
theorem test_decode_system : reads [
  (0xE1F037C2, .winb (.v 6) true false),
  (0xE21437C3, .racq (.v 5) (.v 6) true),
  (0xE41437C0, .rrel (.v 5) (.v 6) false),
  (0xE617E260, .sysr (.v 5) .faultPc false),
  (0xE9F01210, .sysw (.v 2) .pc false),
  (0xEBF3E7C1, .eret),
  (0xEC17E001, .syscVersion (.v 5)),
  (0xEC143011, .syscPost (.v 5) (.v 6)),
  (0xEC143021, .syscPrefault (.v 5) (.v 6)),
  (0xEE143000, .dbgxQuery (.v 5) (.v 6) false),
  (0xEE143010, .dbgxNotify (.v 5) (.v 6) false),
  (0xEE143020, .dbgxStop (.v 5) (.v 6) false)] = true := by decide

/-! ## States and operands that meet the statements' hypotheses -/

/-- The checks of `Issues`, evaluated. -/
def issuesB (s : State) (t : Thread) (q : Req) : Bool :=
  decide (s.runner = some t) && !s.doomed s.cur && decide (t.dueNow = none) && !q.illegal && decide (q.role &&& ~~~(s.wave s.cur).roles = 0) &&
  q.flds.all (fun f => f.legal t.wb.toNat (s.allocAt s.cur) && (f.regs t.wb.toNat).all fun r => decide (tokenOf t.toks r = none) && !t.runV.contains r) &&
  !s.accordHeld s.cur q && !t.readsBad (s.wave s.cur) q

theorem issues_of {s : State} {t : Thread} {q : Req} (h : issuesB s t q = true) : Issues s t q := by
  simp only [issuesB, Bool.and_eq_true, decide_eq_true_eq, Bool.not_eq_true', List.all_eq_true] at h
  obtain ⟨⟨⟨⟨⟨⟨⟨h1, h2⟩, h3⟩, h4⟩, h5⟩, h6⟩, h7⟩, h8⟩ := h
  exact ⟨h1, h2, h3, h4, h5, fun f hf => (h6 f hf).1, fun f hf r hr => ((h6 f hf).2 r hr).1,
    fun f hf r hr => by simpa using ((h6 f hf).2 r hr).2, h7, h8⟩

/-- An answer that is a place. -/
def isPlace (x : Except Stop Place) (p : Place) : Bool :=
  match x with
  | .ok q => decide (q = p)
  | .error _ => false

/-- A location answer whose place is known, with the state that it leaves. -/
theorem located {s : State} {g : Agent} {a n al : Nat} {d : Need} {h : Bool} {p : Place} (e : isPlace (s.locate g a n al d h).2 p = true) :
    s.locate g a n al d h = ((s.locate g a n al d h).1, .ok p) := Prod.ext rfl (by
  generalize (s.locate g a n al d h).2 = x at e
  cases x with
  | ok q => rw [show q = p by simpa [isPlace] using e]
  | error _ => cases e)

/-- Registers of the thread under test: v0:v1 the address of a readable and writable page, v2:v3 the code, v4 to v7 numbers, v8:v9 the
own scratchpad. -/
def regs0 : Store 32 := Store.writes (w := 32) [] 0 [0x10000, 0x80, 0, 0x80, 0x80000000, 0x7FFFFFFF, 3, 0xFFFFFFFF, 0, 0xF0000000]

/-- The thread under test. -/
def thr : Thread := newThread 0x80_0000_0040 regs0 0 0

/-- A module that runs one thread, with its code page and a page that it may read and write, both translated before. -/
def base : State :=
  let s := State.reset.placed []
  { s with agenda := [], mem := Store.writes (w := 8) s.mem 0x40_2008 (natBytes 8 0x60_033f),
           tlb := [{ core := 0, asid := 1, page := 0x80_0000_0000, bits := 16, entry := 0x50_032f },
                   { core := 0, asid := 1, page := 0x80_0001_0000, bits := 16, entry := 0x60_033f }] }

/-- That module with thread `t` in place of its thread. -/
def at_ (t : Thread) : State := { base with threads := [(1024, t)] }

/-- The module with the thread under test. -/
def st : State := at_ thr

/-- Another thread of its wave, in another lane. -/
def two (t u : Thread) : State := { base with threads := [(1024, t), (1025, u)] }

theorem test_meets_StepRunsDecoded :
    let s : State := { base with agenda := [.issue 1], threads := [(1024, thr)], mem := Store.writes (w := 8) base.mem 0x50_0040 (bytesOf 4 (0x1E03FFFA : Word)) }
    let s1 : State := { s with clock := s.clock + 1, agenda := [] }
    s.agenda = .issue 1 :: [] ∧ s.groupThread 1 = some (1024, thr) ∧ (Tab.find s.groups 1).any (s1.mayIssue 1) = true ∧ thr.dueBefore = none ∧
      (match State.fetch { s1.takeTurn 1 with cur := 1024 } 1024 thr.pc.toNat with
        | (_, .ok (.ok i)) => decide (i = .movi (.v 0) (-3) false) | _ => false) = true := by decide +kernel

theorem test_meets_UndecodableTraps :
    let s : State := { base with agenda := [.issue 1], threads := [(1024, thr)], mem := Store.writes (w := 8) base.mem 0x50_0040 (bytesOf 4 (0x5E000000 : Word)) }
    let s1 : State := { s with clock := s.clock + 1, agenda := [] }
    s.agenda = .issue 1 :: [] ∧ s.groupThread 1 = some (1024, thr) ∧ (Tab.find s.groups 1).any (s1.mayIssue 1) = true ∧ thr.dueBefore = none ∧
      (match State.fetch { s1.takeTurn 1 with cur := 1024 } 1024 thr.pc.toNat with
        | (_, .ok (.error _)) => true | _ => false) = true := by decide +kernel

/-- The lowest and the highest of the opcodes that have no instruction. -/
theorem test_meets_ReservedOpcodes : (0x5E000000 : Word).op.toNat = 0x2f ∧ (0xFFFFFFFF : Word).op.toNat = 0x7f := by decide

/-- Each check of R67 at its first failing value. -/
theorem test_meets_IssueChecks :
    let q := Req.any [fd (.v 0) 1, fa (.v 1) 1]
    let pending : Thread := { thr with toks := [(1, .pending)] }
    let faulted : Thread := { thr with toks := [(1, .faulted trapIllegal 0)] }
    let busyV : Thread := { thr with runV := [.v 1] }
    let busyK : Thread := { thr with runV := [.k 3] }
    let onToken : Thread := { pending with stall := some (.token, 0), readyAt := 0 }
    let badV : Thread := { thr with bad := [1] }
    let inAccord : AccordOp := { asid := 1, core := 0, thread := 1024, sent := false, set := 0, line := 0, off := 0, order := 0, writer := 0, bytes := [], expect := some 0, va := 0 }
    let heldSt : State := { st with accordQ := [inAccord] }
    let free := fun (t : Thread) => (at_ t).runner = some t ∧ (at_ t).doomed (at_ t).cur = false ∧ t.dueNow = none
    (free thr ∧ free pending ∧ free faulted ∧ free busyV ∧ free busyK ∧ free onToken ∧ free badV) ∧
    -- illegal; a missing role; field a at fault after a legal field d
    ({ q with illegal := true } : Req).illegal = true ∧
    ((4 : BitVec 3) &&& ~~~(({ st with waves := [(32, { probeWave with roles := 3 })] } : State).wave 1024).roles ≠ 0) ∧
    (fd (.v 0) 1).legal 0 512 = true ∧ (fa (.v 1) 2).legal 0 512 = false ∧
    -- tokens and hazards in the first register that has one
    tokenOf pending.toks (.v 1) = some (1, .pending) ∧ tokenOf pending.toks (.v 0) = none ∧
    tokenOf faulted.toks (.v 1) = some (1, .faulted trapIllegal 0) ∧ tokenOf faulted.toks (.v 0) = none ∧
    (RegId.v 0 ∉ busyV.runV ∧ RegId.v 1 ∈ busyV.runV) ∧ (fa (.k 3) 1).regs 0 = [.k 3] ∧ RegId.k 3 ∈ busyK.runV ∧
    -- a thread that already waits for a token; an `mcas` on its way; a poisoned register; nothing
    onToken.onToken q = true ∧ pending.onToken q = false ∧ thr.onToken q = false ∧
    heldSt.runner = some thr ∧ heldSt.doomed heldSt.cur = false ∧ heldSt.accordHeld heldSt.cur q = true ∧
    (at_ badV).accordHeld 1024 q = false ∧ badV.readsBad (st.wave 1024) q = true ∧ thr.readsBad (st.wave 1024) q = false ∧
    issuesB st thr q = true := by decide +kernel

theorem test_meets_HandlerEntry :
    Tab.find st.threads 1024 = some thr ∧ (st.ctxOf 1024).header.handler ≠ 0 ∧ thr.inHandler = false := by decide +kernel

/-- A context without a handler, and a thread in its handler; a fault record queue with room, and the event log with room. -/
theorem test_meets_TrapKills :
    let bare : Ctx := { probeCtx with header := { probeHeader with handler := 0 } }
    Tab.find st.threads 1024 = some thr ∧ Tab.find st.ctxs (st.block (blkOf 1024)).ctx = some probeCtx ∧ blkOf 1024 ∈ probeCtx.blocks ∧
    Tab.find ({ st with ctxs := [(1, bare)] } : State).ctxs 1 = some bare ∧ blkOf 1024 ∈ bare.blocks ∧ bare.header.handler = 0 ∧
    ({ thr with inHandler := true } : Thread).inHandler = true ∧
    (let q : FaultQ := { base := 0x70_0000, k := 6, append := 63, consumed := 0 }
     let s : State := { st with faultQ := [(0, q)] }
     Tab.find s.faultQ (s.liveDie bare.die) = some q ∧ Tab.getD s.recWait (s.liveDie bare.die) [] = [] ∧ q.append - q.consumed < 2 ^ q.k) ∧
    Tab.find st.launches bare.launch = some probeLaunch ∧ st.host.evPosted.toNat - st.host.evAck.toNat < 256 := by decide +kernel

/-- The thread under test is in no handler and waits for nothing. -/
theorem test_meets_HandlerOnly :
    st.runner = some thr ∧ st.doomed st.cur = false ∧ thr.dueNow = none ∧ thr.stall = none ∧ thr.inHandler = false := by decide +kernel

/-- A thread in its handler. -/
def inside : Thread := { thr with inHandler := true, trap := { TrapRegs.zero with cause := 0x11, pc := 0x80_0000_0050, faultPc := 0x80_0000_004C } }

theorem test_meets_EretReturns : Issues (at_ inside) inside (Req.any []) ∧ inside.inHandler = true :=
  ⟨issues_of (by decide +kernel), by decide⟩

/-- A register destination and one that discards; a count of 32. -/
theorem test_meets_IntegerTwoSources :
    Issues st thr (Req.any [fd (.v 0) 1, fa (.v 4) 1, fb (.lit32 32) 1]) ∧ Issues st thr (Req.any [fd .z 1, fa .z 1, fb (.lit32 31) 1]) :=
  ⟨issues_of (by decide +kernel), issues_of (by decide +kernel)⟩

/-- A field at the top of the register, and one of width 0; inserting the one bit. -/
theorem test_meets_BitFields :
    Issues st thr (Req.any [fd (.v 6) 1, fa (.v 4) 1, fb (.lit32 0x3F1F) 1]) ∧ Issues st thr (Req.any [fdr (.v 6) 1, fa (.v 4) 1, fb .z 1]) ∧
    let x := (Src.v 7).get32 st 1024 thr
    let pos := 0x3F1F % 32
    let wid := min (0x3F1F / 256 % 64) (32 - pos)
    pos = 31 ∧ wid = 1 ∧ ∀ i, i < 32 → (0x80000003 : Word).getLsbD i = if pos ≤ i ∧ i < pos + wid then x.getLsbD (i - pos) else ((Dst.v 6).get32 thr).getLsbD i :=
  ⟨issues_of (by decide +kernel), issues_of (by decide +kernel), by decide +kernel⟩

/-- Zero has 32 leading and trailing zeros, a word with its top bit set none. -/
theorem test_meets_OneSource :
    Issues st thr (Req.any [fd (.v 0) 1, fa (.v 4) 1]) ∧ Issues st thr (Req.any [fd (.v 0) 1, fa .z 1]) ∧ Issues st thr (Req.any [fc (.v 0) 1]) ∧
    Issues st thr (Req.any []) ∧
    (let x := Src.z.get32 st 1024 thr
     (∀ j, 32 - 32 ≤ j → j < 32 → x.getLsbD j = false) ∧ ∀ j, j < 32 → (0 : Word).getLsbD (31 - j) = x.getLsbD j) ∧
    (let x := (Src.v 4).get32 st 1024 thr
     x.getLsbD (31 - 0) = true ∧ (∀ j, j < 31 → x.getLsbD j = false) ∧ x.getLsbD 31 = true ∧
       ∀ j, j < 32 → (1 : Word).getLsbD (31 - j) = x.getLsbD j) :=
  ⟨issues_of (by decide +kernel), issues_of (by decide +kernel), issues_of (by decide +kernel), issues_of (by decide +kernel),
    ⟨fun j _ h => (by decide +kernel : ∀ j, j < 32 → (Src.z.get32 st 1024 thr).getLsbD j = false) j h, by decide +kernel⟩, by decide +kernel⟩

theorem test_meets_WideArithmetic :
    Issues st thr (Req.any [fdr (.v 0) 1, fa (.v 4) 1, fb (.v 7) 1]) ∧ Issues st thr (Req.any [fdr (.v 2) 2, fa (.v 4) 1, fb (.v 7) 1]) ∧
    Issues st thr (Req.any [fd (.v 0) 2, fa (.v 0) 2, fb (.lit32 0x80000000) 2]) :=
  ⟨issues_of (by decide +kernel), issues_of (by decide +kernel), issues_of (by decide +kernel)⟩

/-- A zero divisor, and the quotient that overflows. -/
theorem test_meets_IntegerDivision :
    Issues st thr (Req.any [fd (.v 0) 1, fa (.v 4) 1, fb .z 1]) ∧ Src.z.get32 st 1024 thr = 0 ∧
    Issues st thr (Req.any [fd (.v 0) 1, fa (.v 4) 1, fb (.v 7) 1]) ∧ (Src.v 4).get32 st 1024 thr = 0x80000000 ∧
    (Src.v 7).get32 st 1024 thr = 0xFFFFFFFF :=
  ⟨issues_of (by decide +kernel), by decide +kernel, issues_of (by decide +kernel), by decide +kernel⟩

/-- `prm` with a selector of each kind: bytes 3 of a and b, and the sign of the latter. -/
theorem test_meets_SelectMovePermute :
    Issues st thr (Req.any [fdr (.v 6) 1, fa (.v 4) 1, fb (.v 5) 1]) ∧ Issues st thr (Req.any [fdr (.v 0) 2, fa (.v 0) 2, fb (.v 2) 2]) ∧
    Issues st thr (Req.any [fd (.v 0) 1, fa (.v 4) 1]) ∧ Issues st thr (Req.any [fd (.v 0) 2, fa (.lit32 7) 2]) ∧
    Issues st thr (Req.any [fd (.v 0) 4, fa (.v 4) 4]) ∧
    (let d : Word := 0xF873
     let ab : Pair := 0x7FFFFFFF80000000
     ∀ j, j < 4 →
      let sel := d.toNat / 16 ^ j % 16
      let x := (ab.toNat / 256 ^ (sel % 8)) % 256
      (0x0000_7F80 : Word).toNat / 256 ^ j % 256 = if sel < 8 then x else if 128 ≤ x then 255 else 0) :=
  ⟨issues_of (by decide +kernel), issues_of (by decide +kernel), issues_of (by decide +kernel), issues_of (by decide +kernel),
    issues_of (by decide +kernel), by decide +kernel⟩

/-- The largest finite number and an infinity. -/
theorem test_meets_RoundingExact : (fp32 0x7F7FFFFF).isNan = false ∧ (fp32 0xFF800000).isNan = false ∧ (fp32 0).isNan = false := by decide

/-- The largest sum of finite numbers that is still finite, and the smallest product. -/
theorem test_meets_ExactArithmetic :
    (fp32 0x7F7FFFFE).isFin = true ∧ (fp32 0x73800000).isFin = true ∧ (fp32 1).isFin = true ∧
    ((fpUnits 0x7F7FFFFE + fpUnits 0x73800000) * 2 ^ 149).natAbs ≤ (2 ^ 24 - 1) * 2 ^ 402 ∧
    (fpUnits 1 * fpUnits 1).natAbs ≤ (2 ^ 24 - 1) * 2 ^ 402 ∧ fpUnits 1 * fpUnits 1 ≠ 0 := by decide +kernel

/-- Infinities of both signs, a divisor of zero, and the smallest magnitude that overflows. -/
theorem test_meets_FloatSpecialCases : true ≠ false ∧ (1 : Nat) ≠ 0 ∧ (128 : Int) + bitlen 1 > 128 := by decide

/-- No glitch, the vector role. -/
theorem test_meets_FloatNow :
    Tab.find st.glitches (st.partOf st.cur) = none ∧ Issues st thr (Req.vector [fd (.v 0) 1, fa (.v 4) 1, fb (.v 7) 1]) ∧
    Issues st thr (Req.vector [fdr (.v 0) 1, fa (.v 4) 1, fb (.v 7) 1]) ∧ Issues st thr (Req.vector [fd (.v 0) 1, fa (.v 4) 1]) :=
  ⟨by decide +kernel, issues_of (by decide +kernel), issues_of (by decide +kernel), issues_of (by decide +kernel)⟩

theorem test_meets_FloatLateResults :
    Tab.find st.glitches (st.partOf st.cur) = none ∧ Issues st thr (Req.vector [fd (.v 0) 1, fa (.v 4) 1, fb .z 1]) ∧
    Issues st thr (Req.vector [fd (.v 0) 1, fa .z 1]) :=
  ⟨by decide +kernel, issues_of (by decide +kernel), issues_of (by decide +kernel)⟩

/-- Infinity less infinity under a header that enables IV. -/
theorem test_meets_FloatTrapDue :
    let s : State := { st with ctxs := [(1, { probeCtx with header := { probeHeader with trapEn := 1 } })] }
    Issues s thr (Req.vector [fd (.v 0) 1, fa (.lit32 0x7F800000) 1, fb (.lit32 0xFF800000) 1]) ∧
    Tab.find s.glitches (s.partOf s.cur) = none ∧ thr.inHandler = false ∧
    (s.ctxOf s.cur).header.trapEn.zeroExtend 32 &&&
      (fadd Fmt.fp32 .rn (fp32 ((Src.lit32 0x7F800000).get32 s s.cur thr)) (fp32 ((Src.lit32 0xFF800000).get32 s s.cur thr))).flags ≠ 0 :=
  ⟨issues_of (by decide +kernel), by decide +kernel⟩

/-- A first, a second and a third try that agree, and none, with the last two equal and not. -/
theorem test_meets_ShadowRetry :
    let g := fun (m l : List Word) => ({ st with glitches := [(0, { main := m, shadow := l })] } : State)
    let one : Word := 0x3F800000
    let two : Word := 0x40000000
    let agree := fun (m l : List Word) (i : Nat) => lanesAgree false (m.getD i 0) (l.getD i 0)
    Tab.find (g [] []).glitches ((g [] []).partOf 1024) = some { main := [], shadow := [] } ∧
    agree [one] [one] 0 = true ∧ agree [one] [two] 0 = false ∧ agree [one, one] [two, one] 1 = true ∧ agree [one, one] [two, two] 1 = false ∧
    agree [one, one, one] [two, two, one] 2 = true ∧ agree [one, one, one] [two, two, two] 2 = false ∧
    ([one, one, one] : List Word).getD 1 0 = ([one, one, one] : List Word).getD 2 0 ∧
    ([one, one, two] : List Word).getD 1 0 ≠ ([one, one, two] : List Word).getD 2 0 := by decide +kernel

theorem test_meets_Converts :
    Issues st thr (Req.any [fd (.v 0) 1, fa (.v 4) 1, fb (.v 7) 1]) ∧
    ∀ c ∈ [CvtC.f32s32, .f32s64, .s64f32, .f32bf16, .bf16f32, .f32e4m3, .e4m3f32],
      Issues st thr (Req.any [fd (.v 0) (CvtWidth c).1, fa (.v 4) (CvtWidth c).2]) :=
  ⟨issues_of (by decide +kernel), by
    intro c hc
    apply issues_of
    revert hc c
    decide +kernel⟩

theorem test_meets_ReadSpecial :
    Issues st thr (Req.any [fd (.v 0) (spWidth .status)]) ∧ Issues st thr (Req.any [fd (.v 0) (spWidth .workId)]) :=
  ⟨issues_of (by decide +kernel), issues_of (by decide +kernel)⟩

theorem test_meets_SpecialValues : Tab.find st.launches (st.ctx (st.block (blkOf 1024)).ctx).launch = some probeLaunch := by decide +kernel

theorem queueAt_nil {s : State} (h : s.queues = []) (q : Nat) : s.queueAt q = none := by
  unfold State.queueAt; rw [h]; rfl

theorem quiet_of {s : State} {k : Nat} (h : s.homeQ = []) (b : s.bankQ = []) : s.quiet k := ⟨fun x hx => by simp [h] at hx, fun x hx => by simp [b] at hx⟩

/-! ### Memory -/

/-- The last byte below 2^57 and the first beyond; a word that is not aligned. -/
theorem test_meets_AccessChecks :
    let g := st.agent 1024
    st.window g (2 ^ 57 - 4) 4 = some (.glob (2 ^ 57 - 4)) ∧ st.window g (2 ^ 57 - 3) 4 = none ∧ (2 ^ 57 - 4) % 8 ≠ 0 ∧
    st.window g (0xF0 * 2 ^ 56 + 65532) 4 = some (.place (.spad 1 65532)) ∧ (0xF0 * 2 ^ 56 + 65532) % 4 = 0 := by decide +kernel

/-- The ends of the windows of a thread with 64 KiB of scratchpad and, here, one bank unit. -/
theorem test_meets_AddressWindows :
    65532 + 4 ≤ 2 ^ 56 ∧ 65533 + 4 ≤ 2 ^ 56 ∧ (st.ctxOf 1024).header.scratch = 65536 ∧ 2 ^ 57 - 4 + 4 ≤ 2 ^ 57 ∧
    (st.ctxOf 1024).blocks[0]? = some 1 ∧ 65532 < 2 ^ 20 ∧
    (({ st with asids := [(1, { probeAsid with banks := [(0, (0, 1))] })] } : State).bankSeg 1 0).2 = 65536 := by decide +kernel

/-- A module with one Accord set of three members on three dies and an Accord region. -/
def accordSt (t : Thread) : State :=
  { at_ t with sets := Store.write [] 0 (setEntry 3 0x840), accordBase := 2 ^ 35, accordLen := 2 ^ 20 }

/-- A leaf entry for each clause. -/
theorem test_meets_LeafRights :
    Need.load.accord = false ∧ bit (mkLeaf 0x60_0000 7 false false 0) 1 = false ∧
    (let e := mkLeaf 0 7 true true 1
     bit e 1 = true ∧ bit e 6 = true ∧ (accordSt thr).accordLeaf e 16 = false) ∧
    (let e := mkLeaf 0 7 true true 0
     bit e 1 = true ∧ bit e 6 = true ∧ (accordSt thr).accordLeaf e 16 = true ∧ bit e 3 = true) ∧
    (let e := mkLeaf 0x60_0000 6 true false 0
     bit e 1 = true ∧ bit e 6 = false ∧ bit e 3 = false ∧ Need.load.r = true) ∧
    (let e := mkLeaf 0x60_0000 7 true false 0 ||| 0x80
     bit e 1 = true ∧ bit e 6 = false ∧ bit e 4 = true ∧ bit e 7 = true ∧ Need.store.w = true) ∧
    (let e := mkLeaf 0x60_0000 7 true false 0
     bit e 1 = true ∧ bit e 6 = false ∧ bit e 7 = false ∧ st.lost (leafFrame e + 0x80_0001_0000 % 2 ^ 16) = false) := by decide +kernel

/-- What a translation found. -/
def found (x : State × Xlate) : Xlate := x.2

/-- A page that is mapped, and one that is not, where nothing is cached. -/
theorem test_meets_TranslationMarks :
    let s : State := { st with tlb := [] }
    s.translate (s.agent 1024) 0x80_0001_0000 Need.store = ((s.translate (s.agent 1024) 0x80_0001_0000 Need.store).1, .ok 0x60_0000) ∧
    s.tlbFind (s.agent 1024) 0x80_0001_0000 Need.store = none ∧ (∀ q, s.queueAt q = none) ∧
    s.translate (s.agent 1024) 0x80_0002_0000 Need.store = ((s.translate (s.agent 1024) 0x80_0002_0000 Need.store).1, .prot 0x01) ∧
    s.tlbFind (s.agent 1024) 0x80_0002_0000 Need.store = none :=
  ⟨Prod.ext rfl (by decide +kernel), by decide +kernel, queueAt_nil (by decide +kernel), Prod.ext rfl (by decide +kernel), by decide +kernel⟩

/-- Loads of the first and of the last bytes of the page, and from the scratchpad. -/
theorem test_meets_Loads :
    Issues st thr (Req.any [fd (.v 0) (ldWidth .b8z), fa (.v 0) 2, fb (.lit32 0xFFFF) 1]) ∧
    (let x := st.locate (st.agent 1024) 0x80_0001_FFFF 1 1 Need.load true
     ((Src.v 0).get64 st 1024 thr + ((Src.lit32 0xFFFF).get32 st 1024 thr).signExtend 64).toNat = 0x80_0001_FFFF ∧
     x = (x.1, .ok (.mem 0x60_FFFF)) ∧ x.1.badAt 1024 (.mem 0x60_FFFF) 1 = false ∧ 0x60_FFFF < 2 ^ 41) ∧
    st.quiet 1024 ∧
    Issues st thr (Req.any [fd (.v 4) (ldWidth .b128), fa (.v 8) 2, fb .z 1]) ∧
    (let x := st.locate (st.agent 1024) 0xF000_0000_0000_0000 16 16 Need.load true
     ((Src.v 8).get64 st 1024 thr + (Src.z.get32 st 1024 thr).signExtend 64).toNat = 0xF000_0000_0000_0000 ∧
     x = (x.1, .ok (.spad 1 0)) ∧ x.1.badAt 1024 (.spad 1 0) 16 = false ∧ x.1.picks = []) :=
  ⟨issues_of (by decide +kernel), ⟨by decide +kernel, located (by decide +kernel), by decide +kernel, by decide⟩,
    quiet_of (by decide +kernel) (by decide +kernel), issues_of (by decide +kernel),
    by decide +kernel, located (by decide +kernel), by decide +kernel⟩

/-- A 16-byte access whose halves a choice orders: the lower half now, and the upper half now. -/
theorem test_meets_Halves : ∀ i ∈ [1, 2],
    let s : State := { st with picks := [i] }
    let x := s.locate (s.agent 1024) 0x80_0001_0000 16 16 Need.load true
    let y := s.locate (s.agent 1024) 0x80_0001_0000 16 16 Need.store true
    issuesB s thr (Req.any [fd (.v 4) (ldWidth .b128), fa (.v 0) 2, fb .z 1]) = true ∧
    issuesB s thr (Req.any [fdr (.v 4) (stWidth .b128), fa (.v 0) 2, fb .z 1]) = true ∧
    isPlace x.2 (.mem 0x60_0000) = true ∧ x.1.badAt 1024 (.mem 0x60_0000) 16 = false ∧ s.homeQ = [] ∧ s.bankQ = [] ∧
    x.1.buffers (blkOf 1024) (.mem 0x60_0000) = false ∧ x.1.picks = [i] ∧ i % 3 ≠ 0 ∧
    isPlace y.2 (.mem 0x60_0000) = true ∧ y.1.buffers (blkOf 1024) (.mem 0x60_0000) = false ∧ y.1.picks = [i] := by decide +kernel

/-- Stores to the page, to the scratchpad and to bank memory. -/
theorem test_meets_PlainStores :
    let s : State := { st with asids := [(1, { probeAsid with banks := [(0, (0, 1))] })] }
    let x := st.locate (st.agent 1024) 0x80_0001_0000 4 4 Need.store true
    let y := st.locate (st.agent 1024) 0xF000_0000_0000_FFFC 4 4 Need.store true
    let z := s.locate (s.agent 1024) 0xF200_0000_0000_FFFC 4 4 Need.store true
    Issues st thr (Req.any [fdr (.v 4) (stWidth .b32), fa (.v 0) 2, fb .z 1]) ∧ st.quiet 1024 ∧
    (x = (x.1, .ok (.mem 0x60_0000)) ∧ x.1.buffers (blkOf 1024) (.mem 0x60_0000) = false ∧ 0x60_0000 + 4 ≤ 2 ^ 41 ∧ 0x60_0000 % 4 = 0 ∧
      (∀ q, x.1.queueAt q = none) ∧ x.1.poisoned 0x60_0000 64 = false) ∧
    (y = (y.1, .ok (.spad 1 0xFFFC)) ∧ y.1.buffers (blkOf 1024) (.spad 1 0xFFFC) = false ∧ Tab.find y.1.blocks 1 ≠ none) ∧
    Issues s thr (Req.any [fdr (.v 4) (stWidth .b32), fa (.lit64 0xF200_0000_0000_FFFC) 2, fb .z 1]) ∧
    (z = (z.1, .ok (.bank 0 0xFFFC)) ∧ z.1.buffers (blkOf 1024) (.bank 0 0xFFFC) = false) :=
  ⟨issues_of (by decide +kernel), quiet_of (by decide +kernel) (by decide +kernel), ⟨located (by decide +kernel), by decide +kernel, by decide, by decide, queueAt_nil (by decide +kernel), by decide +kernel⟩,
    ⟨located (by decide +kernel), by decide +kernel⟩, issues_of (by decide +kernel), located (by decide +kernel), by decide +kernel⟩

/-- The module whose context is of a RELAUNCH kernel. -/
def relaunchSt : State := { st with ctxs := [(1, { probeCtx with header := { probeHeader with relaunch := true } })] }

theorem test_meets_BufferedStores :
    let x := relaunchSt.locate (relaunchSt.agent 1024) 0x80_0001_0000 4 4 Need.store true
    Issues relaunchSt thr (Req.any [fdr (.v 4) (stWidth .b32), fa (.v 0) 2, fb .z 1]) ∧ relaunchSt.quiet 1024 ∧ x = (x.1, .ok (.mem 0x60_0000)) ∧
    x.1.buffers (blkOf 1024) (.mem 0x60_0000) = true ∧ Tab.find x.1.blocks (blkOf 1024) ≠ none ∧
    bufSpill ((x.1.block (blkOf 1024)).buffer ++ [BufEntry.store (.mem 0x60_0000) 0x80_0001_0000 ((bytesOfWords ((Dst.v 4).gets thr (stWidth .b32))).take 4)]) = 0 :=
  ⟨issues_of (by decide +kernel), quiet_of (by decide +kernel) (by decide +kernel), located (by decide +kernel), by decide +kernel⟩

/-- The narrowest wide scope and a promotion; the widest scope that a release may name. -/
theorem test_meets_ScopedAccesses :
    let x := st.locate (st.agent 1024) 0x80_0001_0008 8 8 Need.load true
    let y := st.locate (st.agent 1024) 0x80_0001_0008 8 8 Need.store true
    Issues st thr (Req.any [fd (.v 4) 2, fa (.v 0) 2, fb (.lit32 8) 1]) ∧ Issues st thr (Req.release [fdr (.v 4) 2, fa (.v 0) 2, fb (.lit32 8) 1]) ∧
    st.quiet 1024 ∧
    (x = (x.1, .ok (.mem 0x60_0008)) ∧ x.1.buffers (blkOf 1024) (.mem 0x60_0008) = false ∧ (∀ q, x.1.queueAt q = none) ∧
      ((x.1.promote 1024 .devpro).dropLineAt (x.1.coreOf 1024) (.mem 0x60_0008)).badAt 1024 (.mem 0x60_0008) 8 = false) ∧
    (y = (y.1, .ok (.mem 0x60_0008)) ∧ y.1.buffers (blkOf 1024) (.mem 0x60_0008) = false ∧ (∀ q, y.1.queueAt q = none)) ∧
    0x60_0008 + 8 ≤ 2 ^ 41 ∧ 0x60_0008 % 8 = 0 ∧ scopeWide .gang = true ∧ scopeWide .devpro = true ∧ scopeWide .system = true ∧
    Scope.system.releasable = true :=
  ⟨issues_of (by decide +kernel), issues_of (by decide +kernel), quiet_of (by decide +kernel) (by decide +kernel),
    ⟨located (by decide +kernel), by decide +kernel, queueAt_nil (by decide +kernel), by decide +kernel⟩,
    ⟨located (by decide +kernel), by decide +kernel, queueAt_nil (by decide +kernel)⟩, by decide⟩

/-- Scopes on both sides of the line, and one that a release may not name. -/
theorem test_meets_FencesComplete :
    Issues st thr (Req.any []) ∧ Issues st thr (Req.release []) ∧ st.quiet st.cur ∧ (∀ h ∈ st.bankQ, h.asid ≠ (st.ctxOf st.cur).asid) ∧
      scopeWide .block = false ∧ scopeWide .gang = true ∧ Scope.system.releasable = true ∧ Scope.diepro.releasable = false :=
  ⟨issues_of (by decide +kernel), issues_of (by decide +kernel), quiet_of (by decide +kernel) (by decide +kernel), by decide +kernel⟩

/-- A line of L1 whose last byte is dirty. -/
def dirtyLine : L1Line := { asid := 1, data := 0xAB <<< 504, dirty := 1#64 <<< 63, bad := 0 }

theorem test_meets_ReleaseWritesHome :
    let s : State := { st with l1 := [(0x60_0000 / 64, dirtyLine)] }
    (∀ q, s.queueAt q = none) ∧ Tab.find s.l1 (0x60_0000 / 64) = some dirtyLine ∧ Tab.rising s.l1 = true ∧ 0x60_0000 / 64 / 2 ^ 35 = 0 ∧
    dirtyLine.asid = 1 ∧ 63 < 64 ∧ dirtyLine.dirty.getLsbD 63 = true ∧
    -- a byte that none of the lines holds dirty
    (0x60_0000 / 64 % 2 ^ 35 ≠ 0x60_0040 / 64 ∨ dirtyLine.dirty.getLsbD (0x60_0040 % 64) = false) ∧
    -- releasing fences
    s.quiet s.cur ∧ Issues s thr (Req.release []) ∧ scopeWide .device = true ∧ (∀ h ∈ s.bankQ, h.asid ≠ (s.ctxOf s.cur).asid) ∧
    0x60_0000 / 64 / 2 ^ 35 = s.coreOf s.cur ∧ dirtyLine.asid = (s.ctxOf s.cur).asid ∧
    (∀ e ∈ s.l1, e.1 ≠ 0x60_0000 / 64 → e.1 % 2 ^ 35 = 0x60_0000 / 64 % 2 ^ 35 → e.2.dirty.getLsbD 63 = false) :=
  ⟨queueAt_nil (by decide +kernel), by decide +kernel, by decide +kernel, by decide +kernel, by decide +kernel, by decide +kernel, by decide +kernel,
    by decide +kernel, quiet_of (by decide +kernel) (by decide +kernel), issues_of (by decide +kernel), by decide +kernel⟩

/-- The home operations, at the last place of their size in a line; d a register and none. -/
theorem test_meets_HomeOperationsIssue :
    let w : Thread := { thr with regs := Store.write thr.regs 0 0x1003C }
    let p : Thread := { thr with regs := Store.write thr.regs 0 0x10038 }
    let c : Thread := { thr with regs := Store.write thr.regs 0 0x10030 }
    let x := (at_ w).locate ((at_ w).agent 1024) 0x80_0001_003C 4 4 Need.atomic false
    let y := (at_ p).locate ((at_ p).agent 1024) 0x80_0001_0038 8 8 Need.atomic false
    let z := (at_ c).locate ((at_ c).agent 1024) 0x80_0001_0030 16 16 Need.atomic false
    (Issues (at_ w) w (Req.any [fd (.v 4) 1, fa (.v 0) 2, fb (.v 7) 1]) ∧ Issues (at_ w) w (Req.any [fd .z 1, fa (.v 0) 2, fb (.v 7) 1]) ∧
      Issues (at_ w) w (Req.any [fdr (.v 4) 1, fa (.v 0) 2, fb (.v 7) 1]) ∧
      x = (x.1, .ok (.mem 0x60_003C)) ∧ x.1.buffers (blkOf 1024) (.mem 0x60_003C) = false) ∧
    (Issues (at_ p) p (Req.any [fd (.v 4) 2, fa (.v 0) 2, fb (.v 6) 2]) ∧ Issues (at_ p) p (Req.any [fdr (.v 4) 2, fa (.v 0) 2, fb (.v 6) 2]) ∧ y = (y.1, .ok (.mem 0x60_0038)) ∧
      y.1.buffers (blkOf 1024) (.mem 0x60_0038) = false) ∧
    (Issues (at_ c) c (Req.any [fa (.v 0) 2, fb (.v 7) 1]) ∧ Issues (at_ c) c (Req.any [fdr (.v 4) 1, fa (.v 0) 2]) ∧
      z = (z.1, .ok (.mem 0x60_0030)) ∧ z.1.buffers (blkOf 1024) (.mem 0x60_0030) = false) :=
  ⟨⟨issues_of (by decide +kernel), issues_of (by decide +kernel), issues_of (by decide +kernel), located (by decide +kernel), by decide +kernel⟩,
    ⟨issues_of (by decide +kernel), issues_of (by decide +kernel), located (by decide +kernel), by decide +kernel⟩,
    issues_of (by decide +kernel), issues_of (by decide +kernel), located (by decide +kernel), by decide +kernel⟩

/-- The last word, pair and cell of a line, and numbers that a cell addition rounds: a tie to the even integer, and one that the cell loses. -/
theorem test_meets_AtomicValues :
    60 + 4 ≤ 64 ∧ 56 + 8 ≤ 64 ∧ 48 + 16 ≤ 64 ∧
    (let l : Line := 0x02_03_FFFFFFFFFFFFFFFFFFFFFFFFFFFF <<< 384
     l.extractLsb' (8 * 48) 112 = (-1 : BitVec 112) ∧ l.extractLsb' (8 * (48 + 14)) 8 = 3 ∧ l.extractLsb' (8 * (48 + 15)) 8 = 2) ∧
    fp32 0x7FC00000 = .nan false ∧ fp32 0xFF800000 = .inf true ∧
    (let y : Word := 0x41400000
     let den : Nat := 2 ^ (149 + (3 : BitVec 8).toInt).toNat
     (fp32 y).isFin = true ∧ 2 * (fpUnits y - 2 * den).natAbs = den ∧ (2 : Int) % 2 = 0) := by decide +kernel

/-- An operation in the last word of its line, answered and not, and the second halves of a load and of a store. -/
theorem test_meets_HomeOperationExecutes :
    let t : Thread := { thr with pend := [{ order := 0, dests := [.v 0], vals := none, flags := 0, traps := false, fault := none, pc := 0 }], order := 1 }
    let h : HomeOp := { thread := 1024, prog := 0, order := some 0, place := .mem 0x60_003C, kind := .atom .add false 1, asid := 0, n := 0
                        va := 0, pc := 0 }
    let g : HomeOp := { h with prog := 1, order := none, place := .mem 0x60_0040 }
    let l : HomeOp := { h with place := .mem 0x60_0038, kind := .ldHalf true [] }
    let w : HomeOp := { g with place := .mem 0x60_0078, kind := .stHalf 5 }
    let s : State := { at_ t with homeQ := [h] }
    let s2 : State := { at_ t with homeQ := [g] }
    let u : State := { at_ t with homeQ := [l] }
    let u2 : State := { at_ t with homeQ := [w] }
    (s.homeQ[0]? = some h ∧ s.heldBack h = false ∧ 0x60_003C % 64 + h.kind.size ≤ 64 ∧ (∀ f x, h.kind ≠ .bnk f x) ∧ (∀ q, s.queueAt q = none) ∧
      (∀ u g, h.kind ≠ .ldHalf u g) ∧ (∀ x, h.kind ≠ .stHalf x) ∧
      (({ s with homeQ := dropAt s.homeQ 0 } : State).dropLineAt (s.coreOf 1024) h.place).badAt 1024 h.place h.kind.size = false ∧
      Tab.find s.threads 1024 = some t) ∧
    (s2.homeQ[0]? = some g ∧ s2.heldBack g = false) ∧
    (u.homeQ[0]? = some l ∧ u.heldBack l = false ∧ 0x60_0038 % 64 + l.kind.size ≤ 64 ∧ (∀ f x, l.kind ≠ .bnk f x) ∧ (∀ q, u.queueAt q = none) ∧
      ({ u with homeQ := dropAt u.homeQ 0 } : State).badAt 1024 l.place 8 = false) ∧
    u2.homeQ[0]? = some w ∧ u2.heldBack w = false ∧ 0x60_0078 % 64 + w.kind.size ≤ 64 ∧ (∀ f x, w.kind ≠ .bnk f x) :=
  ⟨⟨by decide +kernel, by decide +kernel, by decide +kernel, by simp, queueAt_nil (by decide +kernel), by simp, by simp, by decide +kernel,
      by decide +kernel⟩, by decide +kernel,
    ⟨by decide +kernel, by decide +kernel, by decide +kernel, by simp, queueAt_nil (by decide +kernel), by decide +kernel⟩,
    by decide +kernel, by decide +kernel, by decide +kernel, by simp⟩

/-- The last cell of a line. -/
theorem test_meets_CellReads :
    let c : Thread := { thr with regs := Store.write thr.regs 0 0x10030 }
    let z := (at_ c).locate ((at_ c).agent 1024) 0x80_0001_0030 16 16 Need.cellRead false
    Issues (at_ c) c (Req.any [fd (.v 4) 4, fa (.v 0) 2]) ∧ Issues (at_ c) c (Req.any [fd (.v 4) 1, fa (.v 0) 2]) ∧
    z = (z.1, .ok (.mem 0x60_0030)) ∧ (at_ c).quiet 1024 ∧ z.1.buffers (blkOf 1024) (.mem 0x60_0030) = false ∧ 0x60_0030 % 16 = 0 ∧
    z.1.badAt 1024 (.mem 0x60_0030) 16 = false ∧ ∀ q, z.1.queueAt q = none :=
  ⟨issues_of (by decide +kernel), issues_of (by decide +kernel), located (by decide +kernel), quiet_of (by decide +kernel) (by decide +kernel),
    by decide +kernel, by decide, by decide +kernel, queueAt_nil (by decide +kernel)⟩

/-- What a line is as a block. -/
def blockIs (l : List Byte) (p : Except (BitVec 8) BlkKind → Bool) : Bool := p (checkBlock (Line.of l) false)

/-- A module whose scratchpad begins with given bytes. -/
def withSpad (s : State) (l : List Byte) : State := { s with blocks := [(1, { probeBlock with spad := Store.writes (w := 8) [] 0 l })] }

/-- The thread's load of the block at the start of its scratchpad. -/
def blkLoc (l : List Byte) : State × Except Stop Place := (withSpad st l).locate ((withSpad st l).agent 1024) 0xF000_0000_0000_0000 64 64 Need.load true

/-- A block of each kind, an index within its elements, and the first behind those of the shortest. -/
theorem test_meets_BlockElements :
    (∀ l ∈ ([[], [0x7F], [3, 0xFF], [3]] : List (List Byte)), issuesB (withSpad st l) thr (Req.any [fd (.v 0) 1, fa (.v 8) 2, fb (.v 6) 1]) = true ∧
      issuesB (withSpad st l) thr (Req.any [fd (.v 0) 1, fa (.v 8) 2, fb (.lit32 128) 1]) = true ∧
      isPlace (blkLoc l).2 (.spad 1 0) = true ∧ (blkLoc l).1.badAt 1024 (.spad 1 0) 64 = false ∧
      (Line.of ((blkLoc l).1.loadAt 1024 (.spad 1 0) 64).2).toNat = (Line.of l).toNat) ∧
    blockIs [] (fun r => match r with | .ok .zero => true | _ => false) = true ∧
    blockIs [0x7F] (fun r => match r with | .error 0x02 => true | _ => false) = true ∧
    blockIs [3, 0xFF] (fun r => match r with | .ok (.nan f) => decide (3 < f.count ∧ f.count ≤ 128) | _ => false) = true ∧
    blockIs [3] (fun r => match r with | .ok (.data f) => decide (3 < f.count ∧ f.count ≤ 128) | _ => false) = true ∧
    (Src.v 6).get32 st 1024 thr = 3 := by decide +kernel

/-- A group of 128 elements that are zero but for the largest number, a number that rounds away beside it, a negative one and an infinity. -/
def packed3 : List FVal := [fp32 0x43000000, fp32 0x30000000, fp32 0xC2000000, .inf true] ++ List.replicate 124 (fp32 0)

/-- Groups with a NaN, of zeros alone, of infinities alone beside zeros, and the mixed one. -/
theorem test_meets_BlockPacks :
    BlkFmt.s3 ∈ [BlkFmt.s3, .s6, .s12] ∧ packed3.length = BlkFmt.s3.count ∧ (∀ v ∈ packed3, v.isNan = false) ∧
    (∃ v ∈ packed3, v.isZero = false) ∧
    (let mag := fun (v : FVal) => (v.toInt (minExp packed3)).natAbs
     fp32 0x43000000 ∈ packed3 ∧ (fp32 0x43000000).isFin = true ∧ (fp32 0x43000000).isZero = false ∧
     (packed3.all fun w => !w.isFin || decide (mag w ≤ mag (fp32 0x43000000))) = true) ∧
    packed3[0]? = some (fp32 0x43000000) ∧ packed3[1]? = some (fp32 0x30000000) ∧
    (∃ v ∈ FVal.nan false :: List.replicate 127 (fp32 0), v.isNan = true) ∧
    (∀ v ∈ List.replicate 128 (fp32 0), v.isZero = true) ∧
    (let l := FVal.inf false :: List.replicate 127 (fp32 0)
     (∃ v ∈ l, v.isZero = false) ∧ ∀ v ∈ l, (v.isFin && !v.isZero) = false) := by decide +kernel

/-- Canonical form, evaluated. -/
def canonB (s : State) : Bool :=
  Memory.wf s.mem && Store.wf s.bank && Store.wf s.access && Store.wf s.sets && Store.wf s.fused && Tab.rising s.threads && Tab.rising s.l1

theorem canon_of {s : State} (h : canonB s = true) : s.Canonical := by
  simp only [canonB, Bool.and_eq_true] at h
  obtain ⟨⟨⟨⟨⟨⟨h1, h2⟩, h3⟩, h4⟩, h5⟩, h6⟩, h7⟩ := h
  exact ⟨h1, h2, h3, h4, h5, h6, h7⟩

/-- The last line of the bank segment and of the scratchpad; d a pair and none. -/
theorem test_meets_BankOperationsIssue :
    let r : Asid := { probeAsid with banks := [(0, (0, 1))] }
    let s : State := { st with asids := [(1, r)] }
    Issues s thr (Req.any [fd (.v 0) 2, fa (.lit64 0xF200_0000_0000_FFC0) 2, fb (.v 8) 2]) ∧
    Issues s thr (Req.any [fd .z 2, fa (.lit64 0xF200_0000_0000_FFC0) 2, fb (.v 8) 2]) ∧
    (match s.bnkPlaces 1024 ((Src.lit64 0xF200_0000_0000_FFC0).get64 s 1024 thr) ((Src.v 8).get64 s 1024 thr) with
      | .ok x => decide (x = (.bank 0 0xFFC0, .spad 1 0)) | .error _ => false) = true ∧
    s.quiet 1024 ∧ s.buffers (blkOf 1024) (.bank 0 0xFFC0) = false ∧ s.placeBad (.spad 1 0) 64 = false ∧ Tab.find s.asids (s.ctxOf 1024).asid = some r :=
  ⟨issues_of (by decide +kernel), issues_of (by decide +kernel), by decide +kernel, quiet_of (by decide +kernel) (by decide +kernel), by decide +kernel⟩

theorem test_meets_BankOperationExecutes :
    let h : HomeOp := { thread := 1024, prog := 0, order := some 0, place := .bank 3 0xFFC0, kind := .bnk .iadd 5, asid := 1, n := 1, va := 0, pc := 0 }
    let s : State := { st with bankQ := [h] }
    s.bankQ[0]? = some h ∧ s.heldBack h = false ∧ s.placeBad h.place 64 = false ∧ h.place = .bank 3 0xFFC0 ∧ h.kind = .bnk .iadd 5 ∧ 0xFFC0 % 64 = 0 ∧
    Tab.find s.asids h.asid = some probeAsid ∧ h.order = some 0 ∧ Tab.find s.threads h.thread = some thr ∧ thr.status = .ready ∧ canonB s = true := by decide +kernel

/-- A line of global memory that the L1 holds dirty, an address of any window, and one that has no place. -/
theorem test_meets_CacheControl :
    let d : State := { st with l1 := [(0x60_0000 / 64, dirtyLine)] }
    let u := d.locate (d.agent 1024) 0x80_0001_0000 1 1 Need.load true
    let v := st.locate (st.agent 1024) 0xF000_0000_0000_0000 1 1 Need.load true
    let x := st.locate (st.agent 1024) 0x80_0001_0000 1 1 Need.load true
    let bad := st.locate (st.agent 1024) 0x80_0003_0000 1 1 Need.load true
    (Issues d thr (Req.any [fa (.v 0) 2]) ∧ ((Src.v 0).get64 d d.cur thr).toNat = 0x80_0001_0000 ∧ u = (u.1, .ok (.mem 0x60_0000)) ∧
      d.quiet d.cur ∧ (∀ q, u.1.queueAt q = none) ∧ Tab.find d.l1 (l1Key (d.coreOf d.cur) 0x60_0000) = some dirtyLine ∧
      dirtyLine.dirty.getLsbD 63 = true ∧ d.window (d.agent 1024) 0x80_0001_0000 1 = some (.glob 0x80_0001_0000) ∧
      Tab.rising d.l1 = true ∧ (∀ q, d.queueAt q = none) ∧ dirtyLine.asid = (d.ctxOf d.cur).asid) ∧
    (Issues st thr (Req.any [fa (.v 8) 2]) ∧ ((Src.v 8).get64 st st.cur thr).toNat = 0xF000_0000_0000_0000 ∧ v = (v.1, .ok (.spad 1 0)) ∧
      ∀ pa, Place.spad 1 0 ≠ .mem pa) ∧
    Issues st thr (Req.any [fa (.v 0) 2]) ∧ x = (x.1, .ok (.mem 0x60_0000)) ∧ x.1.queueAt 0x60_0000 = none ∧
    st.window (st.agent 1024) 0x80_0001_0000 1 = some (.glob 0x80_0001_0000) ∧
    st.window (st.agent 1024) 0xF000_0000_0000_0000 1 = some (.place (.spad 1 0)) ∧ Issues st thr (Req.any [fa (.lit64 0x80_0003_0000) 2]) ∧
    ((Src.lit64 0x80_0003_0000).get64 st 1024 thr).toNat = 0x80_0003_0000 ∧ ∀ s1 p, bad ≠ (s1, .ok p) :=
  ⟨⟨issues_of (by decide +kernel), by decide +kernel, located (by decide +kernel), quiet_of (by decide +kernel) (by decide +kernel),
      queueAt_nil (by decide +kernel), by decide +kernel, by decide +kernel, by decide +kernel, by decide +kernel, queueAt_nil (by decide +kernel),
      by decide +kernel⟩,
    ⟨issues_of (by decide +kernel), by decide +kernel, located (by decide +kernel), by simp⟩,
    issues_of (by decide +kernel), located (by decide +kernel), by decide +kernel, by decide +kernel, by decide +kernel,
    issues_of (by decide +kernel), by decide +kernel, fun s1 p h => by
      have e : (match (st.locate (st.agent 1024) 0x80_0003_0000 1 1 Need.load true).2 with | .ok _ => true | .error _ => false) = false := by
        decide +kernel
      rw [h] at e
      cases e⟩

/-! ### Wave-convergent instructions, transfers, joins, barriers and ends -/

/-- Another thread of the wave is missing. -/
theorem test_meets_ConvergentMissing :
    let s := two thr thr
    s.waitsOff s.cur thr = false ∧ (1025 ≠ s.cur ∧ waveKey 1025 = waveKey s.cur ∧ Tab.find s.threads 1025 = some thr ∧ thr.status ≠ .exited ∧ thr.inConv = false) ∧
    ([Req.any [fd (.v 0) 1, fa (.v 4) 1, fb (.v 6) 1], .any [fd (.v 0) 1, fa (.v 4) 1], .vector [fd (.v 0) 1, fa (.v 4) 1],
      .any [fkd (.k 11) 1, fa (.v 4) 1], .any [fkd (.k 11) 1, fa (.v 0) 2, fb .z 1]].all (issuesB s thr)) = true ∧ VoteF.any ≠ .elect := by
  decide +kernel

/-- The wave's other thread waits at an instruction. -/
def conv (op : ConvOp) : State := two thr { thr with status := .waiting (.conv op [.v 0] false) 0 }

/-- Every other thread of the wave waits at `op`, at the PC of the thread that executes. -/
def arrived (op : ConvOp) : Bool :=
  ((conv op).waveThreads (waveKey (conv op).cur)).all fun e =>
    e.1 == (conv op).cur || e.2.status == .exited || (e.2.pc == thr.pc && e.2.status == .waiting (.conv op [.v 0] false) 0)

/-- Each instruction with the wave's other thread at it; of a ballot, the lane whose a is 0. -/
theorem test_meets_ConvergentResults :
    let ops : List (ConvOp × Req) :=
      [.idx, .up, .down, .xor].map (fun f => (.shfl f 1 31, .any [fd (.v 0) 1, fa (.v 4) 1, fb (.v 6) 1])) ++
      [.any, .all, .ballot].map (fun f => (.vote f 0, .any [fd (.v 0) 1, fa (.v 4) 1])) ++
      [.add, .smin, .smax, .nmin, .nmax, .and, .or, .xor].map (fun f => (.wred f 1, .any [fd (.v 0) 1, fa (.v 4) 1])) ++
      [.sum, .min, .max, .minnum, .maxnum].map (fun f => (.fwred f 1, .vector [fd (.v 0) 1, fa (.v 4) 1])) ++
      [.incadd, .excadd, .incor, .excor].map (fun f => (.wscn f 1, .any [fd (.v 0) 1, fa (.v 4) 1])) ++
      [(.vote .elect 0, .any [fd (.v 0) 1])]
    (ops.all fun e => canonB (conv e.1) && !(conv e.1).waitsOff 1024 thr && issuesB (conv e.1) thr e.2 && arrived e.1) = true ∧
    ∀ l, l < 32 → (1 : Word).getLsbD l =
      [(1024, (Src.v 4).get32 st 1024 thr), (1025, (0 : Word))].any fun z => laneOf z.1 == l && z.2 != 0 := by decide +kernel

/-- The wave's only thread, and two threads, of which the executing one is the lower. -/
theorem test_meets_ConvergentConstants :
    let c := conv (.kset false 7)
    let l := conv (.ldk true 0x80_0001_0010)
    let z := l.locate (l.agent 1024) 0x80_0001_0000 8 8 Need.load true
    let x := st.locate (st.agent st.cur) 0x80_0001_0000 4 4 Need.load true
    let y := st.locate (st.agent st.cur) 0x80_0001_0000 8 8 Need.load true
    st.Canonical ∧ st.waitsOff st.cur thr = false ∧ (st.waveThreads (waveKey st.cur)).filter (fun e => e.2.status != .exited) = [(st.cur, thr)] ∧
    Issues st thr (Req.any [fkd (.k 11) 1, fa (.v 4) 1]) ∧ Issues st thr (Req.any [fkd (.k 10) 2, fa (.v 4) 2]) ∧ st.quiet st.cur ∧
    (Issues st thr (Req.any [fkd (.k 11) 1, fa (.v 0) 2, fb .z 1]) ∧ x = (x.1, .ok (.mem 0x60_0000)) ∧ x.1.badAt st.cur (.mem 0x60_0000) 4 = false) ∧
    (Issues st thr (Req.any [fkd (.k 10) 2, fa (.v 0) 2, fb .z 1]) ∧ y = (y.1, .ok (.mem 0x60_0000)) ∧ y.1.badAt st.cur (.mem 0x60_0000) 8 = false) ∧
    (∀ e ∈ [(ConvOp.kset false 7, Req.any [fkd (.k 11) 1, fa (.v 4) 1]), (.ldk true 0x80_0001_0010, .any [fkd (.k 10) 2, fa (.v 0) 2, fb .z 1])],
      canonB (conv e.1) = true ∧ (conv e.1).waitsOff 1024 thr = false ∧ issuesB (conv e.1) thr e.2 = true ∧ arrived e.1 = true ∧
      (((conv e.1).waveThreads (waveKey (conv e.1).cur)).filter fun x => x.2.status != .exited).map Prod.fst = [1024, 1025]) ∧
    c.cur = 1024 ∧ l.quiet 1024 ∧ z = (z.1, .ok (.mem 0x60_0000)) ∧ z.1.badAt 1024 (.mem 0x60_0000) 8 = false :=
  ⟨canon_of (by decide +kernel), by decide +kernel, by decide +kernel, issues_of (by decide +kernel), issues_of (by decide +kernel),
    quiet_of (by decide +kernel) (by decide +kernel), ⟨issues_of (by decide +kernel), located (by decide +kernel), by decide +kernel⟩,
    ⟨issues_of (by decide +kernel), located (by decide +kernel), by decide +kernel⟩, by decide +kernel, by decide +kernel,
    quiet_of (by decide +kernel) (by decide +kernel), located (by decide +kernel), by decide +kernel⟩

theorem test_meets_TransfersLand :
    Issues st thr (Req.any [fcr (.v 4) 1]) ∧ Issues st thr (Req.any [fcr .z 1]) ∧ Issues st thr (Req.any []) ∧ Issues st thr (Req.any [fc (.v 4) 2]) ∧
    Issues st thr (Req.any [fa (.v 2) 2]) ∧ ((Src.v 2).get64 st st.cur thr).toNat % 4 = 0 ∧
    Issues st thr (Req.any [fa (.lit64 0x80_0000_0043) 2]) ∧ ((Src.lit64 0x80_0000_0043).get64 st st.cur thr).toNat % 4 ≠ 0 :=
  ⟨issues_of (by decide +kernel), issues_of (by decide +kernel), issues_of (by decide +kernel), issues_of (by decide +kernel),
    issues_of (by decide +kernel), by decide +kernel, issues_of (by decide +kernel), by decide +kernel⟩

/-- A module whose code page begins with a word. -/
def landSt (w : Word) : State := { st with mem := Store.writes (w := 8) st.mem 0x50_0000 (bytesOf 4 w) }

/-- The first address beyond, a misaligned one, and a word that is `land` with and without the marker, and one that is not. -/
theorem test_meets_LandingChecks :
    (∀ x ∈ [Src.lit64 (2 ^ 57), .lit64 0x80_0000_0042, .v 2], issuesB st thr (Req.any [fa x 2]) = true ∧
      issuesB st thr (Req.any [fd (.v 4) 2, fa x 2]) = true) ∧
    2 ^ 57 ≤ ((Src.lit64 (2 ^ 57)).get64 st st.cur thr).toNat ∧
    (((Src.lit64 0x80_0000_0042).get64 st st.cur thr).toNat < 2 ^ 57 ∧ ((Src.lit64 0x80_0000_0042).get64 st st.cur thr).toNat % 4 ≠ 0) ∧
    ((Src.v 2).get64 st st.cur thr).toNat = 0x80_0000_0000 ∧
    (landSt 0).imageAt ((landSt 0).ctxOf 1024).asid 0x80_0000_0000 = none ∧
    ([0x8FF3E7C0, 0x8FF3E7C1, 0x8FF3E7C2].all fun w => decide ((found ((landSt w).translate ((landSt w).agent 1024) 0x80_0000_0000 Need.fetch)) =
      .ok 0x50_0000)) = true ∧
    ([0x8FF3E7C0, 0x8FF3E7C1, 0x8FF3E7C2].all fun w => !((landSt w).translate ((landSt w).agent 1024) 0x80_0000_0000 Need.fetch).1.poisoned 0x50_0000 4) = true ∧
    ([0x8FF3E7C0, 0x8FF3E7C1].all fun w => decide ((landSt w).memNat 0x50_0000 4 / 2 * 2 = 0x8FF3E7C0)) = true ∧
    decide ((landSt 0x8FF3E7C2).memNat 0x50_0000 4 / 2 * 2 = 0x8FF3E7C0) = false := by decide +kernel

/-- A module whose context is being pre-empted while a run is under way. -/
def stopping (s : State) : State := { s with ctxs := [(1, { probeCtx with state := .stopping })] }

/-- A wave whose other thread waits at the join, has exited, and has done neither; a context that stops. -/
theorem test_meets_Joins :
    let w : Thread := { thr with status := .waiting (.join 127 3) 0 }
    let x : Thread := { thr with status := .exited }
    (∀ u ∈ [w, x, thr], canonB (two thr u) = true ∧ issuesB (two thr u) thr (Req.release [fa (.v 6) 1]) = true ∧ (two thr u).waitsOff 1024 thr = false ∧ (two thr u).homeQ = [] ∧
      (two thr u).bankQ = [] ∧ ((two thr u).waveThreads (waveKey 1024)).filter (fun e => e.1 != 1024) = [(1025, u)]) ∧
    w.status = .waiting (.join 127 3) 0 ∧ x.status = .exited ∧
    -- the mask 3 names both lanes, and the mask 1 the thread's own alone, which makes a set of its own
    ((Src.v 6).get32 (two thr thr) 1024 thr).getLsbD (laneOf 1025) = true ∧ issuesB (two thr thr) thr (Req.release [fa (.lit32 1) 1]) = true ∧
    (∀ l, l < 32 → ((Src.lit32 1).get32 (two thr thr) 1024 thr).getLsbD l = true → l = laneOf 1024) ∧ thr.status ≠ .exited ∧ canonB (stopping st) = true ∧
    issuesB (stopping st) thr (Req.release [fa (.v 6) 1]) = true ∧ (stopping st).homeQ = [] ∧ (stopping st).bankQ = [] ∧
    (stopping st).waitsOff 1024 thr = true := by decide +kernel

/-- The last barrier, of the block and of the gang, with the other thread arrived and not. -/
theorem test_meets_BarrierArrivals :
    let s := two thr { thr with status := .waiting (.bar 15 0) 0 }
    let d := { s with blocks := [(1, { probeBlock with bars := [(15, { phase := 0, arrived := [1025] })] })],
                      ctxs := [(1, { probeCtx with gbars := [(15, { phase := 0, arrived := [1025] })] })] }
    s.Canonical ∧ Issues s thr (Req.release []) ∧ s.quiet s.cur ∧ Tab.find s.blocks (blkOf s.cur) = some probeBlock ∧
    Tab.find s.ctxs probeBlock.ctx = some probeCtx ∧ blkOf s.cur ∈ probeCtx.blocks ∧ Tab.find thr.arrivals 15 = none ∧ Tab.find thr.arrivals 31 = none ∧
    -- the other thread has neither arrived nor exited
    (s.blockThreads 1).filter (fun e => e.1 != s.cur) = [(1025, { thr with status := .waiting (.bar 15 0) 0 })] ∧
    (s.ctxThreads 1).filter (fun e => e.1 != s.cur) = [(1025, { thr with status := .waiting (.bar 15 0) 0 })] ∧
    1025 ∉ (s.barrier s.cur false 15).arrived ∧ 1025 ∉ (s.barrier s.cur true 15).arrived ∧
    -- an arrival whose phase has ended, without a wait
    (let o : Thread := { thr with arrivals := [(15, 1), (31, 1)] }
     let e : State := { two o thr with blocks := [(1, { probeBlock with bars := [(15, { phase := 2, arrived := [] })] })],
                                       ctxs := [(1, { probeCtx with gbars := [(15, { phase := 2, arrived := [] })] })] }
     issuesB e o (Req.release []) = true ∧ Tab.find o.arrivals 15 = some 1 ∧ Tab.find o.arrivals 31 = some 1 ∧ o.again = [] ∧
       1 < (e.barrier 1024 false 15).phase ∧ 1 < (e.barrier 1024 true 15).phase) ∧
    -- it has arrived
    (canonB d && issuesB d thr (Req.release [])) = true ∧ 1025 ∈ (d.barrier d.cur false 15).arrived ∧ 1025 ∈ (d.barrier d.cur true 15).arrived :=
  ⟨canon_of (by decide +kernel), issues_of (by decide +kernel), quiet_of (by decide +kernel) (by decide +kernel), by decide +kernel⟩

/-- No arrival; an arrival in the phase before the current one and in the current one, after a time-out and not. -/
theorem test_meets_BarrierWaits :
    let a : Thread := { thr with arrivals := [(15, 1), (31, 1)] }
    let early : Thread := { thr with again := [(15, 0x80_0000_0040), (31, 0x80_0000_0040)] }
    let again : Thread := { a with again := [(15, 0x80_0000_0040), (31, 0x80_0000_0040)] }
    let s := fun (t : Thread) (p : Nat) => { at_ t with
      blocks := [(1, { probeBlock with bars := [(15, { phase := p, arrived := [] })] })],
      ctxs := [(1, { probeCtx with gbars := [(15, { phase := p, arrived := [] })] })] }
    (∀ t ∈ [thr, a, again, early], ∀ q ∈ [Req.any [], Req.release []], issuesB (s t 1) t q = true ∧ issuesB (s t 2) t q = true) ∧
    Tab.find thr.arrivals 15 = none ∧ Tab.find thr.arrivals 31 = none ∧
    (∀ key ∈ [15, 31], Tab.find early.again key = some early.pc.toNat ∧ early.inHandler = false ∧ Tab.find early.arrivals key = none ∧ Tab.find a.arrivals key = some 1 ∧ Tab.find again.arrivals key = some 1 ∧ Tab.find a.again key = none ∧
      again.inHandler = false ∧ Tab.find again.again key = some again.pc.toNat) ∧
    (∀ g : Bool, 1 < ((s a 2).barrier 1024 g 15).phase ∧ ((s a 1).barrier 1024 g 15).phase ≤ 1) := by decide +kernel

/-- A thread without results to come and one with; a kernel with phases and without; a debug session and none; the run's 64th instruction. -/
theorem test_meets_ThreadEnds :
    let b : Thread := { thr with pend := [{ order := 0, dests := [.v 0], vals := none, flags := 0, traps := false, fault := none, pc := 0 }] }
    let flat : State := { st with ctxs := [(1, { probeCtx with header := { probeHeader with phased := false } })] }
    let dbg : State := { st with asids := [(1, { probeAsid with debug := true })] }
    (∀ s ∈ [st, flat, dbg], issuesB s thr (Req.any []) = true) ∧ issuesB (at_ b) b (Req.any []) = true ∧
    (st.ctxOf 1024).header.handler ≠ 0 ∧ thr.inHandler = false ∧ thr.busy = false ∧ thr.toks = [] ∧
    (∀ e ∈ st.waveThreads (waveKey 1024), e.2.inConv = false) ∧ b.busy = true ∧ (st.ctxOf 1024).header.phased = true ∧
    (flat.ctxOf 1024).header.phased = false ∧ st.debugged 1024 = false ∧ dbg.debugged 1024 = true ∧
    dbg.host.evPosted.toNat - dbg.host.evAck.toNat < 256 ∧ st.waitsOff 1024 thr = false ∧
    (stopping st).waitsOff 1024 thr = true ∧ issuesB (stopping st) thr (Req.any []) = true ∧ ((stopping st).ctxOf 1024).header.phased = true ∧
    (let g := { probeGroup with count := 62 }
     Tab.find ({ st with groups := [(1, g)] } : State).groups 1 = some g ∧ ({ st with groups := [(1, g)] } : State).groupOf 1024 = some (1, g) ∧
       g.members = [1024] ∧ g.todo = [1024] ∧ g.count < 63) ∧ canonB st = true := by decide +kernel

/-- A value that has come, the next one, and one beyond the commands that were issued; a context that stops. -/
theorem test_meets_Timelines :
    let s : State := { st with blocks := [(1, { probeBlock with matN := 2, matDone := 1 })] }
    (∀ u ∈ [s, stopping s], issuesB u thr (Req.any []) = true ∧ issuesB u thr (Req.any [fa (.lit64 1) 2]) = true ∧
      issuesB u thr (Req.any [fa (.lit64 2) 2]) = true ∧ u.timeline 1024 .matrix = 1 ∧ u.issued 1024 .matrix = 2) ∧
    s.waitsOff 1024 thr = false ∧ (stopping s).waitsOff 1024 thr = true ∧
    issuesB s thr (Req.any [fa (.lit64 3) 2]) = true ∧ ((Src.lit64 3).get64 s s.cur thr).toNat = 3 ∧
    s.issued s.cur .copy ≤ s.timeline s.cur .copy ∧ issuesB s thr (Req.any [fd (.v 0) 2]) = true := by decide +kernel

/-! ### Engines, rings, registers, handlers, services and spawns -/

/-- Registers of a thread that commands engines: C, A and B descriptors of the spec's dot product, and the addresses of its records. -/
def engRegs : Store 32 := Store.writes (w := 32) [] 0 [0x200, 0xF0000000, 0x00010001, 0x02000001, 0, 0xF0000000, 0x00800001, 4, 0x100, 0xF0000000,
  0x00800001, 4, 0x240, 0xF0000000, 0x280, 0xF0000000]

def engThr : Thread := { thr with regs := engRegs }

theorem test_meets_CommandsIssue :
    let s := at_ engThr
    s.quiet s.cur ∧ Tab.find s.blocks (blkOf s.cur) = some probeBlock ∧
    (Issues s engThr { illegal := false, role := 2, flds := [ftok (.v 0) 4, fa (.v 4) 4, fb (.v 8) 4], rel := true } ∧
      s.checkTiles (blkOf s.cur) (some .acc) 0 (Desc.of (quadVal ((Dst.v 0).gets engThr 4))) (Desc.of (quadVal ((Src.v 4).get128 engThr)))
        (Desc.of (quadVal ((Src.v 8).get128 engThr))) = none) ∧
    (Issues s engThr { illegal := false, role := 2, flds := [ftok (.v 0) 4], rel := true } ∧
      Issues s engThr { illegal := false, role := 2, flds := [ftok (.v 0) 4, fa (.lit32 0x3F800000) 1], rel := true } ∧
      s.checkFill (blkOf s.cur) (Desc.of (quadVal ((Dst.v 0).gets engThr 4))) = none) ∧
    (Issues s engThr { illegal := false, role := 1, flds := [ftok (.v 20) 2, fa (.v 12) 2, fb .z 2], rel := true } ∧
      Issues s engThr { illegal := false, role := 1, flds := [ftok (.v 20) 2, fa (.v 12) 2, fb (.v 14) 2], rel := true } ∧
      s.checkRecord s.cur ((Src.v 12).get64 s s.cur engThr).toNat 64 64 3 = none ∧
      s.checkRecord s.cur ((Src.v 14).get64 s s.cur engThr).toNat 48 16 4 = none ∧ Src.v 14 ≠ .z) :=
  ⟨quiet_of (by decide +kernel) (by decide +kernel), by decide +kernel, ⟨issues_of (by decide +kernel), by decide +kernel⟩,
    ⟨issues_of (by decide +kernel), issues_of (by decide +kernel), by decide +kernel⟩,
    issues_of (by decide +kernel), issues_of (by decide +kernel), by decide +kernel⟩

/-- The first window after the scratchpad's, the first misaligned record, and the first beyond the allocation; tiles with a reserved bit, with
a kind that is none, and a C tile of kind 1. -/
theorem test_meets_EngineChecks :
    let q : Req := { illegal := false, role := 1, flds := [ftok (.v 0) 2, fa (.lit64 0xF000_0000_0000_FFC1) 2, fb .z 2], rel := true }
    let m : Req := { illegal := false, role := 2, flds := [ftok (.v 0) 4, fa (.v 4) 4, fb (.v 8) 4], rel := true }
    let cd := fun (w : Word) => ({ engThr with regs := Store.write engRegs 3 w } : Thread)
    let c := fun (t : Thread) => Desc.of (quadVal ((Dst.v 0).gets t 4))
    let ad : Thread := { engThr with regs := Store.write engRegs 7 0x03000004 }
    issuesB (at_ engThr) engThr q = true ∧ 0xF100_0000_0000_0000 / 2 ^ 56 ≠ 0xF0 ∧
    (0xF000_0000_0000_0001 / 2 ^ 56 = 0xF0 ∧ 0xF000_0000_0000_0001 % 64 ≠ 0) ∧
    (0xF000_0000_0001_0000 / 2 ^ 56 = 0xF0 ∧ 0xF000_0000_0001_0000 % 64 = 0 ∧
      (st.ctxOf 1024).header.scratch < 0xF000_0000_0001_0000 % 2 ^ 56 + 64) ∧
    (∀ t ∈ [cd 0x42000001, cd 0x22000001, cd 0x12000001, cd 0x03000001, cd 0x01000001, ad], issuesB (at_ t) t m = true) ∧
    (c (cd 0x42000001)).reserved ≠ 0 ∧ (c (cd 0x22000001)).verify = true ∧ (c (cd 0x12000001)).remote = true ∧ (c (cd 0x03000001)).kind = 3 ∧
    ((c ad).reserved = 0 ∧ (c ad).verify = false ∧ (c ad).remote = false ∧ (c ad).kind < 3 ∧ (Desc.of (quadVal ((Src.v 4).get128 ad))).kind = 3) ∧
    (let t := cd 0x01000001
     (c t).reserved = 0 ∧ (c t).verify = false ∧ (c t).remote = false ∧ (Desc.of (quadVal ((Src.v 4).get128 t))).reserved = 0 ∧
       (Desc.of (quadVal ((Src.v 4).get128 t))).kind < 3 ∧ (Desc.of (quadVal ((Src.v 8).get128 t))).reserved = 0 ∧
       (Desc.of (quadVal ((Src.v 8).get128 t))).kind < 3 ∧ (c t).kind = 1) := by decide +kernel

/-- Rings of 1 and of 64 slots at the last place of the scratchpad; checksums before, at and beyond a command. -/
theorem test_meets_RingsAndChecksums :
    let a : Src := .lit64 0xF000_0000_0000_FFF0
    let s : State := { st with blocks := [(1, { probeBlock with matN := 2, matDone := 1 })] }
    (∀ b ∈ [Src.lit32 1, .lit32 64], issuesB st thr { illegal := false, role := 0, flds := [fd (.v 4) 2, fa (.v 8) 2, fb b 1], rel := true } = true) ∧
    issuesB st thr { illegal := false, role := 1, flds := [fd (.v 4) 2, fa a 2, fb .z 1], rel := true } = true ∧
    issuesB st thr { illegal := false, role := 0, flds := [ftok (.v 4) 2, fa a 2, fb .z 1], rel := true } = true ∧ st.homeQ = [] ∧ st.bankQ = [] ∧
    (a.get64 st st.cur thr).toNat / 2 ^ 56 = 0xF0 ∧ (a.get64 st st.cur thr).toNat % 2 ^ 56 + 16 ≤ (st.ctxOf st.cur).header.scratch ∧
    (a.get64 st st.cur thr).toNat % 16 = 0 ∧ ((Src.lit32 64).get32 st st.cur thr).toNat = 64 ∧
    (∀ a ∈ [Src.lit64 1, .lit64 2, .lit64 3], issuesB s thr { illegal := false, role := 2, flds := [fd (.v 4) 2, fa a 2] } = true) ∧
    Tab.find s.blocks (blkOf s.cur) = some { probeBlock with matN := 2, matDone := 1 } := by decide +kernel

/-- A matrix command of the spec's dot product, its operands in BF16 rows. -/
def matCmd (mode : MmaF ⊕ Word) : MatCmd :=
  { n := 1, follow := 0, owner := 1024, tok := 0, pc := 0, mode := mode, cd := 0x02000001_00010001_F0000000_00000200,
    ad := 0x01000004_00800001_F0000000_00000000, bd := 0x01000004_00800001_F0000000_00000100, chunks := 0, offA := [], offB := [],
    part := none, flags := 0 }

/-- The same with operands of two chunks a row. -/
def twoChunks : MatCmd := { matCmd (.inl .acc) with ad := 0x01000008_01000001_F0000000_00000000, bd := 0x01000008_01000001_F0000000_00000200 }

theorem test_meets_MatrixCommandRuns :
    let s := fun (m : MatCmd) => ({ st with blocks := [(1, { probeBlock with matN := 1, matQ := [m] })] } : State)
    let c := Desc.of (matCmd (.inr 0)).cd
    let a := Desc.of (matCmd (.inr 0)).ad
    let b := Desc.of (matCmd (.inr 0)).bd
    (∀ m ∈ [matCmd (.inr 5), matCmd (.inl .acc), matCmd (.inl .set), twoChunks], canonB (s m) = true ∧
      Tab.find (s m).blocks 1 = some { probeBlock with matN := 1, matQ := [m] } ∧ (s m).enginesRun 1 = true ∧
      m.follow = 0 ∧ m.n ≠ 0 ∧ Tab.find (s m).threads m.owner = some thr ∧ Tab.find (s m).chunkErrs probeBlock.core = none ∧
      (∀ f ∈ [MmaF.acc, .set], (s m).chunkBad 1 m f = none) ∧ m.chunks = 0 ∧ m.part = none) ∧
    c.remote = false ∧ 4 * c.kext ≤ c.stride * 64 ∧ a.kind = 1 ∧ b.kind = 1 ∧ a.kext = 128 ∧ b.kext = 128 ∧ a.rows = c.rows ∧ b.rows = c.kext ∧
    0 < c.rows ∧ 0 < c.kext ∧ (Desc.of twoChunks.ad).kind = 1 ∧ (Desc.of twoChunks.bd).kind = 1 ∧ 128 < (Desc.of twoChunks.ad).kext := by
  decide +kernel

/-- A copy command whose record has been read, of a whole line, at both ends of the scratchpad. -/
def copyCmd (r : Option CopyRec) : CopyCmd :=
  { n := 1, owner := 1024, tok := 0, pc := 0, recAddr := 0xF000000000000240, follow := none, mask := none, record := r, followDesc := none, done := [],
    uncredited := [], pos := 0, flags := 0, entered := false, stalled := none, fault := none }

def lineRec : CopyRec :=
  { src := 0xF000000000000000, dst := 0xF00000000000FFC0, rowBytes := 64, rows := 1, srcStride := 0, dstStride := 0, conv := 0, flags := 0, slot := 0,
    ring := 0, bad := false }

theorem test_meets_CopyCommandRuns :
    let y := fun (r : Option CopyRec) => { probeBlock with copyN := 1, copyQ := [copyCmd r] }
    let s := fun (r : Option CopyRec) => ({ st with blocks := [(1, y r)] } : State)
    (∀ r ∈ [none, some lineRec], canonB (s r) = true ∧ Tab.find (s r).blocks 1 = some (y r) ∧
      ((y r).copyQ.find? fun x => x.n == 1) = some (copyCmd r) ∧ (s r).enginesRun 1 = true) ∧
    (copyCmd none).stalled = none ∧ (copyCmd none).entered = false ∧ (copyCmd none).fault = none ∧ (s (some lineRec)).placeBad (.spad 1 0) 64 = false ∧
    (s none).recordBad 1 (copyCmd none) = none ∧ thr.status ≠ .exited ∧ Tab.find (s none).threads 1024 = some thr ∧
    lineRec.src = BitVec.ofNat 64 (0xF0 * 2 ^ 56 + 0) ∧ lineRec.dst = BitVec.ofNat 64 (0xF0 * 2 ^ 56 + 65472) ∧ 65472 % 64 = 0 ∧
    65472 + lineRec.rowBytes ≤ ((s none).ctx 1).header.scratch ∧ ((s none).ctx 1).header.scratch ≤ 524288 ∧
    -- a record of zeros has no rows
    (s none).checkCopy 1 (copyCmd none) (CopyRec.of ((s none).readPlace (.spad 1 ((copyCmd none).recAddr.toNat % 2 ^ 56)) 64)) = some 3 := by
  decide +kernel

/-- A ring of one slot at offset 0, its slot's words given. -/
def ringSt (expected arrived flags : Nat) (cmd : List CopyCmd) (q : List RingOp) : State :=
  let l := natBytes 4 1 ++ natBytes 12 0 ++ natBytes 4 expected ++ natBytes 4 arrived ++ natBytes 4 flags
  let b : Block := { probeBlock with spad := Store.writes (w := 8) [] 0 l, copyQ := cmd }
  { st with blocks := [(1, b)], ringQ := q }

/-- One byte short of the bytes expected after a credit, an arrival and a release; a wait for either parity. -/
theorem test_meets_RingSlots :
    let cmd : CopyCmd := { copyCmd (some { lineRec with flags := 1 }) with uncredited := [(0, 0)] }
    let s := ringSt 65 0 0 [cmd] []
    let op := fun (k : RingKind) (v : Nat) => ({ thread := 1024, off := 16, kind := k, value := v, tok := some 0, pc := 0 } : RingOp)
    (((s.block 1).copyQ.find? fun y => y.n == 1) = some cmd ∧ (cmd.uncredited.find? fun x => x.1 == 0) = some (0, 0) ∧ s.waitersHeldUp 1 = false ∧
      cmd.record = some { lineRec with flags := 1 } ∧ s.enginesRun 1 = true ∧ s.gangBlock 1 0 = 1 ∧ s.placeBad (.spad 1 0) 4 = false ∧ s.placeBad (.spad 1 16) 16 = false ∧ Tab.find s.blocks 1 ≠ none ∧
      0 < s.ringWord 1 0 % 128 ∧ s.ringWord 1 24 / 2 % 2 = 0 ∧
      s.ringWord 1 20 + (min ({ lineRec with flags := 1 } : CopyRec).total 4096 - 0) < s.ringWord 1 16) ∧
    (let x := ringSt 8 4 0 [] [op .arrive 3]
     x.ringQ[0]? = some (op .arrive 3) ∧ (∀ q ∈ x.ringQ.take 0, q.thread ≠ 1024) ∧ x.waitersHeldUp 1 = false ∧ x.ringWord 1 24 / 2 % 2 = 0 ∧ x.ringWord 1 20 + 3 < x.ringWord 1 16 ∧ x.placeBad (.spad 1 16) 16 = false ∧
       Tab.find x.threads 1024 = some thr) ∧
    (let x := ringSt 0 4 0 [] [op .release 5]
     x.ringQ[0]? = some (op .release 5) ∧ x.ringWord 1 16 = 0 ∧ x.ringWord 1 20 < 5 ∧ 5 < 2 ^ 32) ∧
    (let x := ringSt 0 0 1 [] [op .wait 0]
     x.ringQ[0]? = some (op .wait 0) ∧ (op .wait 0).value ≤ 1 ∧ (op .wait 0).value ≠ x.ringWord 1 24 % 2 ∧ x.ringWord 1 24 / 2 % 2 = 0) ∧
    (let x := ringSt 0 0 1 [] [op .wait 1]
     x.ringQ[0]? = some (op .wait 1) ∧ (op .wait 1).value = x.ringWord 1 24 % 2) := by decide +kernel

/-- A thread of a wave with an allocation, in a core with other waves that hold so many registers each. -/
def regSt (alloc : Nat) (others : Nat) (t : Thread) : State :=
  { base with threads := (1024, t) :: (List.range others).map (fun i => (1024 + 32 * (i + 1), thr)), waves := (32, { probeWave with alloc := alloc }) :: (List.range others).map fun i => (33 + i, { probeWave with alloc := 512 }) }

/-- The window bases 496 and 512; targets that the header forbids, that the wave has, that fit and that do not; a release that must wait for a
result, one whose d goes, and one that is done. -/
theorem test_meets_RegisterAllocation :
    let w := fun (n : Nat) => { probeWave with alloc := n }
    let busy : Thread := { thr with pend := [{ order := 0, dests := [.v 200], vals := none, flags := 0, traps := false, fault := none, pc := 0 }] }
    (∀ s ∈ [regSt 512 0 thr, regSt 128 0 thr, regSt 128 10 thr], canonB s = true) ∧
    Tab.find (regSt 512 0 thr).waves (waveKey 1024) = some (w 512) ∧ (w 512).alloc ≤ 512 ∧
    (∀ a ∈ [Src.lit32 496, .lit32 512, .lit32 8], issuesB (regSt 512 0 thr) thr (Req.any [fa a 1]) = true) ∧
    (∀ s ∈ [regSt 512 0 thr, regSt 128 0 thr, regSt 128 10 thr, regSt 512 0 busy], s.groupOf 1024 = some (1, probeGroup) ∧
      s.waitsOff 1024 thr = false) ∧ probeGroup.members = [1024] ∧ probeGroup.todo = [1024] ∧
    (496 % 16 = 0 ∧ 496 ≤ 496) ∧ ¬(512 % 16 = 0 ∧ 512 ≤ 496) ∧
    (∀ a ∈ [Src.lit32 127, .lit32 128, .lit32 192, .lit32 512], issuesB (regSt 512 0 thr) thr (Req.any [fd (.v 4) 1, fa a 1]) = true ∧
      issuesB (regSt 128 0 thr) thr (Req.any [fd (.v 4) 1, fa a 1]) = true ∧ issuesB (regSt 128 10 thr) thr (Req.any [fd (.v 4) 1, fa a 1]) = true) ∧
    (let h := ((regSt 128 0 thr).ctxOf 1024).header
     ¬(h.base ≤ 127) ∧ (h.base ≤ 512 ∧ (512 - h.base) % 64 = 0 ∧ 512 ≤ h.max) ∧ (h.base ≤ 192 ∧ (192 - h.base) % 64 = 0)) ∧
    (Tab.getD (regSt 128 0 thr).racqs 0 [] = [] ∧ (regSt 128 0 thr).extension 0 + (512 - 128) / 64 ≤ 64) ∧
    (Tab.getD (regSt 128 10 thr).racqs 0 [] = [] ∧ 64 < (regSt 128 10 thr).extension 0 + (512 - 128) / 64) ∧
    (∀ r, tokReg (.v 4) 0 = some r → r < 192) ∧ (regSt 512 0 thr).regsBusy 1024 thr 192 512 = false ∧
    (regSt 512 0 busy).regsBusy 1024 busy 192 512 = true ∧ issuesB (regSt 512 0 busy) busy (Req.any [fd (.v 4) 1, fa (.lit32 192) 1]) = true ∧
    (let x : Thread := { thr with wb := 192 }
     issuesB (regSt 512 0 x) x (Req.any [fd (.v 4) 1, fa (.lit32 192) 1]) = true ∧ tokReg (.v 4) x.wb.toNat = some 196 ∧ 192 ≤ 196) :=
  join8 (by decide +kernel) ⟨by decide +kernel, by decide +kernel, by decide +kernel, by decide +kernel, by decide +kernel,
    fun r h => by simp [tokReg] at h; omega, by decide +kernel⟩

theorem test_meets_HandlerRegisters :
    inside.inHandler = true ∧ Tab.find (at_ inside).waves (waveKey 1024) = some probeWave ∧
    (∀ n ∈ [1, 2], issuesB (at_ inside) inside (Req.any [fd (.v 4) n]) = true) ∧ issuesB (at_ inside) inside (Req.any [fa (.v 4) 1]) = true ∧
    issuesB (at_ inside) inside (Req.any [fa (.v 4) 2]) = true := by decide +kernel

/-- A module whose page holds an empty message queue of 16 slots and, behind it, the descriptors of three ranges: the page itself, a page that is
not mapped, and one beyond the address space. -/
def msgSt (produced : Nat) (t : Thread) : State :=
  { at_ t with
    asids := [(1, { probeAsid with msgQueue := some (0x80_0001_0000, 4), produced := produced })]
    mem := Store.writes (w := 8) (Store.writes (w := 8) (Store.writes (w := 8) base.mem 0x60_1000 (natBytes 8 0x80_0001_0000 ++ natBytes 8 65536))
      0x60_1010 (natBytes 8 0x80_0003_0000 ++ natBytes 8 1)) 0x60_1020 (natBytes 8 (2 ^ 57) ++ natBytes 8 1) }

/-- A post with room, to a full queue, of a message that is misaligned and of one that cannot be read; prefaults of the three ranges, and of a
descriptor that cannot be read. -/
theorem test_meets_Services :
    let w := fun (n : BitVec 7) (a : Pair) => ({ thr with status := .waiting (.sysc n a [.v 4]) 0 } : Thread)
    let s := fun (p : Nat) (n : BitVec 7) (a : Pair) => msgSt p (w n a)
    (∀ e ∈ [(0, 1, 0x80_0001_0800), (16, 1, 0x80_0001_0800), (0, 1, 0x80_0001_0801), (0, 1, 0x80_0003_0000), (0, 2, 0x80_0001_1000),
        (0, 2, 0x80_0001_1010), (0, 2, 0x80_0001_1020), (0, 2, 0x80_0003_0000)],
      let x := s e.1 e.2.1 e.2.2
      Tab.find x.threads 1024 = some (w e.2.1 e.2.2) ∧ (Tab.find x.asids (x.ctxOf 1024).asid).isSome = true ∧ x.syscBad 1 e.2.1 e.2.2.toNat = none) ∧
    (let r := (s 0 1 0x80_0001_0800).fwRead 1 (0x80_0001_0000 + 8) 8
     let m := r.1.fwRead 1 0x80_0001_0800 64
     let x := m.1.fwWrite 1 (0x80_0001_0000 + 64) (m.2.getD [])
     r.2 = some (natBytes 8 0) ∧ 0 - min (natOf (natBytes 8 0)) 0 ≠ 2 ^ 4 ∧ 16 - min (natOf (natBytes 8 0)) 16 = 2 ^ 4 ∧ m.2.isSome = true ∧
       x.2 = true ∧ (x.1.fwWrite 1 0x80_0001_0000 (natBytes 8 1)).2 = true ∧ (r.1.fwRead 1 0x80_0003_0000 64).2 = none) ∧
    0x80_0001_0801 % 64 ≠ 0 ∧
    ((s 0 2 0).fwRead 1 0x80_0001_1000 16).2 = some (natBytes 8 0x80_0001_0000 ++ natBytes 8 65536) ∧
    ((s 0 2 0).fwRead 1 0x80_0001_1010 16).2 = some (natBytes 8 0x80_0003_0000 ++ natBytes 8 1) ∧
    ((s 0 2 0).fwRead 1 0x80_0001_1020 16).2 = some (natBytes 8 (2 ^ 57) ++ natBytes 8 1) ∧ ((s 0 2 0).fwRead 1 0x80_0003_0000 16).2 = none ∧
    (match (s 0 2 0).leafOf 1 0x80_0001_0000 with | .leaf _ e _ => bit e 1 | _ => false) = true ∧
    (match (s 0 2 0).leafOf 1 0x80_0003_0000 with | .leaf _ _ _ => false | _ => true) = true := by decide +kernel

/-- A thread that waits for the system controller, and one whose address space has no message queue; a debug session and none. -/
theorem test_meets_SystemServices :
    let w := fun (n : BitVec 7) => ({ thr with status := .waiting (.sysc n 0 [.v 4]) 0 } : Thread)
    let dbg : State := { st with asids := [(1, { probeAsid with debug := true })] }
    inRelaunch st = false ∧ st.homeQ = [] ∧ st.bankQ = [] ∧ issuesB st thr (Req.any [fd (.v 4) 1]) = true ∧
    issuesB st thr (Req.any [fd (.v 4) 1, fa (.v 0) 2]) = true ∧ issuesB st thr (Req.release [fd (.v 4) 1, fa (.v 0) 2]) = true ∧
    (∀ n ∈ [(0 : BitVec 7), 1], Tab.find (at_ (w n)).threads 1024 = some (w n) ∧ (w n).status = .waiting (.sysc n 0 [.v 4]) 0) ∧
    Tab.find (at_ (w 1)).asids ((at_ (w 1)).ctxOf 1024).asid = some probeAsid ∧ (at_ (w 0)).syscBad 1 0 0 = none ∧ (at_ (w 1)).syscBad 1 1 0 = none ∧ probeAsid.msgQueue = none ∧
    (∀ s ∈ [st, dbg], issuesB s thr (Req.any [fd (.v 4) 1, fa (.v 6) 1]) = true) ∧ st.debugged 1024 = false ∧ dbg.debugged 1024 = true ∧
    dbg.host.evPosted.toNat - dbg.host.evAck.toNat < 256 ∧ Tab.find dbg.ctxs (dbg.block (blkOf 1024)).ctx = some probeCtx ∧
    probeCtx.state = .running ∧ probeCtx.held = false := by decide +kernel

/-- The header of the probe's kernel, as bytes of the page. -/
def headerBytes : List Byte :=
  natBytes 4 0x314B5950 ++ natBytes 2 1 ++ natBytes 2 0 ++ natBytes 2 128 ++ natBytes 2 512 ++ natBytes 4 65536 ++ natBytes 1 0 ++ natBytes 1 1 ++
    natBytes 2 0 ++ natBytes 12 0 ++ natBytes 12 7 ++ natBytes 20 0

/-- A thread that spawns the kernel whose header stands in its page. -/
def spawnThr : Thread := { thr with regs := Store.writes (w := 32) [] 0 [0x10000, 0x80, 0, 0, 0, 0, 0, 0] }

def spawnSt (l : List Byte) : State := { at_ spawnThr with mem := Store.writes (w := 8) base.mem 0x60_0000 l }

/-- A header of zeros and a valid one, a single wave and a pool that holds just the task. -/
theorem test_meets_Spawns :
    let x := fun (l : List Byte) => ((spawnSt l).l1Flush ((spawnSt l).coreOf 1024) 1).locate ((spawnSt l).agent 1024) 0x80_0001_0000 64 64 Need.load true
    (∀ l ∈ [[], headerBytes], issuesB (spawnSt l) spawnThr (Req.release [fd (.v 12) 1, fa (.v 0) 4, fb (.v 4) 4]) = true ∧
      (spawnSt l).homeQ = [] ∧ (spawnSt l).bankQ = [] ∧ (x l).1.badAt 1024 (.mem 0x60_0000) 64 = false ∧ isPlace (x l).2 (.mem 0x60_0000) = true ∧
      Tab.find (spawnSt l).launches ((spawnSt l).ctxOf 1024).launch = some probeLaunch ∧ Tab.find (spawnSt l).asids probeLaunch.asid = some probeAsid) ∧
    (Src.v 0).get128 spawnThr = [BitVec.ofNat 32 ((0x80_0001_0000 : Pair).toNat + 0), (0x80_0001_0000 : Pair).extractLsb' 32 32, 0, 0] ∧
    parseHeader ((x []).1.loadAt 1024 (.mem 0x60_0000) 64).2 = none ∧
    (match parseHeader ((x headerBytes).1.loadAt 1024 (.mem 0x60_0000) 64).2 with
      | some h => decide (0 + 1 ≤ h.waves) | none => false) = true ∧
    ((spawnSt headerBytes).ctxOf 1024).header.relaunch = false ∧ 0 + 1 ≤ (probeLaunch.threads + 31) / 32 ∧
    (∀ i, i < 6 → idField probeLaunch.widths 0 i = 0 ∧ idField probeLaunch.widths 0 i < probeLaunch.extents.getD i 1) ∧
    probeLaunch.killed = false ∧ probeAsid.ctxUsed + 64 ≤ probeAsid.ctxPool := by decide +kernel

/-! ### Launches, tasks and phases -/

/-- A packet of one gang of one thread, of the kernel whose header stands in the page. -/
def packet : List Byte :=
  natBytes 8 0x80_0001_0000 ++ natBytes 24 0 ++ ((List.range 6).flatMap fun _ => natBytes 4 1) ++ natBytes 8 0 ++ natBytes 2 1 ++ natBytes 2 0 ++
    natBytes 2 1 ++ natBytes 58 0

/-- A launch queue window whose next slot is its last. -/
def queue : LaunchQ :=
  { asid := 1, maxPrio := 7, va := 0x80_0004_0000, pa := 0x70_0000, die := 0, bytes := [], written := [], next := 511, accepted := 0, overruns := 0,
    collective := false, owners := [], closed := false }

def queueSt : State := { spawnSt headerBytes with queues := [(5, queue)] }

def queueFull : LaunchQ :=
  queue.write ((packet.zipIdx).filterMap fun (b, i) => if 65408 + i < 65536 then some (65408 + i, b) else none) none

/-- The check of the packet in the queue's last slot. -/
def packetCheck : State × Except Nat Header :=
  State.checkPacket { queueSt with queues := Tab.put queueSt.queues 5 queueFull } queueFull packet (parsePacket packet (BitVec.ofNat 32 (probeAsid.launches + 1)) 0)

/-- The header that it finds. -/
def packetHeader : Header := match packetCheck.2 with | .ok h => h | .error _ => probeHeader

theorem pair_eq {α β : Type} {x : α × β} {b : β} (h : x.2 = b) : x = (x.1, b) := by rw [← h]

theorem packet_population (s : State) (q : LaunchQ) (b : List Byte) (l : Launch) (x : Option Nat) :
    State.checkPacket s q b { l with population := x } = State.checkPacket s q b l := rfl

theorem test_meets_LaunchEvents_accept :
    Tab.find queueSt.queues 5 = some queue ∧ queue.collective = false ∧ queue.closed = false ∧ packet.length = 128 ∧ queue.next < 512 ∧
    Tab.find queue.written queue.next = none ∧ Tab.find queueSt.asids queue.asid = some probeAsid ∧ queueFull.full ((queue.next + 1) % 512) = false ∧
    (∀ l' : Launch, l' = { parsePacket packet (BitVec.ofNat 32 (probeAsid.launches + 1)) 0 with population := l'.population } →
      State.checkPacket { queueSt with queues := Tab.put queueSt.queues 5 queueFull } queueFull packet l' = (packetCheck.1, .ok packetHeader)) ∧
    packetCheck.1.queues = Tab.put queueSt.queues 5 queueFull ∧ packetCheck.1.starved = false := by
  refine join8 (by decide +kernel) ⟨fun l' e => ?_, by decide +kernel⟩
  rw [e, packet_population, ← packetCheck]
  have h : (match packetCheck.2 with | .ok _ => true | .error _ => false) = true := by decide +kernel
  have k : packetCheck.2 = .ok packetHeader := by
    unfold packetHeader
    generalize packetCheck.2 = x at h ⊢
    cases x with
    | ok g => rfl
    | error _ => cases h
  exact pair_eq k

/-- A gang that is to be placed, one that fits no cluster, a queued task, tasks of a core's neighbours, a task to take, and the end of a launch
with and without a completion address. -/
theorem test_meets_LaunchEvents :
    let u : Task := { probeTask with unassigned := true }
    let big : Task := { u with header := { probeHeader with scratch := 2 ^ 20 } }
    let s := fun (t : Task) => ({ st with tasks := [(7, t)] } : State)
    let f : State := { s big with fenced := [0, 1, 2] }
    let fin : Launch := { probeLaunch with open_ := 0 }
    let done : Launch := { fin with completion := 0x80_0001_0000 }
    let e := fun (l : Launch) => ({ st with launches := [(1, l), (2, probeLaunch)] } : State)
    let x := State.fwReach ((e done).l1FlushCores 1 fun _ => true) 1 0 0x80_0001_0000 8 Need.store
    (Tab.find (s u).tasks 7 = some u ∧ Tab.find (s u).launches u.launch = some probeLaunch ∧ (s u).gangTurn 7 u = true ∧
      (s u).coresFit u [1] = true ∧ u.unassigned = true ∧ (s u).poolFits probeLaunch.asid u = true ∧ u.kind = .gang 0 ∧ probeLaunch.threads ≤ 1024 ∧
      u.header.waves ≤ 32) ∧
    (f.gangTurn 7 big = true ∧ f.coresFit big [767] = false ∧ big.unassigned = true ∧ (∀ c, c < 16 → f.fitIn big c = none) ∧
      f.coreCould 767 big.waves = true ∧ f.clusterCould (clusterOf 767) big.waves big.blocks = true) ∧
    ((s probeTask).firstTask ((s probeTask).readyQueue 0) = some (7, probeTask) ∧ (s probeTask).coresFit probeTask [0] = true ∧
      (s probeTask).poolFits probeLaunch.asid probeTask = true ∧ Tab.rising (s probeTask).tasks = true) ∧
    ((s probeTask).levelled = true ∧ 1 < 768 ∧ (s probeTask).readyQueue 1 = [] ∧ (s probeTask).freeSlots 1 ≠ [] ∧
      (s probeTask).fenced.contains (dieOf 1) = false ∧
      (s probeTask).stealFrom ((List.range 768).filter fun c => clusterOf c == clusterOf 1) (fun _ => true) = some 7) ∧
    (Tab.find (e fin).launches 1 = some fin ∧ fin.open_ = 0 ∧ 2 ≠ 1 ∧ Tab.find (e fin).launches 2 = some probeLaunch ∧ probeLaunch.asid = fin.asid ∧
      fin.completion = 0 ∧ done.completion ≠ 0 ∧ done.completion.toNat % 8 = 0 ∧ fin.quiet = false ∧ st.starved = false) ∧
    (x = (x.1, .ok 0x60_0000) ∧ x.1.launches = (e done).launches ∧ x.1.starved = false ∧ ∀ q, x.1.queueAt q = none) := by
  refine ⟨by decide +kernel, by decide +kernel, by decide +kernel, by decide +kernel, by decide +kernel, Prod.ext rfl ?_, by decide +kernel, by decide +kernel,
    queueAt_nil (by decide +kernel)⟩
  have h : (match (State.fwReach (({ st with launches := [(1, { probeLaunch with open_ := 0, completion := 0x80_0001_0000 }), (2, probeLaunch)] } :
      State).l1FlushCores 1 fun _ => true) 1 0 0x80_0001_0000 8 Need.store).2 with | .ok p => decide (p = 0x60_0000) | .error _ => false) = true := by
    decide +kernel
  generalize (State.fwReach (({ st with launches := [(1, { probeLaunch with open_ := 0, completion := 0x80_0001_0000 }), (2, probeLaunch)] } :
      State).l1FlushCores 1 fun _ => true) 1 0 0x80_0001_0000 8 Need.store).2 = y at h ⊢
  cases y with
  | ok p => rw [show p = 0x60_0000 by simpa using h]
  | error _ => cases h

/-- Threads that have exited; one that has arrived at `phend`; a discarded context; one that runs, one that stops and one that is out. -/
theorem test_meets_PhaseEvents :
    let gone : Thread := { thr with status := .exited }
    let ph : Thread := { thr with status := .waiting .phend 0, arrivals := [(32, 0x80_0000_0040)] }
    let c := fun (x : CtxState) => { probeCtx with state := x }
    let s := fun (t : Thread) (x : CtxState) => ({ at_ t with ctxs := [(1, c x)] } : State)
    (∀ t ∈ [gone, ph], Tab.find (s t .running).ctxs 1 = some (c .running) ∧ (s t .running).homeQ = [] ∧ (s t .running).bankQ = [] ∧
      (s t .running).enginesIdle 1 = true ∧ (s t .running).commitBad 1 (c .running).header.carry = false ∧ (s t .running).ctxThreads 1 = [(1024, t)] ∧ t.pend = [] ∧ t.due = [] ∧ t.toks = []) ∧
    (c .running).header.relaunch = false ∧ gone.status = .exited ∧ Tab.find (s gone .running).launches (c .running).launch = some probeLaunch ∧
    (ph.status = .waiting .phend 0 ∧ Tab.find ph.arrivals phendKey = some (0x80_0000_0040 : Pair).toNat ∧ ph.status ≠ .exited ∧
      Tab.find (s ph .running).asids 1 = some probeAsid ∧
      Tab.find (s ph .running).launches (c .running).launch = some probeLaunch ∧ probeLaunch.killed = false ∧
      probeAsid.ctxUsed + (([1].filter fun b => ((s ph .running).blockThreads b).any fun e => e.2.status != .exited).map fun b =>
        (s ph .running).phaseRecord (c .running) b (0x80_0000_0040 + 4)).foldl (fun n r => n + r.length) 0 ≤ probeAsid.ctxPool) ∧
    (Tab.find (s thr .discarded).ctxs 1 = some (c .discarded) ∧
      ((((List.range 4).map fun i => 4 * (c .discarded).die + i).filter (· != (c .discarded).cluster)).findSome?
        ((s thr .discarded).fitIn (c .discarded).origin)) = some [48] ∧ 1 ≤ (c .discarded).origin.blocks ∧
      Tab.find (s thr .discarded).launches (c .discarded).launch = some probeLaunch) ∧
    (Tab.find (s thr .stopping).ctxs 1 = some (c .stopping) ∧ (s thr .stopping).homeQ = [] ∧ (s thr .stopping).bankQ = [] ∧
      (∀ e ∈ (s thr .stopping).ctxThreads 1, e.2.pend = []) ∧ Tab.find (s thr .stopping).blocks 1 ≠ none) ∧
    (Tab.find (s thr .out).ctxs 1 = some (c .out) ∧ (c .out).held = false ∧ (c .out).blocks = [1] ∧ 1 ≠ 0 ∧ Tab.find (s thr .out).blocks 1 ≠ none ∧ dieOf 191 = (c .out).die ∧
      (s thr .out).coresFit { (c .out).origin with blocks := 1 } [191] = true ∧ (s thr .out).keptFits (c .out) [191] = true) := by decide +kernel

/-! ### The fabric and populations -/

/-- A window of 64 bytes at the start of the page. -/
def window : Window := { asid := 1, base := 0x80_0001_0000, len := 64, canPut := true, canGet := true, origin := 3, target := 5 }

def upPort : Port := { up := true, retraining := false, expect := 7, fails := 0, asked := none, inbox := [], seqOut := 0, room := [], queued := [], kept := [], wire := [], lane := 0 }

/-- A module of a domain with member 511, one port up and one window. -/
def fabricSt (t : Thread) (domain : List Nat) : State :=
  { at_ t with module := some 0, domain := domain, ports := [(0, upPort)], windows := [(4095, window)] }

/-- A thread whose quad names the end of its scratchpad, a length, module 511 and handle 4,095. -/
def putThr (p len : Nat) : Thread :=
  { thr with regs := Store.writes (w := 32) [] 0 [BitVec.ofNat 32 p, 0xF0000000, BitVec.ofNat 32 len, BitVec.ofNat 32 (511 + 65536 * 4095)] }

theorem test_meets_PutsAndGets :
    let addr := fun (p : Nat) => BitVec.ofNat 64 (0xF0 * 2 ^ 56 + p)
    (∀ d ∈ [[], [511]], ∀ x ∈ [(65472, 64), (65408, 128)], canonB (fabricSt (putThr x.1 x.2) d) = true ∧ inRelaunch (fabricSt (putThr x.1 x.2) d) = false ∧
      (fabricSt (putThr x.1 x.2) d).homeQ = [] ∧ (fabricSt (putThr x.1 x.2) d).bankQ = [] ∧
      Tab.find (fabricSt (putThr x.1 x.2) d).asids ((fabricSt (putThr x.1 x.2) d).ctxOf 1024).asid = some probeAsid ∧
      issuesB (fabricSt (putThr x.1 x.2) d) (putThr x.1 x.2) (Req.release [ftok (.v 8) 2, fa (.v 0) 4, fb .z 2]) = true ∧
      issuesB (fabricSt (putThr x.1 x.2) d) (putThr x.1 x.2) (Req.release [ftok (.v 8) 2, fa (.v 0) 4]) = true ∧
      (Src.v 0).get128 (putThr x.1 x.2) = [(addr x.1).extractLsb' 0 32, (addr x.1).extractLsb' 32 32, BitVec.ofNat 32 x.2, BitVec.ofNat 32 (511 + 65536 * 4095)] ∧
      x.1 % 64 = 0 ∧ x.1 + x.2 ≤ 65536 ∧ localOk (addr x.1).toNat = true ∧
      (fabricSt (putThr x.1 x.2) d).placeBad (.spad 1 x.1) x.2 = false) ∧
    (fabricSt thr [511]).domain.contains 511 = true ∧ (fabricSt thr []).domain.contains 511 = false ∧ (fabricSt thr []).module ≠ some 511 ∧
    (fabricSt thr [511]).upPorts 0 ≠ [] ∧ (fabricSt thr []).windowOf 1 4095 ≠ none ∧ ((fabricSt thr []).ctxOf 1024).header.scratch = 65536 := by
  decide +kernel

/-- A counter reached and one short of it; a handle without a window; a wait longer than the time-out. -/
theorem test_meets_WindowCounters :
    let s := fabricSt thr []
    let w : Thread := { thr with stall := some (.wcnt 4095, 0) }
    let l : State := { at_ w with clock := clocksOf probeHeader.timeout + 1 }
    Tab.find s.windows 4095 = some window ∧ window.asid = (s.ctxOf s.cur).asid ∧
    (∀ a ∈ [Src.lit32 4095, .lit32 4094], issuesB s thr (Req.any [fd (.v 4) 2, fa a 1]) = true ∧
      (∀ b ∈ [Src.lit64 3, .lit64 4], issuesB s thr (Req.any [fd (.v 4) 2, fa a 1, fb b 2]) = true)) ∧
    ((Src.lit64 3).get64 s s.cur thr).toNat ≤ window.origin.toNat ∧ window.origin.toNat < ((Src.lit64 4).get64 s s.cur thr).toNat ∧
    Tab.find s.windows 4094 = none ∧ Tab.find l.threads 1024 = some w ∧ w.stall = some (.wcnt 4095, 0) ∧
    clocksOf (l.ctxOf 1024).header.timeout < l.clock - 0 := by decide +kernel

/-- A place that firmware finds. -/
theorem reached {s : State} {asid die va n pa : Nat} {d : Need}
    (e : (match (s.fwReach asid die va n d).2 with | .ok p => decide (p = pa) | .error _ => false) = true) :
    s.fwReach asid die va n d = ((s.fwReach asid die va n d).1, .ok pa) := pair_eq (by
  generalize (s.fwReach asid die va n d).2 = y at e ⊢
  cases y with
  | ok p => rw [show p = pa by simpa using e]
  | error _ => cases e)

/-- A put (kind 0) and a get (kind 1) of 64 bytes that wait for their reply. -/
def fabTx (kind : Nat) : FabricTx :=
  { thread := 1024, die := 0, asid := 1, tok := 8, pc := 0, n := 1, kind := kind, local_ := 0, len := 64, module := 511, handle := 4095, offset := 0,
    sent := true, port := 0, stalled := none, fault := none, data := none }

/-- Transactions without a window, without the right, past the segment's end and up to it; replies to a put and a get. -/
theorem test_meets_FabricMessages :
    let s := fabricSt thr []
    let x := fun (h o n : Nat) => ({ origin := 511, handle := h, offset := o, len := n, bytes := List.replicate n 1 } : PeerTx)
    let ro : State := { s with windows := [(4095, { window with canPut := false, canGet := false })] }
    let r := s.fwReach 1 0 (0x80_0001_0000 + 32) (min 32 64) Need.engineWrite
    s.starved = false ∧ r.1.starved = false ∧ (∀ n ∈ [32, 33], (x 4095 32 n).bytes.length = (x 4095 32 n).len) ∧ Tab.find s.windows 4094 = none ∧
    (Tab.find ro.windows 4095 = some { window with canPut := false, canGet := false }) ∧
    (Tab.find s.windows 4095 = some window ∧ window.canPut = true ∧ window.canGet = true ∧ window.len < 32 + 33 ∧ 32 + 32 ≤ window.len) ∧
    ((window.base.toNat + 32) % 65536 + 32 ≤ 65536 ∧ r = (r.1, .ok 0x60_0020) ∧ (∀ q, r.1.queueAt q = none) ∧ r.1.windows = s.windows) ∧
    (natBytes 128 0).length = 128 ∧ Tab.find s.queues 0 = none ∧ s.Canonical ∧
    (∀ k ∈ [0, 1], Tab.find ({ s with txs := [(9, fabTx k)] } : State).txs 9 = some (fabTx k)) ∧ (fabTx 0).sent = true ∧ (fabTx 0).data = none ∧ (fabTx 0).fault = none ∧ (fabTx 0).kind = 0 ∧
    (fabTx 1).kind = 1 ∧ thr.status ≠ .exited ∧ 6 ≤ (6 : BitVec 8).toNat :=
  ⟨by decide +kernel, by decide +kernel, by decide +kernel, by decide +kernel, by decide +kernel, by decide +kernel,
    ⟨by decide +kernel, reached (by decide +kernel), queueAt_nil (by decide +kernel), by decide +kernel⟩, by decide +kernel, by decide +kernel,
    canon_of (by decide +kernel), by decide +kernel⟩

/-- A packet's slot in a queue whose next slot is its last, and in one where a byte of that slot is written already. -/
def peerQ : List LaunchQ := [queue, { queue with written := [(511, 1)] }]

def peerSt (q : LaunchQ) : State := { queueSt with queues := [(5, q)], access := [(0, 0x30_0100_5200)] }

/-- A get of the last half of the window; the data of a get at the end of the scratchpad; a packet for the next slot, and for the one behind a
slot that is not complete. -/
theorem test_meets_FabricEffects :
    let s := fabricSt thr []
    let r := s.fwReach 1 0 (0x80_0001_0000 + 32) (min 32 64) Need.engineRead
    let tx : FabricTx := { fabTx 1 with local_ := BitVec.ofNat 64 (0xF0 * 2 ^ 56 + 65472) }
    let g : State := { s with txs := [(9, tx)] }
    let filled := fun (q : LaunchQ) (slot : Nat) => q.write ((packet.zipIdx).map fun (x, m) => (128 * slot + m, x)) none
    let last := ({ (peerSt queue) with queues := [(5, filled queue 511)] } : State).acceptSlot 5 (filled queue 511)
    (Tab.find s.windows 4095 = some window ∧ window.canGet = true ∧ 32 + 32 ≤ window.len ∧
      (window.base.toNat + 32) % 65536 + 32 ≤ 65536 ∧ r = (r.1, .ok 0x60_0020) ∧ r.1.poisoned 0x60_0020 32 = false) ∧
    (g.Canonical ∧ Tab.find g.txs 9 = some tx ∧ tx.kind = 1 ∧ tx.sent = true ∧ tx.data = none ∧ tx.fault = none ∧ (natBytes 64 7).length = tx.len ∧
      Tab.find g.blocks (blkOf tx.thread) = some probeBlock ∧ 65472 + tx.len ≤ (g.ctx probeBlock.ctx).header.scratch ∧
      (g.ctx probeBlock.ctx).header.scratch ≤ 524288 ∧ Tab.find g.windows tx.handle = some window ∧ Tab.find g.threads tx.thread = some thr) ∧
    (packet.length = 128 ∧ (∀ q ∈ peerQ, Tab.find (peerSt q).queues 5 = some q ∧ q.closed = false ∧ q.collective = false ∧
        aclAdmits 0x30_0100_5200 511 5 q.asid = true ∧ (0, 0x30_0100_5200) ∈ (peerSt q).access ∧
        Tab.find q.written 0 = none) ∧
      Tab.find queue.written 511 = none ∧ Tab.find (peerQ.getD 1 queue).written 511 ≠ none ∧
      (filled (peerQ.getD 1 queue) 0).full 511 = false ∧
      (match last with | some x => !x.starved && (match Tab.find x.queues 5 with | some q => !q.full q.next | none => false) | none => false) = true) := by
  refine ⟨⟨by decide +kernel, by decide +kernel, by decide +kernel, by decide +kernel, reached (by decide +kernel), by decide +kernel⟩,
    ⟨canon_of (by decide +kernel), by decide +kernel⟩, by decide +kernel⟩

/-- A flit of zeros but for its sequence number, with its check. -/
def flit (n : BitVec 16) : BitVec 2048 := crc32c (bytesOf 252 (n.zeroExtend 2048)) ++ n.zeroExtend 2016

theorem flit_check (n : BitVec 16) : crc32c (bytesOf 252 (flit n)) = (flit n).extractLsb' 2016 32 := by
  unfold flit
  generalize hc : crc32c (bytesOf 252 (n.zeroExtend 2048)) = c
  have h : bytesOf 252 (c ++ n.zeroExtend 2016) = bytesOf 252 (n.zeroExtend 2048) := by
    refine List.map_congr_left fun i hi => BitVec.eq_of_getLsbD_eq fun j hj => ?_
    have hi : i < 252 := by simpa using hi
    rw [BitVec.getLsbD_extractLsb', BitVec.getLsbD_extractLsb', BitVec.getLsbD_append, if_pos (by omega), BitVec.getLsbD_setWidth,
      BitVec.getLsbD_setWidth, decide_eq_true (by omega : 8 * i + j < 2016), decide_eq_true (by omega : 8 * i + j < 2048)]
  rw [h, hc]
  refine BitVec.eq_of_getLsbD_eq fun j hj => ?_
  rw [BitVec.getLsbD_extractLsb', BitVec.getLsbD_append, if_neg (by omega), show 2016 + j - 2016 = j by omega, decide_eq_true hj, Bool.true_and]

theorem flit_seq (n : BitVec 16) : (flit n).extractLsb' 0 16 = n := by
  refine BitVec.eq_of_getLsbD_eq fun j hj => ?_
  rw [flit, BitVec.getLsbD_extractLsb', BitVec.getLsbD_append, if_pos (by omega), BitVec.getLsbD_setWidth, decide_eq_true hj,
    decide_eq_true (by omega : 0 + j < 2016), Nat.zero_add, Bool.true_and, Bool.true_and]

/-- A link that is up, one in training, and one after 16 failures; a right flit and a wrong one. -/
theorem test_meets_Links :
    Tab.find (fabricSt thr []).ports 0 = some upPort ∧ upPort.up = true ∧ upPort.retraining = false ∧
    (crc32c (bytesOf 252 (flit 7)) = (flit 7).extractLsb' 2016 32 ∧ (flit 7).extractLsb' 0 16 = upPort.expect) ∧
    ({ upPort with asked := some (9, 16) } : Port).asked = some (9, 16) ∧
    ¬((flit 7).extractLsb' 0 16 = ({ upPort with expect := 8 } : Port).expect) ∧ 16 ≤ ({ upPort with fails := 16 } : Port).fails ∧
    ({ upPort with retraining := true } : Port).retraining = true := by
  rw [flit_seq]
  exact ⟨by decide +kernel, by decide, by decide, ⟨flit_check 7, by decide⟩, by decide, by decide, by decide, by decide⟩

/-- A population of two particles. -/
def pop : Population :=
  { asid := 1, n := 2, members := [(0, 0)], seed := 9, a := 1, theta := 0, cutPolicy := true, deadline := 10, period := 0, budget := 1, base := 0x80_0010_0000,
    k := 0, priority := 0, z := 0, index := 0, state := .running, demoted := false, recomp := false, cutrun := false, test := false, extinct := false,
    lastrs := false, essfail := false, zsat := false, lastS := 0, lastLmax := 0, parts := [(0, Particle.new 0), (1, Particle.new 1)], draw := none,
    mode := none, arrivedBy := [], held := [], samples := [], started := 0, admitted := true, rank := 0, donors := [], snap := none, theta0 := 0, posting := [], wantPause := false, wantCancel := false, packets := [],
    initial := [], initialBad := [], peersDone := false, peers := [] }

/-- The thread under test, bound to the population's last slot. -/
def bound : Thread := { thr with binding := some (4095, 1) }

def popSt (t : Thread) (p : Population) : State := { at_ t with pops := [(4095, p)] }

theorem test_meets_PopulationReads :
    let s := popSt bound pop
    bound.binding = some (4095, 1) ∧ bound.cut = false ∧ Tab.find s.pops 4095 = some pop ∧ Tab.find pop.parts 1 = some (Particle.new 1) ∧
    (∀ n ∈ [1, 2], issuesB s bound (Req.any [fd (.v 4) n]) = true ∧ issuesB (popSt thr pop) thr (Req.any [fd (.v 4) n]) = true) ∧
    issuesB s bound (Req.any [fd (.v 4) 4, fa (.v 4) 4]) = true ∧ issuesB s bound (Req.any [fd (.v 4) 4, fa (.v 4) 2]) = true ∧
    (Src.v 4).get128 bound = [0x80000000, 0x7FFFFFFF, 3, 0xFFFFFFFF] ∧ thr.binding = none ∧ thr.faulty = false ∧
    (let f : Thread := { thr with pend := [{ order := 0, dests := [], vals := some [], flags := 0, traps := false, fault := some trapIllegal, pc := 0 }] }
     f.faulty = true ∧ f.binding = none ∧ issuesB (popSt f pop) f (Req.any [fd (.v 4) 1]) = true) := by decide +kernel

/-- Handles and slots at the ends of their ranges, every state of the population, and thresholds on both sides of 65,536. -/
theorem test_meets_PopulationUpdates :
    let s := popSt thr pop
    let p := popSt bound pop
    let drain := { pop with state := .draining }
    let full := { pop with parts := [(0, Particle.new 0), (1, { Particle.new 1 with arrivals := 1 })] }
    let by_ := { pop with arrivedBy := [1024] }
    let cut : Thread := { bound with cut := true }
    let wrong : Thread := { bound with pend := [{ order := 0, dests := [], vals := some [], flags := 0, traps := false, fault := some trapIllegal, pc := 0 }] }
    (∀ x ∈ [(Src.lit32 4095, Src.lit32 1), (.lit32 4094, .lit32 0), (.lit32 0xFFFFFFFF, .z)], issuesB s thr (Req.any [fa x.1 1, fb x.2 1]) = true) ∧
    thr.cut = false ∧ Tab.find s.pops 4095 = some pop ∧ pop.asid = (s.ctxOf s.cur).asid ∧ pop.state = .running ∧ 1 < pop.n ∧ s.ownsSlot pop 1 = true ∧
    Tab.find s.pops 4094 = none ∧
    (∀ q ∈ [pop, drain, full, by_], Tab.find (popSt bound q).pops 4095 = some q ∧ (Tab.find q.parts 1).isSome = true ∧
      issuesB (popSt bound q) bound (Req.any [fd (.v 4) 1]) = true ∧ issuesB (popSt bound q) bound (Req.any [fd .z 1, fa (.v 4) 1]) = true ∧
      issuesB (popSt bound q) bound (Req.any [fd (.v 4) 1, fa (.v 4) 1]) = true ∧
      issuesB (popSt bound q) bound { illegal := inRelaunch (popSt bound q), role := 0, flds := [fd (.v 4) 1] } = true) ∧
    (let lost : Thread := { wrong with binding := none }
     let q := fun (t : Thread) => ({ illegal := inRelaunch (popSt t pop), role := 0, flds := [fd (.v 4) 1] } : Req)
     lost.faulty = true ∧ thr.faulty = false ∧ thr.binding = none ∧ cut.faulty = false ∧ cut.cut = true ∧ cut.binding = some (4095, 1) ∧
       (∀ t ∈ [lost, thr, cut], issuesB (popSt t pop) t (q t) = true)) ∧
    (bound.faulty = false ∧ wrong.faulty = true ∧ issuesB (popSt wrong pop) wrong { illegal := inRelaunch (popSt wrong pop), role := 0, flds := [fd (.v 4) 1] } = true ∧
      wrong.binding = some (4095, 1) ∧ wrong.cut = false) ∧
    (p.ctxOf p.cur).header.relaunch = false ∧ (cut.cut = true ∧ issuesB (popSt cut pop) cut (Req.any [fd (.v 4) 1]) = true) ∧
    drain.state = .draining ∧ pop.state ≠ .draining ∧ by_.arrivedBy.contains 1024 = true ∧ pop.arrivedBy.contains 1024 = false ∧
    (Particle.new 1).arrivals < pop.a ∧ full.a ≤ 1 ∧ p.memberIndex pop = some 0 ∧
    issuesB p bound (Req.any [fd (.v 4) 1, fa (.lit32 65535) 1]) = true ∧ issuesB p bound (Req.any [fd (.v 4) 1, fa (.lit32 65536) 1]) = true ∧
    ((Src.lit32 65535).get32 p p.cur bound).toNat < 65536 ∧ 65536 ≤ ((Src.lit32 65536).get32 p p.cur bound).toNat := by decide +kernel

/-- An episode's end in each mode, a deadline, an overrun and a drop. -/
theorem test_meets_PopulationEvents :
    let all := { pop with parts := [(0, { Particle.new 0 with arrivals := 1 }), (1, { Particle.new 1 with arrivals := 1 })] }
    let ends := fun (m : Nat) => { all with mode := some m }
    let dead := { ends 0 with parts := [(0, { Particle.new 0 with arrivals := 1, dead := true }), (1, { Particle.new 1 with arrivals := 1, dead := true })] }
    let w : Thread := { bound with status := .waiting (.parv [.v 4] .always true) 0 }
    let late : State := { popSt bound pop with clock := clocksOf 10 + 1 }
    (∀ p ∈ [ends 2, dead, ends 0], canonB (popSt w p) = true ∧ Tab.find (popSt w p).pops 4095 = some p ∧ p.members.length = 1 ∧
      (popSt w p).memberIndex p = some 0 ∧ p.state = .running ∧ p.complete = true ∧ p.held = [] ∧ p.wantCancel = false ∧ p.wantPause = false ∧
      (popSt w p).sillage = [] ∧ p.samples = [] ∧ (popSt w p).poison = [] ∧ (popSt w p).badWords = []) ∧
    (w.cut = false ∧ w.status = .waiting (.parv [.v 4] .always true) 0 ∧ w.binding = some (4095, 1)) ∧
    (∀ e ∈ dead.entering, e.2 = none) ∧ (dead.mode = some 0 ∧ (ends 2).mode = some 2) ∧ (ends 0).k = 0 ∧ (∀ e ∈ (ends 0).parts, e.2.root = []) ∧
    maxOpt ((ends 0).entering.map Prod.snd) = some 0 ∧ (ends 0).snap = none ∧
    (pop.cutPolicy = true ∧ pop.complete = false ∧ clocksOf pop.deadline < late.clock - pop.started) ∧
    (pop.admitted = true ∧ pop.budget < 2) := by decide +kernel

/-- A table with one key holds nothing under another. -/
theorem find_none_of_keys {α : Type} {m : Tab α} {k g : Nat} (h : m.map Prod.fst = [k]) (e : g ≠ k) : Tab.find m g = none := by
  match m, h with
  | [(a, _)], h => exact if_neg fun x : a = g => e (x.symm.trans (List.cons.inj h).1)

/-- Nothing runs again where one population is, and it is not admitted. -/
theorem recompute_none {s : State} {k : Nat} (e : s.pops.map Prod.fst = [k]) (h : s.admits k = false) (n : s.picks = []) (g : Nat) :
    s.recompute g = none := by
  unfold State.recompute
  by_cases x : g = k
  · subst x
    generalize Tab.find s.pops g = y
    match y with
    | none => rfl
    | some p =>
      have z : (if p.members.length = 1 then (0, s) else s.pick 2) = (0, s) := by simp [State.pick, n]
      simp only [z]
      exact if_pos (by simp [h])
  · rw [find_none_of_keys e x]

/-- After the drop no population can run again: the pool has no page for it. -/
theorem test_meets_PopulationEvents_drop :
    let two : Population := { pop with parts := [(0, { Particle.new 0 with arrivals := 1 }), (1, { Particle.new 1 with arrivals := 1 })], mode := some 0,
                                       members := [(0, 0), (1, 1)], budget := 1, period := 0, k := 1 }
    let r : State := { popSt bound two with asids := [(1, { probeAsid with statePool := 0 })], module := some 0,
                                            copyReqs := [{ asid := 1, va := 0x80_0003_0000, thread := none }] }
    r.pressed 1 = true ∧ r.victim = some 4095 ∧ (∀ q ∈ r.copyReqs, q.thread = none ∧ (r.dropPop 4095).leafOf q.asid q.va.toNat = .unmapped) ∧ r.queues = [] ∧
      bound.status ≠ .exited ∧ Tab.find r.threads 1024 = some bound ∧ blkOf 1024 ∈ (r.ctx (r.block (blkOf 1024)).ctx).blocks ∧
      (∀ g, (r.dropPop 4095).recompute g = none) := by
  exact ⟨by decide +kernel, by decide +kernel, by decide +kernel, by decide +kernel, by decide, by decide +kernel, by decide +kernel,
    recompute_none (k := 4095) (by decide +kernel) (by decide +kernel) (by decide +kernel)⟩

/-! ### The sequencer, Accord memory and the scheduler -/

/-- An Euler method whose step is always 1. -/
def meth : Method :=
  { asid := 1, s := 1, q := 1, atol := 0x3F800000, rtol := 0, hMin := 0x3F800000, hMax := 0x3F800000, c := List.replicate 8 0,
    a := List.replicate 64 0, b := 0x3F800000 :: List.replicate 7 0, e := 0x3F800000 :: List.replicate 7 0, table := List.replicate 64 0x3F800000 }

/-- A running sample of one element, from time 0 to 2 in steps of 1. -/
def smp : Sample :=
  { asid := 1, state := 1, record := 0x80_0001_0400, x := 0x80_0001_1000, work := 0x80_0001_2000, len := 1, method := 15, limit := 0, checkpoints := [],
    t := 0, h := 0x3F800000, tEnd := 0x40000000, link := 0, accepted := 0, rejected := 0, clip := none, stage := 0, request := 0, taker := 0, n := 1,
    stopping := false, arrived := false, reached := false, cut := false, stalled := none }

/-- Sequencer 0 with that sample, with this in place of the method's and the sample's fields. -/
def seqOf (x : Sample) (queue closed : List Nat) : Sillage :=
  { methods := [(15, meth)], samples := [(4095, x)], queue := queue, closed := closed, started := [], ended := [] }

/-- A method table of 640 bytes, and a sample's record of 64. -/
def tableBytes : List Byte :=
  natBytes 12 (1 + 256) ++ natBytes 4 0x01000000 ++ natBytes 4 0x01000000 ++ natBytes 364 0 ++ (List.replicate 64 (natBytes 4 0x01000000)).flatten
def recordBytes : List Byte :=
  natBytes 8 0x80_0001_1000 ++ natBytes 8 0x80_0001_2000 ++ natBytes 4 1 ++ natBytes 4 15 ++ natBytes 4 0 ++ natBytes 4 0x3F800000 ++
    natBytes 4 0x40000000 ++ natBytes 28 0

/-- Cells of bytes from an address. -/
def cellsAt (a : Nat) (l : List Byte) : List Host.Cell := (l.zipIdx.filter fun x => x.1 != 0).map fun x => (a + x.2, x.1)

/-- The module with a sequencer, the table at the page's start and the record behind it. -/
def seqSt (t : Thread) (g : Sillage) : State :=
  { at_ t with sillage := [(0, g)], mem := base.mem ++ cellsAt 0x60_0000 tableBytes ++ cellsAt 0x60_0400 recordBytes }

/-- A location answer that changes nothing. -/
theorem located_same {s : State} {g : Agent} {a n al : Nat} {d : Need} {h : Bool} {p : Place} (e : isPlace (s.locate g a n al d h).2 p = true)
    (e' : (s.locate g a n al d h).1 = s) : s.locate g a n al d h = (s, .ok p) := by rw [located e, e']

/-- The sequencer's state under test. -/
def seqS : State := seqSt thr (seqOf smp [4095] [])

theorem table_read : (List.range 10).flatMap (fun i => seqS.readMem (0x60_0000 + 64 * i) 64) = tableBytes := by decide +kernel
theorem table_parses : parseMethod 1 tableBytes ≠ none := by decide +kernel
set_option maxRecDepth 100000 in
theorem table_found : ∀ i, i < 10 → seqS.locate (seqS.agent seqS.cur) (0x80_0001_0000 + 64 * i) 64 64 Need.load true =
    (seqS, .ok (.mem (0x60_0000 + 64 * i))) := fun i hi => located_same (by revert i; decide +kernel) (by revert i; decide +kernel)
set_option maxRecDepth 100000 in
theorem record_found : seqS.locate (seqS.agent seqS.cur) (0x80_0001_0400 + 64 * 0) 64 64 Need.load true =
    (seqS, .ok (.mem (0x60_0400 + 64 * 0))) := located_same (by decide +kernel) (by decide +kernel)
theorem record_read : seqS.readMem 0x60_0400 64 = recordBytes := by decide +kernel

/-- Tables and records that pass the checks and that do not, at the places where they are found. -/
theorem test_meets_SillageInstructions_tables :
    ((∀ i, i < 10 → seqS.locate (seqS.agent seqS.cur) (0x80_0001_0000 + 64 * i) 64 64 Need.load true = (seqS, .ok (.mem (0x60_0000 + 64 * i)))) ∧
      parseMethod 1 ((List.range 10).flatMap (fun i => seqS.readMem (0x60_0000 + 64 * i) 64)) ≠ none ∧ parseMethod 1 recordBytes = none) ∧
    (seqS.locate (seqS.agent seqS.cur) (0x80_0001_0400 + 64 * 0) 64 64 Need.load true = (seqS, .ok (.mem (0x60_0400 + 64 * 0))) ∧
      (let b := seqS.readMem 0x60_0400 64
       sampleOk (parseSample 1 0x80_0001_0400 b) b = true ∧ (parseSample 1 0x80_0001_0400 b).method = 15) ∧
      sampleOk (parseSample 1 0x80_0001_0400 (natBytes 64 0)) (natBytes 64 0) = false) := by
  rw [table_read, record_read]
  exact ⟨⟨table_found, table_parses, by decide +kernel⟩, record_found, by decide +kernel, by decide +kernel⟩

/-- Entries and samples at the ends of their ranges, and a request in each state. -/
theorem test_meets_SillageInstructions :
    let g := seqOf smp [4095] []
    let s := seqS
    let a : Src := .lit64 0x80_0001_0000
    let r : Src := .lit64 0x80_0001_0400
    (inRelaunch s = false ∧ s.quiet s.cur ∧ s.l1 = [] ∧ s.poison = [] ∧ s.badWords = [] ∧ clusterOf (s.coreOf s.cur) = 0 ∧ s.seq 0 = g ∧ (s.ctxOf s.cur).asid = 1) ∧
    ([Src.z, .lit32 15, .lit32 16, .lit32 4095].all fun b => issuesB s thr (Req.any [fd (.v 4) 1, fa a 2, fb b 1]) &&
        issuesB s thr (Req.any [fd (.v 4) 1, fa r 2, fb b 1])) = true ∧
    ((r.get64 s s.cur thr).toNat = 0x80_0001_0400 ∧ 0x80_0001_0400 < 2 ^ 57 ∧ 0x80_0001_0400 % 64 = 0) ∧
    (∀ x ∈ (seqOf { smp with state := 3 } [] []).samples, x.2.atRest = true) ∧
    (Tab.find g.samples 4094 = none ∧ Tab.find g.methods 15 = some meth ∧ Tab.find g.methods 14 = none ∧ meth.asid = 1) ∧
    issuesB s thr (Req.any [fd (.v 4) 1]) = true ∧
    (issuesB s thr (Req.any [fd (.v 4) 1, fb (.lit32 4095) 1]) = true ∧ Tab.find g.samples 4095 = some smp ∧ smp.state = 1 ∧ smp.request ≠ 2 ∧
      ({ smp with request := 2 } : Sample).request = 2) ∧
    (issuesB s thr (Req.release [fd (.v 4) 2, fa .z 2]) = true ∧ (Src.z.get64 s s.cur thr).toNat = 0 ∧ g.queue = 4095 :: [] ∧ 4095 ∉ ([] : List Nat)) ∧
    ((seqOf smp [] [1]).queue = [] ∧ 1 ∈ (seqOf smp [] [1]).closed ∧ 1 ∉ g.closed ∧ thr.postKey ∉ thr.posted ∧ thr.postKey ∈ ({ thr with posted := [thr.pc] } : Thread).posted ∧
      issuesB (at_ { thr with posted := [thr.pc] }) { thr with posted := [thr.pc] } (Req.release [fd (.v 4) 2, fa (.lit64 0x80_0001_0440) 2]) = true) ∧
    (issuesB s thr (Req.release [fd (.v 4) 2, fa (.lit64 0x80_0001_0440) 2]) = true ∧
      (seqOf { smp with request := 2 } [] []).handed 1 0x80_0001_0440 = some (4095, { smp with request := 2 }) ∧ smp.stopping = false ∧
      g.handed 1 0x80_0001_0440 = none) ∧
    (issuesB s thr (Req.any [fd (.v 4) 4, fa (.lit32 4095) 1]) = true ∧ smp.asid = 1 ∧ ({ smp with state := 3 } : Sample).state ≠ 1) :=
  ⟨⟨by decide +kernel, quiet_of (by decide +kernel) (by decide +kernel), by decide +kernel, by decide +kernel, by decide +kernel⟩, by decide +kernel⟩

/-- Arrays that are read. -/
theorem arrays {x : State × Except Stop (List (List Word))} {l : List (List Word)}
    (e : (match x.2 with | .ok y => decide (y = l) | .error _ => false) = true) : x = (x.1, .ok l) := pair_eq (by
  generalize x.2 = y at e ⊢
  cases y with
  | ok p => rw [show p = l by simpa using e]
  | error _ => cases e)

/-- Arrays that are written. -/
theorem written {x : State × Option Stop} (e : x.2.isNone = true) : x = (x.1, none) := pair_eq (Option.isNone_iff_eq_none.mp e)

/-- The first stage of a step; a step whose error is too large, at and above the smallest step; one that is accepted. -/
theorem test_meets_SillageSteps :
    let s := seqSt thr (seqOf smp [] [])
    let one : Word := 0x3F800000
    let fin := fun (x : Sample) => ({ x with stage := 1, request := 3 } : Sample)
    let e := fun (x : Sample) (k : Word) => ({ seqSt thr (seqOf x [] []) with
      mem := Store.writes (w := 8) base.mem 0x60_2004 (bytesOf 4 k) } : State)
    let r0 := s.seqReads 1 0 1 [0x80_0001_1000]
    let w1 := r0.1.seqWrite 1 0 0x80_0001_2000 (rkSum one [0] ((meth.row 1).zip []))
    let w2 := w1.1.seqWrite 1 0 0x80_0001_0440 [0x0001_2000, 0x80, 0x0001_2004, 0x80, 0, 1, 8191, 0]
    let r1 := fun (x : Sample) (k : Word) => (e x k).seqReads 1 0 1 [0x80_0001_1000, 0x80_0001_2004]
    let v := fun (x : Sample) (k h : Word) => (r1 x k).1.seqWrite 1 0 0x80_0001_2008 (rkSum h [0] (meth.b.zip [[k]]))
    let big : Sample := fin { smp with h := 0x40000000, tEnd := 0x40800000 }
    Tab.find (s.seq 0).samples 4095 = some smp ∧ Tab.find (s.seq 0).methods 15 = some meth ∧ smp.state = 1 ∧ smp.stalled = none ∧
    (smp.stage = 0 ∧ positiveW ({ smp with h := 0 } : Sample).h = false) ∧
    ((smp.stage = 0 ∧ positiveW smp.h = true) ∧ r0 = (r0.1, .ok ([0] :: [])) ∧ w1 = (w1.1, none) ∧ w2 = (w2.1, none) ∧
      w2.1.sillage = s.sillage ∧ fmaW (meth.c.getD 0 0) smp.h smp.t = 0 ∧ smp.kAddr 1 = 0x80_0001_2004) ∧
    ((fin smp).request = 3 ∧ (fin smp).stage = meth.s ∧ smp.link.getLsbD 31 = false ∧ smp.limit = 0 ∧ smp.kAddr 2 = 0x80_0001_2008) ∧
    (∀ x ∈ [(fin smp, (0x41200000 : Word), one), (big, 0x41200000, 0x40000000), (fin smp, 0, one)],
      r1 x.1 x.2.1 = ((r1 x.1 x.2.1).1, .ok ([0] :: [[x.2.1]])) ∧ v x.1 x.2.1 x.2.2 = ((v x.1 x.2.1 x.2.2).1, none) ∧
        (v x.1 x.2.1 x.2.2).1.sillage = (e x.1 x.2.1).sillage) ∧
    (let sq := fun (k h : Word) => errTotal meth [0] (rkSum h [0] (meth.b.zip [[k]])) (rkSum h (List.replicate 1 0) (meth.e.zip [[k]]))
     (1 * 2 ^ 24 < sq 0x41200000 one ∧ eqW (fin smp).h meth.hMin = true) ∧
     (1 * 2 ^ 24 < sq 0x41200000 0x40000000 ∧ eqW big.h meth.hMin = false ∧ eqW big.t big.tEnd = false) ∧ sq 0 one ≤ 1 * 2 ^ 24) ∧
    (let z := (v (fin smp) 0 one).1.seqWrite 1 0 0x80_0001_1000 (rkSum one [0] (meth.b.zip [[0]]))
     z = (z.1, none) ∧ z.1.sillage = (e (fin smp) 0).sillage) := by
  refine ⟨by decide +kernel, by decide +kernel, by decide +kernel, by decide +kernel, by decide +kernel,
    ⟨by decide +kernel, arrays (by decide +kernel), written (by decide +kernel), written (by decide +kernel), by decide +kernel, by decide +kernel,
      by decide +kernel⟩, by decide +kernel, ?_, by decide +kernel, written (by decide +kernel), by decide +kernel⟩
  intro x hx
  refine ⟨arrays ?_, written ?_, ?_⟩ <;> (revert hx x; decide +kernel)

/-- That module with an Accord page translated before, and this in its set entry, its damaged copies and its queue. -/
def accordOf (e : BitVec 64) (bad : List (Nat × Nat × Nat)) (q : List AccordOp) : State :=
  { accordSt thr with sets := Store.write [] 0 e, accordBad := bad, accordQ := q, accordPages := [(0, 0, 1)],
                      tlb := base.tlb ++ [{ core := 0, asid := 1, page := 0x80_0002_0000, bits := 16, entry := mkLeaf 0 7 true true 0 ||| 0x300 }] }

/-- The set's entry: three members that answer. -/
def threeLive : BitVec 64 := setEntry 3 0x840

/-- A writing operation on the last bytes of the set's first line. -/
def accordOp (e : Option (BitVec 48)) : AccordOp :=
  { asid := 1, core := 0, sent := true, set := 0, line := 0, off := 60, thread := 1024, order := 3, writer := 1, bytes := [1, 2, 3, 4], expect := e, va := 0x80_0002_003C }

/-- The set's entry with one member left, no majority. -/
def oneLive : BitVec 64 := threeLive &&& ~~~0x3000000

/-- A thread free to read, one whose writing operation is under way, one with a fault outstanding; a line with a majority, one whose copies fail,
and one that is poisoned. -/
theorem test_meets_AccordReads :
    let s := accordOf threeLive [] []
    let busy := accordOf threeLive [] [accordOp none]
    let waits := accordOf threeLive [(0, 0, 0), (0, 0, 1)] []
    let lost := accordOf oneLive [] []
    let wrong : Thread := { thr with pend := [{ order := 0, dests := [], vals := some [], flags := 0, traps := false, fault := some trapIllegal, pc := 0 }] }
    let a : Src := .lit64 0x80_0002_0038
    let x := fun (s : State) (n : Nat) => s.locate (s.agent s.cur) 0x80_0002_0038 n n { Need.load with accord := true } true
    (∀ z ∈ [s, busy, waits, lost], issuesB z thr (Req.any [fd (.v 4) 1, fa a 2]) = true ∧ issuesB z thr (Req.any [fd (.v 4) 2, fa a 2]) = true) ∧
    busy.accordBusy busy.cur thr = true ∧ (at_ wrong).accordBusy 1024 wrong = true ∧ issuesB (at_ wrong) wrong (Req.any [fd (.v 4) 2, fa a 2]) = true ∧
    (∀ z ∈ [s, waits, lost], z.accordBusy z.cur thr = false) ∧
    (x s 4 = ((x s 4).1, .ok (.mem (0 * 2 ^ 41 + 56))) ∧ x s 8 = ((x s 8).1, .ok (.mem (0 * 2 ^ 41 + 56))) ∧
      x waits 4 = ((x waits 4).1, .ok (.mem (0 * 2 ^ 41 + 56))) ∧ x waits 8 = ((x waits 8).1, .ok (.mem (0 * 2 ^ 41 + 56))) ∧
      x lost 4 = ((x lost 4).1, .ok (.mem (0 * 2 ^ 41 + 56)))) ∧ 0x80_0002_0038 + 8 ≤ 2 ^ 57 ∧ 56 < 2 ^ 41 ∧
    (∀ n ∈ [4, 8], (x s n).1.linePoisoned 0 0 = false ∧ (x s n).1.lineWaits 0 0 = false ∧ (x waits n).1.linePoisoned 0 0 = false ∧
      (x waits n).1.lineWaits 0 0 = true) ∧ (x lost 4).1.linePoisoned 0 0 = true :=
  ⟨by decide +kernel, by decide +kernel, by decide +kernel, by decide +kernel, by decide +kernel,
    ⟨located (by decide +kernel), located (by decide +kernel), located (by decide +kernel), located (by decide +kernel), located (by decide +kernel)⟩,
    by decide +kernel⟩

theorem test_meets_AccordWrites :
    let s := accordOf threeLive [] []
    let a : Src := .lit64 0x80_0002_0038
    let x := fun (n : Nat) (d : Need) => s.locate (s.agent s.cur) 0x80_0002_0038 n n { d with accord := true } true
    let q := fun (e : Option (BitVec 48)) => accordOf threeLive [] [accordOp e]
    (inRelaunch s = false ∧ s.quiet s.cur ∧ s.accordBusy s.cur thr = false ∧
      (∀ w ∈ [1, 2], issuesB s thr (Req.any [fa a 2, fb (.v 4) w]) = true ∧ issuesB s thr (Req.any [fdr (.v 6) 2, fa a 2, fb (.v 4) w]) = true) ∧
      x 4 Need.store = ((x 4 Need.store).1, .ok (.mem (0 * 2 ^ 41 + 56))) ∧ x 8 Need.store = ((x 8 Need.store).1, .ok (.mem (0 * 2 ^ 41 + 56))) ∧
      x 4 Need.atomic = ((x 4 Need.atomic).1, .ok (.mem (0 * 2 ^ 41 + 56))) ∧ x 8 Need.atomic = ((x 8 Need.atomic).1, .ok (.mem (0 * 2 ^ 41 + 56)))) ∧
    ([none, some 0, some 1].all (fun e => takeOp 0 0 (q e).accordQ == some (accordOp e, [])) = true ∧ setLegal ((q none).setOf 0) = true ∧
      64 * 0 + 64 ≤ (q none).accordLen ∧ (q none).accordBase + (q none).accordLen + 8 * 0 + 8 ≤ 2 ^ 36 ∧ (∀ k, (q none).queueAt k = none) ∧
      60 + 4 ≤ 64 ∧ (q none).l1 = [] ∧ (accordOf oneLive [] [accordOp none]).linePoisoned 0 0 = true ∧ (q none).linePoisoned 0 0 = false ∧
      (q none).lineWaits 0 0 = false ∧
      (let w := accordOf threeLive [(0, 0, 0), (0, 0, 1)] [accordOp none]
       takeOp 0 0 w.accordQ = some (accordOp none, []) ∧ setLegal (w.setOf 0) = true ∧ w.l1 = [] ∧ w.queues = [] ∧ w.linePoisoned 0 0 = false ∧
         w.lineWaits 0 0 = true) ∧ ((q none).readable 0 0 = [0, 1, 2]) ∧
      (∀ j ∈ [0, 1, 2], tagVersion ((q none).copy 0 0 j).tag = 0) ∧ (1 : BitVec 48).toNat ≠ 0) :=
  ⟨⟨by decide +kernel, quiet_of (by decide +kernel) (by decide +kernel), by decide +kernel, by decide +kernel, located (by decide +kernel),
      located (by decide +kernel), located (by decide +kernel), located (by decide +kernel)⟩,
    by decide +kernel, by decide +kernel, by decide +kernel, by decide +kernel, queueAt_nil (by decide +kernel), by decide +kernel⟩

/-- A loss that leaves a majority of current copies; a takeover from the first line's coordinator; a scrub. -/
theorem test_meets_AccordRepair :
    let e := threeLive &&& ~~~(BitVec.ofNat 64 (2 ^ (24 + 0) + 2 ^ (29 + 0)))
    let s := accordOf threeLive [] []
    let q := accordOf e [] [accordOp none]
    (setLegal (s.setOf 0) = true ∧ bit (s.setOf 0) 23 = true ∧ 0 ∈ setLive (s.setOf 0) ∧ setMajority e ≤ (setCurrent e).length) ∧
    (setLegal (q.setOf 0) = true ∧ bit (q.setOf 0) 23 = true ∧ 64 * 0 + 64 ≤ q.accordLen ∧ q.accordBase + q.accordLen + 8 * 0 + 8 ≤ 2 ^ 36 ∧
      (∀ k, q.queueAt k = none) ∧ q.linePoisoned 0 0 = false ∧ q.lineWaits 0 0 = false ∧ takeOp 0 0 q.accordQ = some (accordOp none, []) ∧
      0 % setCount (q.setOf 0) ∉ setCurrent (q.setOf 0) ∧ (∃ j ∈ [1], j ∈ q.readable 0 0) ∧
      tagVersion (q.newest 0 0 (q.readable 0 0)).tag + 1 < 2 ^ 48 ∧ 0 / 1024 ∈ q.accordGiven 0) :=
  ⟨by decide +kernel, by decide +kernel, by decide +kernel, by decide +kernel, by decide +kernel, queueAt_nil (by decide +kernel), by decide +kernel⟩

/-- A pending record of a page miss. -/
def missRecord : List Byte := natBytes 8 0x80_0003_0000 ++ natBytes 11 0 ++ natBytes 1 8 ++ natBytes 12 0

/-- The record of a malformed entry. -/
def badRecord : List Byte := natBytes 8 0x80_0003_0000 ++ natBytes 24 0

/-- A record has space in a die's queue. -/
theorem appended (r : List Byte) {s : State} {die : Nat} (h : (s.appendRec die r).isSome = true) : ∃ s1 n, s.appendRec die r = some (s1, n) := by
  obtain ⟨x, h⟩ := Option.isSome_iff_exists.mp h
  exact ⟨x.1, x.2, h⟩

/-- A record deferred, of a page miss and of a malformed entry, answered and not; an eviction; a shared page that is its own already; an
invalidation that waits; results and faults that come late. -/
theorem test_meets_MemoryEvents :
    let d : Thread := { thr with status := .unrecorded missRecord 9 }
    let fq : FaultQ := { base := 0x70_0000, k := 6, append := 0, consumed := 0 }
    let s : State := { at_ d with faultQ := [(0, fq)], groups := [] }
    let bad : State := { at_ { thr with status := .unrecorded badRecord 9 } with faultQ := [(0, fq)], groups := [] }
    let joint : State := { two d thr with groups := [(1, { probeGroup with issue := 9, members := [1024, 1025], todo := [1025], ended := false })] }
    let p : Thread := { thr with status := .parked 0 0 }
    let r : State := { at_ p with faultQ := [(0, { fq with append := 1 })], mem := Store.writes (w := 8) base.mem 0x70_0000 missRecord }
    let l : State := { st with l1 := [(2 ^ 35 * 767 + (2 ^ 35 - 1), dirtyLine)] }
    let w : Thread := { thr with status := .copying }
    let req : CopyReq := { asid := 1, va := 0x80_0001_0000, thread := some 1024 }
    let c : State := { at_ w with copyReqs := [req] }
    let late := fun (v : Option (List Word)) (f : Option TrapInfo) =>
      ({ thr with pend := [{ order := 7, dests := [.v 0], vals := v, flags := 1, traps := true, fault := f, pc := 0x80_0000_0040 }] } : Thread)
    (Tab.find s.threads 1024 = some d ∧ joint.issueOpen 9 = true ∧ s.issueOpen 9 = false ∧ s.issueRecs 9 = [(1024, missRecord)] ∧
      bad.issueOpen 9 = false ∧ bad.issueRecs 9 = [(1024, badRecord)] ∧ Tab.getD s.recWait (dieOf (s.coreOf 1024)) [] = [] ∧
      recReplay missRecord = true ∧ recReplay badRecord = false ∧ (s.ctxOf 1024).header.handler ≠ 0 ∧
      (∃ s1 n, s.appendRec (dieOf (s.coreOf 1024)) missRecord = some (s1, n)) ∧
      ∃ s1 n, bad.appendRec (dieOf (bad.coreOf 1024)) badRecord = some (s1, n)) ∧
    (r.Canonical ∧ r.pendingRec 0 0 = some missRecord ∧ (1 : BitVec 8) ≠ 0 ∧ (2 : BitVec 8) ≠ 1 ∧ r.queuePoisoned 0 = false ∧ r.walkBad (field missRecord 0x10 2) (field missRecord 0 8) = none ∧ r.sillage = [] ∧ r.txs = [] ∧
      (∀ e ∈ r.blocks, e.2.copyQ = []) ∧ Tab.find r.threads 1024 = some p ∧ p.status = .parked 0 0 ∧
      (∀ j u, j ≠ 1024 → Tab.find r.threads j = some u → u.status ≠ .parked 0 0) ∧ (r.ctxOf 1024).header.handler ≠ 0 ∧ p.inHandler = false) ∧
    ((∀ q, l.queueAt q = none) ∧ 2 ^ 35 - 1 < 2 ^ 35 ∧ Tab.find l.l1 (2 ^ 35 * 767 + (2 ^ 35 - 1)) = some dirtyLine ∧
      dirtyLine.dirty.getLsbD 63 = true ∧ dirtyLine.dirty.getLsbD 62 = false) ∧
    (c.copyReqs[0]? = some req ∧ req.thread = some 1024 ∧
      ∃ s1, c.copyShared req.asid req.va.toNat = some s1 ∧ Tab.find s1.threads 1024 = some w ∧ w.status = .copying) ∧
    ((accordOf threeLive [] [accordOp none]).accordUses 1 0x80_0002_0000 65536 = true ∧ st.accordUses 1 0x80_0002_0000 65536 = false ∧
      st.bufferUses 1 0x80_0002_0000 65536 = false ∧
      ({ relaunchSt with blocks := [(1, { probeBlock with buffer := [.store (.mem 0x60_0000) 0x80_0001_0000 [1]] })] } : State).bufferUses 1
        0x80_0001_0000 1 = true) ∧
    (let m := natBytes 8 0x80_0003_0000 ++ natBytes 8 0 ++ natBytes 2 1 ++ natBytes 1 0 ++ natBytes 1 8 ++ natBytes 12 0
     let w : State := { r with poison := [0x20_0000 / 32], mem := Store.writes (w := 8) base.mem 0x70_0000 m }
     w.pendingRec 0 0 = some m ∧ w.queuePoisoned 0 = false ∧ w.walkBad (field m 0x10 2) (field m 0 8) = some 0) ∧
    (∀ t ∈ [late (some [5]) none, late none (some { cause := 0x0F, addr := 0, detail := 0, kind := 0, size := 0 }), late none none],
      Tab.find (at_ t).threads 1024 = some t ∧ t.status ≠ .exited ∧ (t.pend.find? fun p => p.order == 7).isSome = true) := by
  refine ⟨join8 (by decide +kernel) ⟨by decide +kernel, by decide +kernel, appended missRecord (by decide +kernel), appended badRecord (by decide +kernel)⟩,
    ⟨canon_of (by decide +kernel), join8 (by decide +kernel) ⟨by decide +kernel, by decide +kernel, ?_, by decide +kernel⟩⟩,
    ⟨queueAt_nil (by decide +kernel), by decide +kernel⟩, ⟨by decide +kernel, by decide +kernel, ?_⟩, by decide +kernel, by decide +kernel⟩
  · intro j u hj hu
    have : Tab.find ([(1024, ({ thr with status := .parked 0 0 } : Thread))] : Tab Thread) j = none := find_none_of_keys (k := 1024) rfl hj
    simp [at_, this] at hu
  · have h : (match ({ at_ { thr with status := .copying } with copyReqs := [{ asid := 1, va := 0x80_0001_0000, thread := some 1024 }] } : State).copyShared
        1 0x80_0001_0000 with
      | some s1 => decide (Tab.find s1.threads 1024 = some ({ thr with status := .copying } : Thread)) | none => false) = true := by decide +kernel
    show ∃ s1, State.copyShared _ 1 0x80_0001_0000 = some s1 ∧ _
    generalize State.copyShared _ 1 0x80_0001_0000 = y at h ⊢
    match y, h with
    | some s1, h => exact ⟨s1, rfl, by simpa using h, rfl⟩

/-- A group after 64 instructions, one after 16 runs, a partition where no group runs, and a thread whose trap is due. -/
theorem test_meets_Scheduling :
    let g : Group :=
      { core := 0, part := 0, members := [1024], todo := [], count := 64, issue := 9, began := 0, turn := 0, allocs := [], closing := false, runs := 0, ended := false }
    let y := fun (n : Nat) => ({ g with runs := n, ended := true } : Group)
    let s := fun (l : Tab Group) => ({ st with groups := l } : State)
    let i : TrapInfo := { cause := 0x0F, addr := 64, detail := 1, kind := 0, size := 0 }
    let d : Due := { info := i, faultPc := 0x80_0000_0040, order := 2 }
    let t : Thread := { thr with due := [d] }
    (Tab.find (s [(1, g)]).groups 1 = some g ∧ g.ended = false ∧ g.count = 64 ∧ g.todo = []) ∧
    (∀ n ∈ [16, 17], Tab.find (s [(1, y n)]).groups 1 = some (y n) ∧ (y n).ended = true) ∧
    (∀ l ∈ [[], [(1, y 3)]], canonB (s l) = true ∧ Tab.find (s l).threads 1024 = some thr ∧ (1024, thr) ∈ (s l).candidates 0 0 ∧
      (∀ h ∈ (s l).groups, h.2.core = 0 → h.2.part = 0 → h.2.ended = true ∨ (s l).stalled h.2 = true) ∧
      (s l).mayStart 1024 thr = true ∧ (s l).partOf 1024 = 4 * 0 + 0 ∧ (s l).testThread 1024 = false) ∧
    (Tab.find (at_ t).threads 1024 = some t ∧ t.dueBefore = some d ∧ t.status = .ready ∧ ((at_ t).ctxOf 1024).state = .running ∧
      ((at_ t).ctxOf 1024).header.handler ≠ 0 ∧ t.inHandler = false) := by decide +kernel

/-- A thread that waits alone, at each kind of wait, one clock beyond its kernel's time-out. -/
theorem test_meets_TimeOuts :
    let lone := fun (w : Wait) => ({ thr with status := .waiting w 1 } : Thread)
    let s := fun (w : Wait) => ({ at_ (lone w) with
      clock := clocksOf 10000 + 1
      blocks := [(1, { probeBlock with bars := [(15, { phase := 0, arrived := [1024] })] })] } : State)
    (∀ w ∈ [Wait.conv (.vote .any 0) [.v 0] false, .join 127 0xFFFFFFFF, .bar 15 0, .phend, .timeline .matrix 1, .racq [.v 0] 512],
      canonB (s w) = true ∧ Tab.find (s w).threads 1024 = some (lone w) ∧ Tab.find (s w).waves (waveKey 1024) = some probeWave ∧
      probeWave.reported = [] ∧ Tab.find (s w).blocks (blkOf 1024) ≠ none ∧ ((s w).block (blkOf 1024)).ctx = 1 ∧
      Tab.find (s w).ctxs 1 = some probeCtx ∧ probeCtx.state = .running ∧
      clocksOf probeCtx.header.timeout < (s w).clock - Tab.getD probeWave.conv (lone w).pc.toNat (lone w).since ∧ probeCtx.header.handler ≠ 0 ∧ (lone w).inHandler = false ∧
      clocksOf probeCtx.header.timeout < (s w).clock - (lone w).since ∧ (s w).threads.map Prod.fst = [1024]) ∧
    ((s (.bar 15 0)).barrier 1024 false 15).arrived = [1024] ∧ 15 < 16 ∧
    -- a thread that `phend` waits for, which waits for nothing itself
    (let m : State := { s .phend with threads := [(1024, lone .phend), (1025, thr)] }
     canonB m = true ∧ Tab.find m.threads 1024 = some (lone .phend) ∧ (m.ctxThreads 1).filter (fun e => e.1 != 1024) = [(1025, thr)] ∧
       thr.status = .ready ∧ thr.status ≠ .exited ∧ m.threads.map Prod.fst = [1024, 1025]) := by decide +kernel

theorem test_meets_RrelRetries :
    let t : Thread := { thr with stall := some (.rrel, 5) }
    let g : Group := { probeGroup with members := [1024], todo := [1024] }
    let s : State := { at_ t with groups := [(1, g)] }
    Tab.find s.threads 1024 = some t ∧ t.stall = some (.rrel, 5) ∧ s.groupOf 1024 = some (1, g) ∧ 1024 ∈ g.todo := by decide +kernel

/-! ### Collectives, the module and the mailbox -/

theorem some_pair {α β : Type} {o : Option (α × β)} (h : o.isSome = true) : ∃ a b, o = some (a, b) := by
  obtain ⟨x, e⟩ := Option.isSome_iff_exists.mp h
  exact ⟨x.1, x.2, e⟩

theorem some_snd {α β : Type} {x : α × Option β} (h : x.2.isSome = true) : ∃ a b, x = (a, some b) := by
  obtain ⟨b, e⟩ := Option.isSome_iff_exists.mp h
  exact ⟨x.1, b, pair_eq e⟩

/-- A page that is taken, and the entry that is written with it. -/
theorem some_chain {α β γ : Type} {o : Option (α × β)} {f : α → β → Option γ} {p : γ → Bool}
    (h : (match o with | some (a, b) => (match f a b with | some c => p c | none => false) | none => false) = true) :
    ∃ a b c, o = some (a, b) ∧ f a b = some c ∧ p c = true := by
  match o, h with
  | some (a, b), h =>
    dsimp only at h
    generalize e : f a b = y at h
    match y, h with
    | some c, h => exact ⟨a, b, c, rfl, e, h⟩

/-- Rank 1 of two, with operations of every kind. -/
def opOf (k : SchedKind) : SchedOp := { kind := k, deps := 0, succ := [1], src := (0, 0), dst := (0, 64), len := 64, ety := 1, switch := false }
def sched (k : SchedKind) : LoadedSched :=
  { asid := 1, sched := { ops := [opOf k, { opOf .signal with deps := 1 }], rank := 1, modules := [511, 0] }, version := 3, digest := 0, residuals := [] }

/-- An instance of it; its base is the page. -/
def coll : Collective :=
  { asid := 1, handle := 9, tag := 5, bases := [0x80_0001_0000], trace := 0, status := 0, completion := 0, value := 1, flags := 0, stepMs := 100,
    owner := none, die := 0, deps := [(1, 1)], done := [], waiting := [(0, 0)], staging := [(7, 15, 0, List.replicate 64 1)], order := [], bits := 0,
    absent := [], reserved := false }

def collSt (k : SchedKind) (c : Collective) : State := { st with scheds := [(9, sched k)], colls := [(4, c)] }

theorem ready_of {s : State} {i op : Nat} {c : Collective} {x : LoadedSched} {o : SchedOp}
    (h : decide (Tab.find s.colls i = some c) && decide (Tab.find s.scheds c.handle = some x) && decide (x.sched.ops[op]? = some o) &&
      !c.done.contains op && decide (Tab.getD c.deps op 0 = 0) = true) : OpReady s i op c x o := by
  simp only [Bool.and_eq_true, decide_eq_true_eq, Bool.not_eq_true'] at h
  obtain ⟨⟨⟨⟨h1, h2⟩, h3⟩, h4⟩, h5⟩ := h
  exact ⟨h1, h2, h3, by simpa using h4, h5⟩

/-- A start record of schedule 9 with the base table at the page's start. -/
def startBytes : List Byte := natBytes 8 9 ++ natBytes 8 5 ++ natBytes 8 0x80_0001_0000 ++ natBytes 104 0

def collQueue : LaunchQ :=
  { asid := 1, maxPrio := 0, va := 0x80_0002_0000, pa := 0x70_0000, die := 0, bytes := [], written := [], owners := [], next := 511, accepted := 0,
    overruns := 0, closed := false, collective := true }

theorem test_meets_CollectiveStarts :
    let q := collQueue
    let s : State := { st with scheds := [(9, sched .copy)], queues := [(4097, q)] }
    let off := 128 * q.next
    let q1 := q.write ((startBytes.zipIdx).filterMap fun (b, i) => if off + i < 65536 then some (off + i, b) else none) none
    let q2 : LaunchQ := { q1 with
      bytes := Store.clear q1.bytes off 128, written := Tab.del q1.written q.next, owners := Tab.del q1.owners q.next,
      next := (q.next + 1) % 512, accepted := q1.accepted + 1 }
    let r := State.collRead { s with queues := Tab.put (Tab.put s.queues 4097 q1) 4097 q2, ticket := s.ticket + 1 } q.asid q.die 0x80_0001_0000 128
    (Tab.find s.queues 4097 = some q ∧ q.collective = true ∧ q.closed = false ∧ startBytes.length = 128 ∧ q.next < 512 ∧
      Tab.find q.written q.next = none) ∧
    (0x80_0001_0000 = field startBytes 0x10 8 ∧ field startBytes 0x38 4 < 8 ∧ zeroField startBytes 0x40 64 = true ∧
      Tab.find s.scheds (field startBytes 0 8) = some (sched .copy) ∧ (sched .copy).asid = q.asid) ∧ q2.full q2.next = false ∧
    (∃ s1 b, r = (s1, some b)) ∧ r.1.queues = Tab.put (Tab.put s.queues 4097 q1) 4097 q2 ∧ r.1.starved = false :=
  ⟨by decide +kernel, by decide +kernel, by decide +kernel, some_snd (by decide +kernel), by decide +kernel⟩

/-- A write that is done. -/
theorem wrote {x : State × Bool} (h : x.2 = true) : x = (x.1, true) := pair_eq h

/-- An operation of each kind that can run; a gate at its value and one short of it. -/
theorem test_meets_ChunkOperations :
    let s := fun (k : SchedKind) => collSt k coll
    let r := fun (k : SchedKind) (n : Nat) => (s k).collRead 1 0 (coll.at_ (0, 0)) n
    let d := fun (k : SchedKind) => (s k).collRead 1 0 (coll.at_ (0, 64)) 64
    let z := fun (x : State) (b : List Byte) => x.collWrite 1 0 (coll.at_ (0, 64)) b
    let zc := z (r .copy 64).1 (List.replicate 64 0)
    let zr := z (d (.reduce 15)).1 (List.replicate 64 1)
    (∀ k ∈ [SchedKind.send 0, .recv 0 15, .reduce 15, .copy, .gate 0, .gate 1, .signal], OpReady (s k) 4 0 coll (sched k) (opOf k) ∧
      (s k).starved = false) ∧
    (packedType 1 = none ∧ coll.replay = false ∧
      (coll.staging.filter fun z => z.2.1 == 15).head? = some (7, 15, 0, List.replicate 64 1)) ∧
    ((r (.send 0) 64 = ((r (.send 0) 64).1, some (List.replicate 64 0)) ∧ (r (.send 0) 64).1.colls = (s (.send 0)).colls ∧
        (r (.send 0) 64).1.starved = false) ∧
      (r .copy 64 = ((r .copy 64).1, some (List.replicate 64 0)) ∧ zc = (zc.1, true) ∧ zc.1.colls = (s .copy).colls ∧ zc.1.starved = false) ∧
      (d (.reduce 15) = ((d (.reduce 15)).1, some (List.replicate 64 0)) ∧
        combine 1 (List.replicate 64 0) ((List.replicate 64 1).take 64) = some (List.replicate 64 1) ∧ zr = (zr.1, true) ∧ zr.1.starved = false) ∧
      (r (.gate 0) 8 = ((r (.gate 0) 8).1, some (List.replicate 8 0)) ∧ (r (.gate 0) 8).1.colls = (s (.gate 0)).colls) ∧
      (r (.gate 1) 8 = ((r (.gate 1) 8).1, some (List.replicate 8 0)) ∧ (r (.gate 1) 8).1.starved = false) ∧
      ((0 : Pair).toNat ≤ natOf (List.replicate 8 0) ∧ natOf (List.replicate 8 0) < (1 : Pair).toNat)) ∧
    ((s .signal).endColl 4 0).starved = false := by
  refine ⟨fun k hk => ⟨ready_of ?_, ?_⟩, by decide +kernel, ⟨⟨pair_eq (by decide +kernel), by decide +kernel⟩,
    ⟨pair_eq (by decide +kernel), wrote (by decide +kernel), by decide +kernel⟩,
    ⟨pair_eq (by decide +kernel), by decide +kernel, wrote (by decide +kernel), by decide +kernel⟩,
    ⟨pair_eq (by decide +kernel), by decide +kernel⟩, ⟨pair_eq (by decide +kernel), by decide +kernel⟩, by decide +kernel⟩, by decide +kernel⟩ <;>
    (revert hk k; decide +kernel)

/-- A wait one clock beyond 100 ms; a rank that is present and one that is absent, for 1 ms and beyond; a reservation that is held. -/
theorem test_meets_CollectiveTimers :
    let s : State := { collSt (.recv 0 15) coll with clock := clocksOf 100000 + 1 }
    let c : Collective := { coll with absent := [(0, 0)] }
    let h : Collective := { coll with reserved := true }
    let a := fun (n : Nat) => ({ collSt (.recv 0 15) c with clock := clocksOf 1000 + n } : State)
    OpReady s 4 0 coll (sched (.recv 0 15)) (opOf (.recv 0 15)) ∧ Tab.find coll.waiting 0 = some 0 ∧ Tab.find coll.absent 0 = none ∧
    clocksOf (1000 * coll.stepMs) < s.clock - 0 ∧ (s.endColl 4 8).starved = false ∧
    (Tab.find (a 1).colls 4 = some c ∧ Tab.find c.absent 0 = some 0 ∧ Tab.find (a 1).scheds c.handle = some (sched (.recv 0 15))) ∧
    (∃ e ∈ c.absent, clocksOf 1000 < (a 1).clock - e.2) ∧ (∀ e ∈ c.absent, (a 0).clock - e.2 ≤ clocksOf 1000) ∧ coll.reserved = false ∧
    h.reserved = true ∧ Tab.find (collSt .signal h).colls 4 = some h :=
  ⟨ready_of (by decide +kernel), by decide +kernel⟩

/-- An envelope that the free values of its keys and signatures accept. -/
theorem accepted {s : State} {k : Nat} {e : Envelope} (f : headOk k e.head e.payload.length = true)
    (v : (Store.read s.fused k).toNat ≤ envelopeVersion e)
    (d : Config.sha384 e.rsaKey = (Config.fusedDigest k).1 ∧ Config.sha384 e.slhKey = (Config.fusedDigest k).2)
    (g : Config.rsaVerify e.rsaKey (envelopeSigned e) e.rsaSig = true ∧ Config.slhVerify e.slhKey (envelopeSigned e) e.slhSig = true)
    (p : Config.sha384 e.payload = valOf 384 e.digest) : s.refusal k e = none := by
  simp [State.refusal, f, Nat.not_lt.mpr v, d.1, d.2, g.1, g.2, p]

/-- An envelope whose head is right, which the free values of its keys and signatures alone can refuse, and one with a wrong head; no die after
memory, none after the links, none after the self-tests, none after the fabric, and one. -/
theorem test_meets_ModuleReset :
    let b := BootIn.well
    st.Canonical ∧ headOk 1 b.firmware.head b.firmware.payload.length = true ∧ (Store.read st.fused 1).toNat ≤ envelopeVersion b.firmware ∧
    st.refusal 1 { b.firmware with head := [] } = some 1 ∧
    (∀ d, d < 4 → d ∈ ({ b with badDies := [0, 1], badLinks := [2, 3] } : BootIn).badDies ∨
      d ∈ ({ b with badDies := [0, 1], badLinks := [2, 3] } : BootIn).badLinks) ∧
    (∀ d, d < 4 → d ∈ ({ b with badDies := [0, 1], badFabric := [2, 3] } : BootIn).badDies ∨
      d ∈ ({ b with badDies := [0, 1], badFabric := [2, 3] } : BootIn).badFabric) ∧
    (∀ d, d < 4 → d ∈ ({ b with badDies := [0, 1, 2, 3] } : BootIn).badDies) ∧
    (∃ d, d < 4 ∧ d ∉ ({ b with badDies := [0, 1, 2] } : BootIn).badDies) ∧
    (∀ d, d < 4 → d ∈ ({ b with badDies := [0, 1], badTests := [2, 3] } : BootIn).badDies ∨
      d ∈ ({ b with badDies := [0, 1], badTests := [2, 3] } : BootIn).badTests) ∧
    (∃ d, d < 4 ∧ d ∉ ({ b with badDies := [0, 1], badTests := [2] } : BootIn).badDies ∧
      d ∉ ({ b with badDies := [0, 1], badTests := [2] } : BootIn).badTests) :=
  ⟨canon_of (by decide +kernel), by decide +kernel⟩

theorem test_meets_DieFences : 3 < 4 ∧ 3 ∉ st.fenced ∧ 3 ∉ ({ st with fenced := [0, 1, 2] } : State).fenced := by decide +kernel

/-- The first power above the cap, the last below 0.95 of it, the lowest temperatures of each clause and the highest, and the highest low flow. -/
theorem test_meets_PowerAndHeat :
    let hot : Sensors := { power := 4201, busiest := [239, 0], inlet := 0, flow := 0 }
    let cool : Sensors := { power := 3989, busiest := [0, 239], inlet := 0, flow := 0 }
    let s : State := { st with power := { st.power with clocks := [(239, 1300)] } }
    (s.power.cap < hot.power ∧ (hot.busiest.filter s.coreIsland).find? (fun i => decide (1200 < s.islandClock i)) = some 239) ∧
    (100 * cool.power < 95 * s.power.cap ∧
      (cool.busiest.filter s.coreIsland).reverse.find? (fun i => decide (s.islandClock i < 2400) && !s.power.held.contains i) = some 239) ∧
    (3 < 4 ∧ 3 ∉ st.fenced ∧ 47 < 48 ∧ 10000 ≤ 10000 ∧ 11499 < 11500 ∧ 63 < 64 ∧ 11500 ≤ 11500) ∧ 199 < 200 := by decide +kernel

theorem test_meets_Background :
    let im : TestImage := { measure := 1, result := 2, version := 1, payload := [], header := none, area := (64, 128) }
    let r := fun (f : Option (Nat × Nat)) => ({ core := 767, slot := some 63, image := 3, ctx := 2, first := f } : TestRun)
    let s := fun (f : Option (Nat × Nat)) => ({ st with images := [(3, im)], tests := [r f] } : State)
    (∀ b ∈ [true, false], ({ st with agenda := [.upset (.reg 1024 255) b] } : State).agenda = .upset (.reg 1024 255) b :: []) ∧
    Tab.find st.threads 1024 = some thr ∧
    (st.picks = [] ∧ 32 * (2 ^ 35 - 1) < 2 ^ 40 ∧ 32 * 0 < 2 ^ 40 ∧ paLegal (32 * 0) = true ∧ st.lost (32 * 0) = false ∧ st.accordPages = []) ∧
    Tab.find (fabricSt thr []).ports 0 = some upPort ∧ (∀ f ∈ [none, some (0, 63)], Tab.find (s f).images 3 = some im ∧
      (s f).tests.find? (fun q => q.core == 767 && q.image == 3) = some (r f) ∧ (r f).slot = some 63 ∧
      ((s f).ctxs.any fun e => e.1 == (r f).ctx) = false) := by decide +kernel

/-- The second page of the host's window, over the page. -/
def aper : Aperture := { asid := 1, hdm := false, offset := 65536, va := 0x80_0001_0000, len := 65536 }

/-- A module that is ready, one that is busy and one that is not ready; the whole buffer; offsets with no aperture, and the last four bytes of
one. -/
theorem test_meets_HostAccesses :
    let busy : State := { st with host := { st.host with stat := 2 } }
    let early : State := { st with host := { st.host with boot := 1 } }
    let s : State := { st with host := { st.host with apertures := [aper] } }
    let off := aper.start + 65532
    let w := State.fwReach s aper.asid 0 0x80_0001_FFFC 4 Need.store
    let r := State.fwReach s aper.asid 0 0x80_0001_FFFC 4 Need.load
    (st.isReady = true ∧ st.host.stat.getLsbD 1 = false) ∧ ¬(busy.isReady = true ∧ busy.host.stat.getLsbD 1 = false) ∧ early.isReady = false ∧
    4032 + (List.replicate 64 (1 : Byte)).length ≤ 4096 ∧ (1 : BitVec 64).getLsbD 0 = true ∧ (0 : BitVec 64).getLsbD 0 = false ∧
    (∀ a ∈ s.host.apertures, 65528 + 8 ≤ a.start ∨ a.start + a.len ≤ 65528) ∧ s.starved = false ∧
    (s.host.apertures = [aper] ∧ aper.start ≤ off ∧ off < aper.start + aper.len ∧ aper.va.toNat + (off - aper.start) = 0x80_0001_FFFC ∧
      min (List.replicate 8 (1 : Byte)).length (aper.start + aper.len - off) = 4 ∧ 0x80_0001_FFFC % 65536 + 4 ≤ 65536) ∧
    (w = (w.1, .ok 0x60_FFFC) ∧ w.1.starved = false) ∧ r = (r.1, .ok 0x60_FFFC) ∧ r.1.starved = false :=
  join8 (by decide +kernel) ⟨by decide +kernel, ⟨reached (by decide +kernel), by decide +kernel⟩, reached (by decide +kernel), by decide +kernel⟩

/-! ### Requests -/

/-- A state with a request in its buffer. -/
def asking (s : State) (code : Nat) (p : List Byte) : State :=
  { s with host := { s.host with req := Store.writes (w := 8) [] 0 (natBytes 2 code ++ natBytes 2 0 ++ natBytes 4 p.length ++ natBytes 8 0 ++ p) } }

/-- The conditions of `Asks`, evaluated. -/
def asksB (s : State) (code : Nat) (fs : List (Nat × Nat)) (p : List Byte) : Bool :=
  s.isReady && !s.host.stat.getLsbD 1 && decide (Store.reads s.host.req 0 2 = natBytes 2 code) && decide (Store.reads s.host.req 2 2 = [0, 0]) &&
  decide (Store.reads s.host.req 4 4 = natBytes 4 p.length) && decide (Store.reads s.host.req 8 8 = List.replicate 8 0) &&
  decide (Store.reads s.host.req 16 p.length = p) && decide (p.length = fieldsEnd fs) && reservedZero fs p && decide (p.length ≤ 4080)

theorem asks_of {s : State} {code : Nat} {fs : List (Nat × Nat)} {p : List Byte} (h : asksB s code fs p = true) : Asks s code fs p := by
  simp only [asksB, Bool.and_eq_true, decide_eq_true_eq, Bool.not_eq_true'] at h
  obtain ⟨⟨⟨⟨⟨⟨⟨⟨⟨h1, h2⟩, h3⟩, h4⟩, h5⟩, h6⟩, h7⟩, h8⟩, h9⟩, h10⟩ := h
  exact ⟨h1, h2, h3, h4, h5, h6, h7, h8, h9, h10⟩

/-- A length that is not the command's, a header byte that is not 0, a code that no command has, and a module that is not ready. -/
theorem test_meets_MailboxRefusals :
    let q := fun (b : List Byte) => ({ st with host := { st.host with req := Store.writes (w := 8) [] 0 b } } : State)
    let long := q (natBytes 2 0x0001 ++ natBytes 2 0 ++ natBytes 4 1)
    let head := q (natBytes 2 0x0001 ++ natBytes 2 1)
    let last := q (natBytes 2 0x0001 ++ natBytes 13 0 ++ [1])
    let code := q (natBytes 2 0xFFFF)
    ((Instr.mbxInfo 5, 0x0001, 0) ∈ Claim.fixedCommands 5) ∧
    (∀ s ∈ [long, head, last, code], s.isReady = true ∧ s.host.stat.getLsbD 1 = false) ∧
    (∀ s ∈ [long, head, last], Store.reads s.host.req 0 2 = natBytes 2 0x0001) ∧ natOf (Store.reads long.host.req 4 4) ≠ 0 ∧
    natOf (Store.reads head.host.req 2 2) ≠ 0 ∧ natOf (Store.reads last.host.req 8 8) ≠ 0 ∧
    natOf (Store.reads code.host.req 0 2) ∉ [0x0001, 0x0002, 0x0010, 0x0011, 0x0012, 0x0020, 0x0021, 0x0022, 0x0023, 0x0024, 0x0025, 0x0030,
        0x0031, 0x0032, 0x0033, 0x0040, 0x0041, 0x0042, 0x0043, 0x0044, 0x0050, 0x0051, 0x0052, 0x0053, 0x0060, 0x0061, 0x0062, 0x0070,
        0x0071, 0x0080, 0x0090] ∧ State.reset.isReady = false :=
  ⟨List.mem_append_left _ (List.mem_cons_self ..), by decide +kernel⟩

/-- Requests about the module, with values at the ends of their ranges and beyond. -/
theorem test_meets_MailboxModule :
    let f := fabricSt thr []
    let put : FabricTx := { fabTx 0 with handle := 4095 }
    let q : LaunchQ := { collQueue with collective := false }
    let ev : State := { st with host := { st.host with evPosted := 7, evAck := 3 } }
    (asksB (asking st 0x0001 []) 0x0001 [] [] = true ∧ asksB (asking st 0x0071 []) 0x0071 [] [] = true) ∧
    (∀ n ∈ [2, 3, 7, 8], asksB (asking ev 0x0002 (natBytes 8 n)) 0x0002 [(0, 8)] (natBytes 8 n) = true) ∧
    (∀ s ∈ [st, f], asksB (asking s 0x0040 (natBytes 2 511)) 0x0040 [(0, 2)] (natBytes 2 511) = true) ∧ st.windows = [] ∧ f.windows ≠ [] ∧
    field (natBytes 2 511) 0 2 < 512 ∧
    (∀ n ∈ [1499, 1500, 4200, 4201], asksB (asking st 0x0070 (natBytes 4 n)) 0x0070 [(0, 4)] (natBytes 4 n) = true ∧ field (natBytes 4 n) 0 4 = n) ∧
    (let p := natBytes 2 4094 ++ natBytes 2 1 ++ natBytes 1 3 ++ natBytes 3 0 ++ natBytes 8 (2 ^ 57 - 2 ^ 48) ++ natBytes 8 (2 ^ 48)
     asksB (asking f 0x0041 p) 0x0041 [(0, 2), (2, 2), (4, 1), (8, 8), (16, 8)] p = true ∧ Tab.find f.asids (field p 2 2) = some probeAsid ∧
       probeAsid.live = true ∧ probeAsid.closing = false ∧ field p 2 2 < 1024 ∧ field p 0 2 < 4096 ∧ 0 < field p 4 1 ∧ field p 4 1 < 4 ∧ field p 8 8 % 65536 = 0 ∧
       field p 16 8 % 65536 = 0 ∧ field p 16 8 ≤ 2 ^ 48 ∧ field p 8 8 + field p 16 8 ≤ 2 ^ 57 ∧ Tab.find f.windows (field p 0 2) = none) ∧
    (let p := natBytes 2 4095
     asksB (asking f 0x0042 p) 0x0042 [(0, 2)] p = true ∧ Tab.find f.windows (field p 0 2) = some window ∧ f.windowBusy 4095 = false ∧
       ({ f with txs := [(1, put)] } : State).windowBusy 4095 = true) ∧
    (let p := natBytes 2 4095 ++ natBytes 6 0 ++ natBytes 8 (2 ^ 64 - 1)
     asksB (asking st 0x0043 p) 0x0043 [(0, 2), (8, 8)] p = true ∧ field p 0 2 < 4096) ∧
    (let p := natBytes 2 4095
     asksB (asking { st with queues := [(4095, q)] } 0x0032 p) 0x0032 [(0, 2)] p = true ∧ q.closed = false ∧ field p 0 2 = 4095) ∧
    (let p := natBytes 2 4095
     asksB (asking (popSt thr pop) 0x0053 p) 0x0053 [(0, 2)] p = true ∧ Tab.find (popSt thr pop).pops (field p 0 2) = some pop) := by decide +kernel

/-- Requests on address spaces: a free slot, bank units at the end of a die, each way to fill a page, a page that is mapped, apertures at the
ends of the two areas, queues and message queues. -/
theorem test_meets_MailboxSpaces :
    let asid := probeAsid
    (let p := natBytes 8 65536 ++ natBytes 8 0 ++ natBytes 8 0 ++ natBytes 8 0
     asksB (asking st 0x0010 p) 0x0010 [(0, 8), (8, 8), (16, 8), (24, 8)] p = true ∧
       ((List.range 1024).find? fun n => match Tab.find st.asids n with | some a => !a.live && !a.closing | none => true) = some 0 ∧
       ∃ s1 pa, (asking st 0x0010 p).allocFrames none 32 = some (s1, pa)) ∧
    (asksB (asking st 0x0011 (natBytes 2 1)) 0x0011 [(0, 2)] (natBytes 2 1) = true ∧ Tab.find st.asids 1 = some asid ∧ asid.live = true ∧ asid.closing = false ∧
      ((asking st 0x0011 (natBytes 2 1)).teardown 1).starved = false) ∧
    (let c : Asid := { asid with closing := true }
     let t : State := { st with asids := [(1, c)] }
     let d : State := { st with asids := [(1, { c with live := false })] }
     let e : State := { st with asids := [(1, { asid with live := false })] }
     let p := natBytes 2 1
     let served := asking e 0x0011 p
     (c.closing = true ∧ c.live = true ∧ t.inFlight 1 = false ∧ ({ t with txs := [(9, fabTx 0)] } : State).inFlight 1 = true ∧
       Tab.find d.asids 1 = some { c with live := false }) ∧
     (let b : State := { served with host := { served.host with stat := served.host.stat ||| 2, served := 5 } }
      b.host.stat.getLsbD 1 = true ∧ b.host.served = 5 ∧
        asksB { b with host := { b.host with stat := b.host.stat &&& ~~~2 } } 0x0011 [(0, 2)] p = true ∧
        Tab.find b.asids 1 = some { asid with live := false })) ∧
    (∀ n ∈ [0, 1], let p := natBytes 2 1 ++ natBytes 1 3 ++ natBytes 1 0 ++ natBytes 2 1023 ++ natBytes 2 n
     asksB (asking st 0x0012 p) 0x0012 [(0, 2), (2, 1), (4, 2), (6, 2)] p = true ∧ field p 2 1 < 4 ∧ field p 4 2 + field p 6 2 ≤ 1024 ∧
       field p 2 1 ∉ st.fenced) ∧
    (Tab.find asid.banks 3 = none ∧ Tab.find ({ asid with banks := [(3, (1, 1))] } : Asid).banks 3 = some (1, 1)) ∧
    (let p := fun (fill : Nat) => natBytes 2 1 ++ natBytes 1 0 ++ natBytes 1 7 ++ natBytes 1 fill ++ natBytes 1 255 ++ natBytes 2 0 ++
        natBytes 8 0x80_0004_0000 ++ natBytes 4 1 ++ natBytes 4 0 ++ natBytes 8 0
     let s := asking st 0x0020 (p 1)
     (∀ n ∈ [0, 1], asksB (asking st 0x0020 (p n)) 0x0020 [(0, 2), (2, 1), (3, 1), (4, 1), (5, 1), (8, 8), (16, 4), (24, 8)] (p n) = true ∧
       pageBits (field (p n) 2 1) = some 16 ∧ field (p n) 3 1 < 8 ∧ field (p n) 5 1 = 255 ∧ field (p n) 8 8 % 2 ^ 16 = 0 ∧
       field (p n) 8 8 + 2 ^ 16 ≤ 2 ^ 57 ∧ field (p n) 16 4 = 1 ∧ field (p n) 4 1 = n) ∧
     asid.used + 2 ^ 16 ≤ asid.limit ∧ s.leafOf 1 0x80_0004_0000 = .unmapped ∧ s.tablePoison 1 16 1 0x80_0004_0000 = none ∧
     (∃ s1, (asking st 0x0020 (p 0)).setLeaf 1 0x80_0004_0000 16 (mkLeaf 0 (BitVec.ofNat 3 7) false false 0) = some s1) ∧
     ∃ s1 pa s2, s.allocFrames none (pageFrames 16) = some (s1, pa) ∧
       s1.setLeaf 1 0x80_0004_0000 16 (mkLeaf pa (BitVec.ofNat 3 7) true false 0) = some s2 ∧ true = true) ∧
    (let p := natBytes 2 1 ++ natBytes 6 0 ++ natBytes 8 0x80_0001_0000 ++ natBytes 4 1
     let s := asking st 0x0021 p
     asksB s 0x0021 [(0, 2), (8, 8), (16, 4)] p = true ∧ field p 16 4 = 1 ∧ s.leafOf 1 0x80_0001_0000 = .leaf 0x40_2008 0x60_033f 16 ∧
       field p 8 8 % 2 ^ 16 = 0 ∧ s.stateOwner 1 0x80_0001_0000 = none ∧ bit 0x60_033f 6 = false ∧ s.queueAt (leafFrame 0x60_033f) = none ∧
       s.tablePoison 1 16 1 0x80_0001_0000 = none ∧ s.accordQ = [] ∧ s.accordReads = [] ∧ s.blocks.all (fun b => b.2.buffer == []) = true) ∧
    (∀ x ∈ [(0, 2 ^ 40 - 65536, 65536), (1, 768 * 2 ^ 30 - 65536, 65536), (0, 0, 0)],
      let p := natBytes 2 1 ++ natBytes 1 x.1 ++ natBytes 5 0 ++ natBytes 8 x.2.1 ++ natBytes 8 0x80_0001_0000 ++ natBytes 8 x.2.2
      asksB (asking st 0x0022 p) 0x0022 [(0, 2), (2, 1), (8, 8), (16, 8), (24, 8)] p = true ∧ field p 2 1 < 2 ∧ field p 8 8 % 65536 = 0 ∧
        field p 24 8 % 65536 = 0 ∧ field p 16 8 + field p 24 8 ≤ 2 ^ 57 ∧ field p 24 8 = x.2.2 ∧
        field p 8 8 + field p 24 8 ≤ (if field p 2 1 = 1 then 768 * 2 ^ 30 else 2 ^ 40)) ∧ st.host.apertures = [] ∧
      (let y : Aperture := { aper with asid := 2, offset := 0 }
       (field (natBytes 8 0) 0 8 = 0) ∧ y.hdm = ((0 : Nat) == 1) ∧ y.offset = 0 ∧ y.asid ≠ 1) ∧
    (let p := natBytes 2 1 ++ natBytes 1 7 ++ natBytes 5 0 ++ natBytes 8 0x80_0004_0000
     let s := asking st 0x0030 p
     asksB s 0x0030 [(0, 2), (2, 1), (8, 8)] p = true ∧ field p 2 1 < 8 ∧ field p 8 8 % 65536 = 0 ∧ field p 8 8 + 65536 ≤ 2 ^ 57 ∧
       ((List.range 4096).find? fun n => match Tab.find s.queues n with | some q => q.closed | none => true) = some 0 ∧
       s.leafOf 1 0x80_0004_0000 = .unmapped ∧
       ∃ s1 pa s2, s.allocFrames none 1 = some (s1, pa) ∧ s1.setLeaf 1 0x80_0004_0000 16 (mkLeaf pa 3 true false 0) = some s2 ∧
         ([0, 1, 2, 3].any fun d => !s2.fenced.contains d) = true) ∧
    (let p := natBytes 2 1 ++ natBytes 6 0 ++ natBytes 8 0x80_0004_0000
     let s := asking st 0x0033 p
     asksB s 0x0033 [(0, 2), (8, 8)] p = true ∧ asid.collective = none ∧ s.leafOf 1 0x80_0004_0000 = .unmapped ∧
       ∃ s1 pa s2, s.allocFrames none 1 = some (s1, pa) ∧ s1.setLeaf 1 0x80_0004_0000 16 (mkLeaf pa 3 true false 0) = some s2 ∧
         ([0, 1, 2, 3].any fun d => !s2.fenced.contains d) = true) ∧
    (let p := natBytes 2 4095
     let q : LaunchQ := { collQueue with collective := false }
     let s := asking { st with queues := [(4095, q)] } 0x0031 p
     asksB s 0x0031 [(0, 2)] p = true ∧ Tab.rising s.queues = true ∧ Tab.find s.queues (field p 0 2) = some q ∧ q.closed = false ∧ s.homeQ ++ s.bankQ = []) ∧
    (let p := fun (k va : Nat) => natBytes 2 1 ++ natBytes 1 k ++ natBytes 5 0 ++ natBytes 8 va
     let s := asking st 0x0090 (p 12 0x80_0001_0000)
     (∀ x ∈ [(0, 0), (4, 0x80_0001_0000), (12, 0x80_0001_0000)], asksB (asking st 0x0090 (p x.1 x.2)) 0x0090 [(0, 2), (2, 1), (8, 8)] (p x.1 x.2) = true) ∧
       field (p 12 0x80_0001_0000) 8 8 + 64 + 64 * 2 ^ 12 ≤ 2 ^ 57 ∧ ∃ s1, s.fwWrite 1 0x80_0001_0000 (List.replicate 64 0) = (s1, true)) :=
  ⟨⟨by decide +kernel, by decide +kernel, some_pair (by decide +kernel)⟩, by decide +kernel, by decide +kernel, by decide +kernel, by decide +kernel,
    ⟨by decide +kernel, by decide +kernel, by decide +kernel, by decide +kernel, Option.isSome_iff_exists.mp (by decide +kernel),
      some_chain (p := fun _ => true) (by decide +kernel)⟩,
    by decide +kernel, by decide +kernel, by decide +kernel, by decide +kernel,
    ⟨by decide +kernel, by decide +kernel, by decide +kernel, by decide +kernel, by decide +kernel, by decide +kernel,
      some_chain (p := fun x : State => [0, 1, 2, 3].any fun d => !x.fenced.contains d) (by decide +kernel)⟩,
    ⟨by decide +kernel, by decide +kernel, by decide +kernel,
      some_chain (p := fun x : State => [0, 1, 2, 3].any fun d => !x.fenced.contains d) (by decide +kernel)⟩, by decide +kernel,
    ⟨by decide +kernel, by decide +kernel, ⟨_, wrote (by decide +kernel)⟩⟩⟩

/-- Set 31 with three and with five members, pages mapped and not; a first page; a member that is lost; an envelope. -/
theorem test_meets_MailboxAccord :
    let s := { accordOf threeLive [] [] with accordPages := [] }
    (∀ x ∈ [(3, 0x840), (5, 0xD9840)], let p := natBytes 1 31 ++ natBytes 1 x.1 ++ natBytes 2 0 ++ natBytes 4 x.2
     asksB (asking s 0x0023 p) 0x0023 [(0, 1), (1, 1), (4, 4)] p = true ∧ field p 0 1 < 32 ∧ (field p 1 1 = 3 ∨ field p 1 1 = 5) ∧
       field p 4 4 < 2 ^ 20 ∧ setLegal (setEntry (field p 1 1) (field p 4 4)) = true ∧ s.membersLive (setEntry (field p 1 1) (field p 4 4)) = true) ∧
    s.accordGiven 31 = [] ∧ ({ s with accordPages := [(31, 0, 1)] } : State).accordGiven 31 ≠ [] ∧
    (let p := natBytes 2 1 ++ natBytes 1 0 ++ natBytes 1 7 ++ natBytes 4 0 ++ natBytes 8 0x80_0004_0000 ++ natBytes 4 1
     let s := asking s 0x0024 p
     asksB s 0x0024 [(0, 2), (2, 1), (3, 1), (8, 8), (16, 4)] p = true ∧ field p 2 1 < 32 ∧ field p 3 1 < 8 ∧ field p 16 4 = 1 ∧
       bit (s.setOf 0) 23 = true ∧ probeAsid.used + 65536 ≤ probeAsid.limit ∧ s.leafOf 1 0x80_0004_0000 = .unmapped ∧
       ((List.range (min (s.accordLen / 65536) (s.accordPages.length + 1))).find? fun q => !(s.accordPages.map fun x => x.2.1).contains q) = some 0 ∧
       ∃ s1, State.setLeaf { (s.zeroAccord 0 0) with accordPages := s.accordPages ++ [(0, 0, 1)]
                                                     rebuilt := s.rebuilt.filter fun x => x.1 != 0 }
         1 0x80_0004_0000 16 (mkLeaf (65536 * 0) (BitVec.ofNat 3 7) true true 0) = some s1) ∧
    (let p := natBytes 1 0 ++ natBytes 1 2 ++ natBytes 1 12
     let s := asking { accordOf (threeLive &&& ~~~(BitVec.ofNat 64 (2 ^ 26 + 2 ^ 31))) [] [] with accordPages := [(0, 0, 1)] } 0x0025 p
     let e := (s.setOf 0 &&& ~~~(BitVec.ofNat 64 (15 * 2 ^ (4 * 2)))) ||| BitVec.ofNat 64 (12 * 2 ^ (4 * 2))
     asksB s 0x0025 [(0, 1), (1, 1), (2, 1)] p = true ∧ field p 0 1 < 32 ∧ field p 1 1 < 5 ∧ field p 2 1 < 16 ∧ bit (s.setOf 0) 23 = true ∧
       field p 1 1 < setCount (s.setOf 0) ∧ bit (s.setOf 0) (24 + 2) = false ∧ setLegal (e &&& 0x00ffffff) = true ∧ 12 / 4 ∉ s.fenced ∧
       s.accordGiven 0 ≠ [] ∧ s.queues = []) ∧
    (let p := natBytes 2 1 ++ natBytes 6 0 ++ natBytes 8 0x80_0001_0000 ++ natBytes 8 64
     let s := asking st 0x0044 p
     asksB s 0x0044 [(0, 2), (8, 8), (16, 8)] p = true ∧ 0 < field p 16 8 ∧ field p 8 8 + field p 16 8 ≤ 2 ^ 57 ∧
       ∃ s1 b, s.collRead 1 0 0x80_0001_0000 64 = (s1, some b)) ∧
    (let e := List.replicate 0x42d8 (0 : Byte)
     envelopeOf (e.drop 1) = none ∧ (match envelopeOf e with | some x => decide (st.refusal 2 x = some 1) | none => false) = true) :=
  ⟨by decide +kernel, by decide +kernel, by decide +kernel,
    join8 (by decide +kernel) (Option.isSome_iff_exists.mp (by decide +kernel)), by decide +kernel,
    ⟨by decide +kernel, by decide +kernel, by decide +kernel, some_snd (by decide +kernel)⟩,
    by decide +kernel⟩

/-- A population of one particle that this module may have; one that is and one that is not admitted; each state that a command needs. -/
theorem test_meets_MailboxPopulations :
    let create := natBytes 2 1 ++ natBytes 1 1 ++ natBytes 1 7 ++ natBytes 4 1 ++ natBytes 8 9 ++ natBytes 1 255 ++ natBytes 1 0 ++ natBytes 2 65535 ++
      natBytes 4 10 ++ natBytes 4 10 ++ natBytes 4 1 ++ natBytes 8 0x80_0010_0000 ++ natBytes 2 1 ++ natBytes 2 1 ++ natBytes 4 0 ++ natBytes 8 0
    let s := asking st 0x0050 create
    let y := parsePop create
    let act := fun (n : Nat) => natBytes 2 4095 ++ natBytes 1 n
    let with_ := fun (p : Population) => popSt thr p
    let fill : Population := { pop with state := .filling, admitted := false, period := 10 }
    let all : Population := { pop with snap := some { weights := [], started := false, draw := none, redrawn := false } }
    let p := natBytes 2 4095 ++ natBytes 2 1 ++ natBytes 4 0 ++ natBytes 8 0x80_0001_0000
    let l := asking (with_ fill) 0x0052 p
    (asksB s 0x0050 (popFields create) create = true ∧ popOk create y = true ∧ y.asid < 1024 ∧ Tab.find s.asids y.asid = some probeAsid ∧
      s.memberIndex y = some 0 ∧ s.rangeFree y.asid (y.base.toNat + 65536 * y.k * (y.range 0).1) (y.k * ((y.range 0).2 - (y.range 0).1)) = true ∧
      s.pops.foldl (fun n e => n + e.2.parts.length) 0 + ((y.range 0).2 - (y.range 0).1) ≤ 1048576 ∧
      ((List.range 4096).find? fun g => (Tab.find s.pops g).isNone) = some 0) ∧
    (∃ t, State.giveSlots { s with pops := Tab.put s.pops 0 { y with parts := [(0, Particle.new 0)] } } 0 { y with parts := [(0, Particle.new 0)] } [0] =
      some t) ∧
    (∀ n ∈ [1, 2, 3, 4], asksB (asking (with_ fill) 0x0051 (act n)) 0x0051 [(0, 2), (2, 1)] (act n) = true ∧ field (act n) 2 1 = n ∧ field (act n) 0 2 = 4095) ∧
    (fill.state = .filling ∧ fill.members.length = 1 ∧ fill.recomp = false ∧ (with_ fill).admits 4095 = true ∧ (with_ { fill with budget := 1000000 }).admits 4095 = false) ∧
    (pop.state = .running ∧ ({ pop with state := .paused } : Population).state = .paused ∧ all.snap.isSome = true ∧ pop.snap.isSome = false) ∧
    (asksB l 0x0052 (packetFields p) p = true ∧ 0 < field p 2 2 ∧ field p 2 2 ≤ 64 ∧ fill.state = .filling ∧
      ∃ t x, l.readPackets fill.asid [0x80_0001_0000] = (t, some x)) :=
  ⟨by decide +kernel, Option.isSome_iff_exists.mp (by decide +kernel), by decide +kernel, by decide +kernel, by decide +kernel,
    by decide +kernel, by decide +kernel, by decide +kernel, by decide +kernel, some_snd (by decide +kernel)⟩

/-- An address space with a context that runs and with none; sessions attached and not; the last bytes of an image; a report. -/
theorem test_meets_MailboxContexts :
    let none_ : State := { st with ctxs := [] }
    let dbg : State := { st with asids := [(1, { probeAsid with debug := true })] }
    let c : Ctx := { probeCtx with state := .debugStop }
    let img : State := { st with ctxs := [(1, c)], groups := [] }
    let total := 4096 + c.blocks.length * c.part
    let act := fun (n : Nat) => natBytes 2 1 ++ natBytes 1 n
    let read := natBytes 2 1 ++ natBytes 6 0 ++ natBytes 8 (imageVa 1) ++ natBytes 4 (total - 4056) ++ natBytes 4 4056
    let write := natBytes 2 1 ++ natBytes 1 1 ++ natBytes 5 0 ++ natBytes 8 (imageVa 1) ++ natBytes 4 (total - 1) ++ natBytes 4 1 ++ natBytes 1 7
    let rep := natBytes 48 5 ++ natBytes 2 1 ++ natBytes 6 0 ++ natBytes 8 0x80_0001_0000 ++ natBytes 8 32768
    (∀ s ∈ [st, none_], asksB (asking s 0x0060 (natBytes 2 1)) 0x0060 [(0, 2)] (natBytes 2 1) = true) ∧ st.resident 1 ≠ [] ∧ none_.resident 1 = [] ∧
    (∀ n ∈ [0, 1, 2, 3], ∀ s ∈ [st, dbg], asksB (asking s 0x0061 (act n)) 0x0061 [(0, 2), (2, 1)] (act n) = true ∧ field (act n) 2 1 = n) ∧
    probeAsid.debug = false ∧ probeAsid.closing = false ∧ ({ probeAsid with debug := true } : Asid).debug = true ∧
    (img.ctxs.find? (fun e => e.2.asid == 1 && e.2.image.toNat == imageVa 1) = some (1, c) ∧ c.state = .debugStop ∧ img.ctxStopped 1 = true ∧ ({ c with state := .out } : Ctx).state = .out ∧ probeCtx.held = false ∧
      0 < field read 20 4 ∧ field read 20 4 ≤ 4056 ∧ field read 16 4 + field read 20 4 ≤ total ∧ field read 8 8 = imageVa 1 ∧
      asksB (asking img 0x0062 read) 0x0062 [(0, 2), (2, 1), (8, 8), (16, 4), (20, 4)] read = true ∧ field read 2 1 = 0 ∧
      asksB (asking img 0x0062 write) 0x0062 [(0, 2), (2, 1), (8, 8), (16, 4), (20, 4), (24, 1)] write = true ∧ field write 2 1 = 1 ∧
      field write 20 4 = 1) ∧
    asksB (asking st 0x0080 rep) 0x0080 [(0, 48), (48, 2), (56, 8), (64, 8)] rep = true ∧ field rep 48 2 = 1 := by decide +kernel

/-! ### Statements about every step -/

/-- The module after reset is canonical and takes a step; so does a module that runs a thread. -/
theorem test_meets_StepKeepsCanonical :
    State.reset.Canonical ∧ (match step State.reset with | .next _ => true | _ => false) = true ∧ st.Canonical :=
  ⟨canon_of (by decide +kernel), by decide +kernel, canon_of (by decide +kernel)⟩

/-- An instruction of words that is well-formed. -/
theorem test_meets_DecodeEncode :
    (Instr.iadd (.v 0) (.v 4) (.lit32 5) true).wf = true ∧ (Instr.iadd (.v 0) (.v 4) (.lit32 5) true).isWord = true := by decide

end Sys2Proof.Tests
end

section
/-!
SUPPORT. How the integer, select and move instructions complete: one rule for each form that their arms of `exec` have, which form each arm
has, and the fields of their encodings.
-/
namespace Sys2Proof.Machine

/-! ## Completion -/

/-- Class F: under `Issues` an instruction that writes the `w` registers of its d field completes. -/
theorem issue_finishF_completes {s : State} {t : Thread} {q : Req} (h : Issues s t q) (d : Dst) {w : Nat} {vs : Nat → Thread → List Word}
    (hw : (vs s.cur t).length = w) (lits : Nat) (m : Bool) :
    CompletesF s t (s.issue q fun k t => s.finishF k t (d.dests t.wb.toNat w) (vs k t) 0 lits m)
      (d.dests t.wb.toNat w) (vs s.cur t) 0 (nextPc t.pc lits) := by
  rw [issue_of_issues h]
  exact finishF_completes h.found _ _ _ _ _ (dests_nodup d _ _) (hw ▸ dests_length d _ _)

section Forms

variable {s : State} {t : Thread} {i : Instr} {d : Dst} {a b : Src} {m : Bool}

theorem alu1_completes {f : Word → Word} {v : Word} (he : exec i s = alu1 d a m f s) (h : Issues s t (Req.any [fd d 1, fa a 1]))
    (hv : f (a.get32 s s.cur t) = v) : CompletesF s t (exec i s) (d.dests t.wb.toNat 1) [v] 0 (nextPc t.pc (lits1 a)) := by
  rw [he, ← hv]
  exact issue_finishF_completes h d (vs := fun k t => [f (a.get32 s k t)]) rfl _ m

theorem alu2_completes {f : Word → Word → Word} {v : Word} (he : exec i s = alu2 d a b m f s)
    (h : Issues s t (Req.any [fd d 1, fa a 1, fb b 1])) (hv : f (a.get32 s s.cur t) (b.get32 s s.cur t) = v) :
    CompletesF s t (exec i s) (d.dests t.wb.toNat 1) [v] 0 (nextPc t.pc (lits2 a b)) := by
  rw [he, ← hv]
  exact issue_finishF_completes h d (vs := fun k t => [f (a.get32 s k t) (b.get32 s k t)]) rfl _ m

theorem alu3_completes {f : Word → Word → Word → Word} {v : Word} (he : exec i s = alu3 d a b m f s)
    (h : Issues s t (Req.any [fdr d 1, fa a 1, fb b 1])) (hv : f (d.get32 t) (a.get32 s s.cur t) (b.get32 s s.cur t) = v) :
    CompletesF s t (exec i s) (d.dests t.wb.toNat 1) [v] 0 (nextPc t.pc (lits2 a b)) := by
  rw [he, ← hv]
  exact issue_finishF_completes h d (vs := fun k t => [f (d.get32 t) (a.get32 s k t) (b.get32 s k t)]) rfl _ m

/-- A pair result is written low half first. -/
theorem pair_completes {q : Req} {f : Nat → Thread → Pair} {v : Pair} {lits : Nat}
    (he : exec i s = s.issue q fun k t => s.finishF k t (d.dests t.wb.toNat 2) (pairWords (f k t)) 0 lits m)
    (h : Issues s t q) (hv : f s.cur t = v) :
    CompletesF s t (exec i s) (d.dests t.wb.toNat 2) [v.extractLsb' 0 32, v.extractLsb' 32 32] 0 (nextPc t.pc lits) := by
  rw [he, ← hv]
  exact issue_finishF_completes h d (vs := fun k t => pairWords (f k t)) rfl lits m

end Forms

/-- Retiring is finishing without a destination and without flags. -/
theorem retire_eq_finishF (s : State) (k : Nat) (t : Thread) (lits : Nat) (m : Bool) : s.retire k t lits m = s.finishF k t [] [] 0 lits m := by
  have hd : s.fpDue k t 0 t.pc t.order = [] := by simp [State.fpDue]
  have hr : s.raise k 0 = s := by simp [State.raise]
  have hb : t.bad.filter (fun n => !([] : List RegId).contains (.v n)) = t.bad := by simp
  simp only [State.finishF, Thread.putRegs, hd, hr, hb, writeRegs, addDue, List.foldl_nil]

/-- Class V: under `Issues` the result is outstanding, and nothing but the thread changes. -/
theorem classV_completes {s : State} {t : Thread} {i : Instr} {q : Req} {d : Dst} {w : Nat} {f : Nat → Thread → Word} {v : Word}
    {lits : Nat} {m : Bool}
    (he : exec i s = s.issue q fun k t => s.finishV k t (d.dests t.wb.toNat w) (some [f k t]) 0 false none lits m)
    (h : Issues s t q) (hv : f s.cur t = v) :
    CompletesV s t (exec i s) (d.dests t.wb.toNat w) (some [v]) 0 false (nextPc t.pc lits) := by
  rw [he, issue_of_issues h, hv]
  exact ⟨_, rfl, finishV_issued h.found _ _ _ _ _ _ _⟩

/-! ## The arms of `exec` by form -/

section Arms

variable (s : State) (d : Dst) (a b : Src) (m : Bool)

theorem exec_iadd : exec (.iadd d a b m) s = alu2 d a b m (fun x y => x + y) s := rfl
theorem exec_isub : exec (.isub d a b m) s = alu2 d a b m (fun x y => x - y) s := rfl
theorem exec_imul (f : ImulF) : exec (.imul d a b f m) s = alu2 d a b m (imulVal f) s := rfl
theorem exec_imnx (f : ImnxF) : exec (.imnx d a b f m) s = alu2 d a b m (imnxVal f) s := rfl
theorem exec_and (n : Bool) : exec (.and d a b n m) s = alu2 d a b m (fun x y => x &&& notIf n y) s := rfl
theorem exec_or (n : Bool) : exec (.or d a b n m) s = alu2 d a b m (fun x y => x ||| notIf n y) s := rfl
theorem exec_xor (n : Bool) : exec (.xor d a b n m) s = alu2 d a b m (fun x y => x ^^^ notIf n y) s := rfl
theorem exec_shl : exec (.shl d a b m) s = alu2 d a b m shlVal s := rfl
theorem exec_shr (ari : Bool) : exec (.shr d a b ari m) s = alu2 d a b m (shrVal ari) s := rfl
theorem exec_bfx (sx : Bool) : exec (.bfx d a b sx m) s = alu2 d a b m (bfxVal sx) s := rfl
theorem exec_icmp (f : IcmpF) : exec (.icmp d a b f m) s = alu2 d a b m (fun x y => bool32 (icmpVal f x y)) s := rfl
theorem exec_bfi : exec (.bfi d a b m) s = alu3 d a b m bfiVal s := rfl
theorem exec_prm : exec (.prm d a b m) s = alu3 d a b m prmVal s := rfl
theorem exec_imad_w32 : exec (.imad d a b .w32 m) s = alu3 d a b m (fun o x y => o + x * y) s := rfl
theorem exec_sel_w32 : exec (.sel d a b false m) s = alu3 d a b m (fun o x y => if o = 0 then y else x) s := rfl
theorem exec_bits (f : BitsF) : exec (.bits d a f m) s = alu1 d a m (bitsVal f) s := rfl
theorem exec_iabs (f : IabsF) : exec (.iabs d a f m) s = alu1 d a m (iabsVal f) s := rfl
theorem exec_mov_w32 : exec (.mov d a .w32 m) s = alu1 d a m id s := rfl

theorem exec_imad_w64 : exec (.imad d a b .w64 m) s = s.issue (Req.any [fdr d 2, fa a 1, fb b 1]) fun k t =>
    s.finishF k t (d.dests t.wb.toNat 2) (pairWords (d.get64 t + imadProduct true (a.get32 s k t) (b.get32 s k t))) 0 (lits2 a b) m := rfl

theorem exec_imad_w64n : exec (.imad d a b .w64n m) s = s.issue (Req.any [fdr d 2, fa a 1, fb b 1]) fun k t =>
    s.finishF k t (d.dests t.wb.toNat 2) (pairWords (d.get64 t + imadProduct false (a.get32 s k t) (b.get32 s k t))) 0 (lits2 a b) m := rfl

theorem exec_add64 (f : Add64F) : exec (.add64 d a b f m) s = s.issue (Req.any [fd d 2, fa a 2, fb b 2]) fun k t =>
    s.finishF k t (d.dests t.wb.toNat 2) (pairWords (add64Val f (a.get64 s k t) (b.get64 s k t))) 0 (lits2 a b) m := rfl

theorem exec_sel_w64 : exec (.sel d a b true m) s = s.issue (Req.any [fdr d 2, fa a 2, fb b 2]) fun k t =>
    s.finishF k t (d.dests t.wb.toNat 2) (pairWords (if d.get64 t = 0 then b.get64 s k t else a.get64 s k t)) 0 (lits2 a b) m := rfl

theorem exec_mov_w64 : exec (.mov d a .w64 m) s = s.issue (Req.any [fd d 2, fa a 2]) fun k t =>
    s.finishF k t (d.dests t.wb.toNat 2) (pairWords (a.get64 s k t)) 0 (lits1 a) m := rfl

theorem exec_mov_w128 : exec (.mov d a .w128 m) s = s.issue (Req.any [fd d 4, fa a 4]) fun k t =>
    s.finishF k t (d.dests t.wb.toNat 4) (a.get128 t) 0 (lits1 a) m := rfl

theorem exec_movi (i : BitVec 17) : exec (.movi d i m) s = s.issue (Req.any [fc d 1]) fun k t =>
    s.finishF k t (d.dests t.wb.toNat 1) [i.signExtend 32] 0 0 m := rfl

theorem exec_nop : exec (.nop m) s = s.issue (Req.any []) fun k t => s.retire k t 0 m := rfl

theorem exec_idiv (f : IdivF) : exec (.idiv d a b f m) s = s.issue (Req.any [fd d 1, fa a 1, fb b 1]) fun k t =>
    s.finishV k t (d.dests t.wb.toNat 1) (some [idivVal f (a.get32 s k t) (b.get32 s k t)]) 0 false none (lits2 a b) m := rfl

end Arms

/-! ## Encoding -/

/-- A slice of an append that lies above its low part is a slice of its high part. -/
theorem slice_of_high {v w n len : Nat} {x : BitVec v} {y : BitVec w} {r : BitVec len} (h : x.extractLsb' n len = r) :
    (x ++ y).extractLsb' (n + w) len = r := by
  rw [BitVec.extractLsb'_append_eq_of_le (by omega), Nat.add_sub_cancel, h]

theorem mkR_op (op d a b : BitVec 7) (f : BitVec 3) (m : Bool) : (mkR op d a b f m).op = op :=
  slice_of_high <| slice_of_high <| slice_of_high <| slice_of_high <| slice_of_high <| BitVec.extractLsb'_eq_self

theorem mkR_ff (op d a b : BitVec 7) (f : BitVec 3) (m : Bool) : (mkR op d a b f m).ff = f :=
  slice_of_high (n := 0) <| (BitVec.extractLsb'_append_eq_of_add_le (by decide)).trans BitVec.extractLsb'_eq_self

/-- A format R word carries its opcode and its f field (Table 3-1). -/
theorem coded_of_mkR {i : Instr} {op d a b : BitVec 7} {f : BitVec 3} {m : Bool} {l : List Word} {n k : Nat}
    (h : encode i = mkR op d a b f m :: l) (hn : op.toNat = n) (hk : f.toNat = k) : Coded i n k :=
  ⟨_, l, h, by rw [mkR_op, hn], by rw [mkR_ff, hk]⟩

end Sys2Proof.Machine
end

section
/-!
SUPPORT. The values of the integer instructions and of `prm` as numbers and bits: the model's operations on words, said in `Nat`, `Int` and
`getLsbD` as the tables of chapter 5 say them.
-/
namespace Sys2Proof.Machine

/-! ## Sums, products, shifts, compares and quotients (R91 to R93, R96, R98, R116) -/

theorem ofInt_sub_toInt (x y : Word) : x - y = BitVec.ofInt 32 (x.toInt - y.toInt) := by
  rw [Int.sub_eq_add_neg, BitVec.ofInt_add, BitVec.ofInt_neg, BitVec.ofInt_toInt, BitVec.ofInt_toInt, BitVec.sub_eq_add_neg]

theorem signExtend_mul (x y : Word) : x.signExtend 64 * y.signExtend 64 = BitVec.ofInt 64 (x.toInt * y.toInt) :=
  (BitVec.ofInt_mul ..).symm

theorem zeroExtend_mul (x y : Word) : x.zeroExtend 64 * y.zeroExtend 64 = BitVec.ofNat 64 (x.toNat * y.toNat) := by
  rw [BitVec.ofNat_mul, BitVec.ofNat_toNat, BitVec.ofNat_toNat]

theorem highHalf_eq (p : Pair) : p.extractLsb' 32 32 = BitVec.ofInt 32 (p.toInt / 2 ^ 32) := by
  apply BitVec.eq_of_toNat_eq
  have := p.isLt
  rw [BitVec.extractLsb'_toNat, BitVec.toNat_ofInt, BitVec.toInt_eq_toNat_cond, Nat.shiftRight_eq_div_pow]
  split <;> omega

theorem imulVal_lo (x y : Word) : imulVal .lo x y = BitVec.ofNat 32 (x.toNat * y.toNat) := by
  simp [imulVal, BitVec.ofNat_mul]

theorem imulVal_hi (x y : Word) : imulVal .hi x y = BitVec.ofInt 32 (x.toInt * y.toInt / 2 ^ 32) := by
  have h1 := BitVec.toInt_mul_toInt_le (x := x) (y := y)
  have h2 := BitVec.le_toInt_mul_toInt (x := x) (y := y)
  have h : (x.toInt * y.toInt).bmod (2 ^ 64) = x.toInt * y.toInt := by
    apply Int.bmod_eq_of_le <;> omega
  rw [imulVal, signExtend_mul, highHalf_eq, BitVec.toInt_ofInt, h]

theorem imulVal_hin (x y : Word) : imulVal .hin x y = BitVec.ofNat 32 (x.toNat * y.toNat / 2 ^ 32) := by
  have h : x.toNat * y.toNat < 2 ^ 32 * 2 ^ 32 := Nat.mul_lt_mul'' x.isLt y.isLt
  rw [imulVal, zeroExtend_mul]
  apply BitVec.eq_of_toNat_eq
  rw [BitVec.extractLsb'_toNat, BitVec.toNat_ofNat, BitVec.toNat_ofNat, Nat.shiftRight_eq_div_pow, Nat.mod_eq_of_lt (b := 2 ^ 64) h]

theorem shlVal_eq (x y : Word) : shlVal x y = if y.toNat < 32 then BitVec.ofNat 32 (x.toNat * 2 ^ y.toNat) else 0 := by
  unfold shlVal
  split
  · rw [← Nat.shiftLeft_eq]
    rfl
  · next h => exact BitVec.shiftLeft_eq_zero (by omega)

theorem shrVal_false (x y : Word) : shrVal false x y = if y.toNat < 32 then BitVec.ofNat 32 (x.toNat / 2 ^ y.toNat) else 0 := by
  simp only [shrVal, Bool.false_eq_true, if_false]
  split
  · apply BitVec.eq_of_toNat_eq
    have := Nat.div_le_self x.toNat (2 ^ y.toNat)
    rw [BitVec.toNat_ushiftRight, Nat.shiftRight_eq_div_pow, BitVec.toNat_ofNat, Nat.mod_eq_of_lt (by omega)]
  · next h => exact BitVec.ushiftRight_eq_zero (by omega)

theorem sshiftRight_all {x : Word} {n : Nat} (h : 32 ≤ n) : x.sshiftRight n = if x.getLsbD 31 then 0xFFFFFFFF else 0 := by
  have hs : x.sshiftRight n = BitVec.fill 32 x.msb := by
    ext i hi
    rw [BitVec.getElem_sshiftRight, dif_neg (by omega), BitVec.getElem_fill]
  rw [hs, show x.msb = x.getLsbD 31 from BitVec.msb_eq_getLsbD_last x]
  cases x.getLsbD 31 <;> rfl

theorem shrVal_true (x y : Word) : shrVal true x y = if y.toNat < 32 then BitVec.ofInt 32 (x.toInt / 2 ^ y.toNat)
    else if x.getLsbD 31 then 0xFFFFFFFF else 0 := by
  simp only [shrVal, if_true]
  split
  · rw [BitVec.sshiftRight_eq, Int.shiftRight_eq_div_pow, Int.natCast_pow]
    rfl
  · next h => exact sshiftRight_all (by omega)

theorem imnxVal_eq (f : ImnxF) (x y : Word) : imnxVal f x y = match f with
    | .smin => if y.toInt < x.toInt then y else x
    | .smax => if x.toInt < y.toInt then y else x
    | .nmin => if y.toNat < x.toNat then y else x
    | .nmax => if x.toNat < y.toNat then y else x := by
  cases f <;> simp [imnxVal, BitVec.slt_iff_toInt_lt, BitVec.ult_iff_lt, BitVec.lt_def]

theorem beq_eq_decide_eq (x y : Word) : (x == y) = decide (x = y) := by
  by_cases h : x = y
  · rw [beq_iff_eq.mpr h, decide_eq_true h]
  · rw [beq_eq_false_iff_ne.mpr h, decide_eq_false h]

theorem icmpVal_eq (f : IcmpF) (x y : Word) : icmpVal f x y = match f with
      | .eq => decide (x = y) | .ne => decide (x ≠ y) | .lt => decide (x.toInt < y.toInt) | .le => decide (x.toInt ≤ y.toInt)
      | .gt => decide (y.toInt < x.toInt) | .ge => decide (y.toInt ≤ x.toInt)
      | .ltn => decide (x.toNat < y.toNat) | .len => decide (x.toNat ≤ y.toNat) := by
  cases f with
  | eq => exact beq_eq_decide_eq x y
  | ne => rw [icmpVal, bne, beq_eq_decide_eq, ← decide_not]
  | lt | gt => exact BitVec.slt_eq_decide ..
  | le | ge => exact BitVec.sle_eq_decide ..
  | ltn => exact BitVec.ult_eq_decide ..
  | len => exact BitVec.ule_eq_decide ..

theorem ofInt_bmod_word (n : Int) : BitVec.ofInt 32 (n.bmod (2 ^ 32)) = BitVec.ofInt 32 n := by
  rw [← BitVec.toInt_ofInt, BitVec.ofInt_toInt]

theorem idivVal_sq {x y : Word} (h : y ≠ 0) : idivVal .sq x y = BitVec.ofInt 32 (x.toInt.tdiv y.toInt) := by
  rw [idivVal, if_neg h, ← ofInt_bmod_word, ← BitVec.toInt_sdiv, BitVec.ofInt_toInt]

theorem idivVal_sr {x y : Word} (h : y ≠ 0) : idivVal .sr x y = BitVec.ofInt 32 (x.toInt.tmod y.toInt) := by
  rw [idivVal, if_neg h, ← BitVec.toInt_srem, BitVec.ofInt_toInt]

theorem idivVal_nq {x y : Word} (h : y ≠ 0) : idivVal .nq x y = BitVec.ofNat 32 (x.toNat / y.toNat) := by
  rw [idivVal, if_neg h, BitVec.udiv_eq, BitVec.udiv_def]

theorem idivVal_nr {x y : Word} (h : y ≠ 0) : idivVal .nr x y = BitVec.ofNat 32 (x.toNat % y.toNat) := by
  rw [idivVal, if_neg h, BitVec.umod_eq, BitVec.umod_def]

theorem add64Val_eq (f : Add64F) (x y : Pair) : add64Val f x y = match f with
    | .add => BitVec.ofNat 64 (x.toNat + y.toNat)
    | .sub => BitVec.ofInt 64 ((x.toNat : Int) - y.toNat)
    | .x4 => BitVec.ofNat 64 (x.toNat + y.toNat * 4)
    | .x8 => BitVec.ofNat 64 (x.toNat + y.toNat * 8)
    | .x16 => BitVec.ofNat 64 (x.toNat + y.toNat * 16) := by
  have shl (n : Nat) : y <<< n = BitVec.ofNat 64 (y.toNat * 2 ^ n) := by rw [← Nat.shiftLeft_eq]; rfl
  cases f with
  | add => exact BitVec.add_def ..
  | sub => rw [add64Val, Int.sub_eq_add_neg, BitVec.ofInt_add, BitVec.ofInt_neg, BitVec.ofInt_natCast, BitVec.ofInt_natCast,
      BitVec.ofNat_toNat, BitVec.ofNat_toNat, BitVec.setWidth_eq, BitVec.setWidth_eq, BitVec.sub_eq_add_neg]
  | x4 | x8 | x16 => simp [add64Val, shl, BitVec.ofNat_add]

theorem add_mul_eq_ofNat (o x y : Word) : o + x * y = BitVec.ofNat 32 (o.toNat + x.toNat * y.toNat) := by
  simp [BitVec.ofNat_add, BitVec.ofNat_mul]

theorem add_imadProduct_signed (o : Pair) (x y : Word) : o + imadProduct true x y = BitVec.ofInt 64 (o.toInt + x.toInt * y.toInt) := by
  simp [imadProduct, BitVec.ofInt_add, signExtend_mul]

theorem add_imadProduct_unsigned (o : Pair) (x y : Word) : o + imadProduct false x y = BitVec.ofNat 64 (o.toNat + x.toNat * y.toNat) := by
  rw [BitVec.ofNat_add, BitVec.ofNat_toNat, BitVec.setWidth_eq, ← zeroExtend_mul]
  rfl

theorem get128_length (t : Thread) (a : Src) : (a.get128 t).length = 4 := by
  cases a with
  | v n => exact Store.reads_length ..
  | _ => rfl

/-! ## Bit fields (R94) -/

theorem bfPos_eq (b : Word) : bfPos b = b.toNat % 32 := by simp [bfPos]

theorem bfWid_eq (b : Word) : bfWid b = min (b.toNat / 256 % 64) (32 - b.toNat % 32) := by
  simp [bfWid, bfPos_eq, Nat.shiftRight_eq_div_pow]

theorem bfWid_le (b : Word) : bfWid b ≤ 32 := by
  rw [bfWid]
  omega

theorem getLsbD_lowMask {wid i : Nat} (h : wid ≤ 32) : (lowMask wid).getLsbD i = decide (i < wid) := by
  rw [lowMask, BitVec.getLsbD_ofNat, Nat.testBit_two_pow_sub_one]
  have : i < wid → i < 32 := by omega
  simpa

/-- The field of `x` at `pos`, `wid` bits wide. -/
theorem ushiftRight_and_lowMask (x : Word) {pos wid : Nat} (h : wid ≤ 32) :
    (x >>> pos) &&& lowMask wid = BitVec.ofNat 32 (x.toNat / 2 ^ pos % 2 ^ wid) := by
  have hp : 2 ^ wid ≤ 2 ^ 32 := Nat.pow_le_pow_right (by decide) h
  have h0 : 0 < 2 ^ wid := Nat.two_pow_pos wid
  have hf := Nat.mod_lt (x.toNat / 2 ^ pos) h0
  apply BitVec.eq_of_toNat_eq
  rw [BitVec.toNat_and, lowMask, BitVec.toNat_ofNat, BitVec.toNat_ofNat, Nat.mod_eq_of_lt (a := 2 ^ wid - 1) (by omega),
    Nat.and_two_pow_sub_one_eq_mod, BitVec.toNat_ushiftRight, Nat.shiftRight_eq_div_pow, Nat.mod_eq_of_lt (a := _ % 2 ^ wid) (by omega)]

theorem bfxVal_false (x b : Word) {pos wid : Nat} (hp : pos = bfPos b) (hw : wid = bfWid b) :
    bfxVal false x b = BitVec.ofNat 32 (x.toNat / 2 ^ pos % 2 ^ wid) := by
  have h : wid ≤ 32 := hw ▸ bfWid_le b
  simp only [bfxVal, ← hp, ← hw, Bool.false_and, Bool.false_eq_true, if_false]
  split
  · next h0 => simp [h0, Nat.mod_one]
  · exact ushiftRight_and_lowMask x h

/-- Ones above the low `wid` bits take 2^wid from a number of `wid` bits. -/
theorem or_not_lowMask {f wid : Nat} (h : wid ≤ 32) (hf : f < 2 ^ wid) :
    BitVec.ofNat 32 f ||| ~~~lowMask wid = BitVec.ofInt 32 ((f : Int) - 2 ^ wid) := by
  have hd : BitVec.ofNat 32 f &&& ~~~lowMask wid = 0#32 := by
    ext i hi
    rw [BitVec.getElem_and, BitVec.getElem_not, ← BitVec.getLsbD_eq_getElem, ← BitVec.getLsbD_eq_getElem, getLsbD_lowMask h, BitVec.getLsbD_ofNat]
    by_cases h' : i < wid
    · rw [decide_eq_true h', Bool.not_true, Bool.and_false, BitVec.getElem_zero]
    · have hb : f.testBit i = false :=
        Nat.testBit_lt_two_pow (Nat.lt_of_lt_of_le hf (Nat.pow_le_pow_right (by decide) (Nat.le_of_not_lt h')))
      rw [hb, Bool.and_false, Bool.false_and, BitVec.getElem_zero]
  have hm : lowMask wid + 1 = BitVec.ofInt 32 (2 ^ wid) := by
    have h1 : 2 ^ wid - 1 + 1 = 2 ^ wid := Nat.sub_add_cancel Nat.one_le_two_pow
    have h2 : lowMask wid + 1 = BitVec.ofNat 32 (2 ^ wid - 1 + 1) := (BitVec.ofNat_add ..).symm
    rw [h2, h1, ← BitVec.ofInt_natCast, Int.natCast_pow]
    rfl
  have hn : ~~~lowMask wid = -BitVec.ofInt 32 (2 ^ wid) := by
    rw [← hm]
    exact (BitVec.not_eq_neg_add _).trans BitVec.neg_add.symm
  rw [← BitVec.add_eq_or_of_and_eq_zero _ _ hd, hn, ← BitVec.ofInt_neg, ← BitVec.ofInt_natCast, ← BitVec.ofInt_add, Int.sub_eq_add_neg]

/-- The top bit of a number of `n + 1` bits. -/
theorem testBit_top {f n : Nat} (h : f < 2 ^ (n + 1)) : f.testBit n = decide (2 ^ n ≤ f) := by
  by_cases hf : 2 ^ n ≤ f
  · simp [hf, Nat.testBit_of_two_pow_le_and_two_pow_add_one_gt hf h]
  · simp [hf, Nat.testBit_lt_two_pow (Nat.lt_of_not_le hf)]

theorem bfxVal_true (x b : Word) {pos wid f : Nat} (hp : pos = bfPos b) (hw : wid = bfWid b) (hf : f = x.toNat / 2 ^ pos % 2 ^ wid) :
    bfxVal true x b = if wid = 0 ∨ f < 2 ^ (wid - 1) then BitVec.ofNat 32 f else BitVec.ofInt 32 ((f : Int) - 2 ^ wid) := by
  have h : wid ≤ 32 := hw ▸ bfWid_le b
  have hl : f < 2 ^ wid := hf ▸ Nat.mod_lt _ (Nat.two_pow_pos wid)
  simp only [bfxVal, ← hp, ← hw, Bool.true_and, ushiftRight_and_lowMask x h, ← hf]
  by_cases h0 : wid = 0
  · have : f = 0 := by rw [h0] at hl; omega
    simp [h0, this]
  · have hs : (BitVec.ofNat 32 f).getLsbD (wid - 1) = decide (2 ^ (wid - 1) ≤ f) := by
      rw [BitVec.getLsbD_ofNat, testBit_top (by rwa [Nat.sub_add_cancel (by omega)]), decide_eq_true (by omega), Bool.true_and]
    rw [if_neg h0, hs]
    by_cases hb : 2 ^ (wid - 1) ≤ f
    · rw [if_pos (decide_eq_true hb), if_neg (by omega), or_not_lowMask h hl]
    · rw [if_neg (by rw [decide_eq_false hb]; decide), if_pos (.inr (Nat.lt_of_not_le hb))]

/-- A bit of `bfi`'s result is a bit of a inside the field and a bit of the old d outside. -/
theorem getLsbD_bfiVal (old a b : Word) {i : Nat} (hi : i < 32) : (bfiVal old a b).getLsbD i =
    if bfPos b ≤ i ∧ i < bfPos b + bfWid b then a.getLsbD (i - bfPos b) else old.getLsbD i := by
  have h := bfWid_le b
  simp only [bfiVal, BitVec.getLsbD_or, BitVec.getLsbD_and, BitVec.getLsbD_not, BitVec.getLsbD_shiftLeft, getLsbD_lowMask h, hi]
  by_cases hl : bfPos b ≤ i
  · by_cases hr : i < bfPos b + bfWid b
    · have : i - bfPos b < bfWid b := by omega
      simp [hl, hr, this, Nat.not_lt.mpr hl]
    · have : ¬ i - bfPos b < bfWid b := by omega
      simp [hr, this]
  · simp [hl, Nat.lt_of_not_le hl]

/-! ## Counting bits (R95) -/

theorem popc_eq (x : Word) (n : Nat) : popc x n = (List.range n).countP fun j => x.getLsbD j := by
  induction n with
  | zero => rfl
  | succ n ih => simp [popc, ih, List.range_succ]

/-- Below bit `m` the first one bit from above lies behind `n` zero bits. -/
theorem clzFrom_eq (x : Word) {m n : Nat} (hn : n ≤ m) (hz : ∀ j, m - n ≤ j → j < m → x.getLsbD j = false)
    (ho : n < m → x.getLsbD (m - 1 - n) = true) : clzFrom x m = n := by
  induction m generalizing n with
  | zero => exact (Nat.le_zero.mp hn).symm
  | succ m ih =>
    cases n with
    | zero => simp [clzFrom, show x.getLsbD m = true from ho (by omega)]
    | succ n =>
      have hm : x.getLsbD m = false := hz m (by omega) (by omega)
      have := ih (n := n) (by omega) (fun j hj hj' => hz j (by omega) (by omega)) (fun h => by
        rw [show m - 1 - n = m + 1 - 1 - (n + 1) by omega]; exact ho (by omega))
      simp [clzFrom, hm, this]

/-- From bit `32 - m` up the first one bit lies behind `n` zero bits. -/
theorem ctzFrom_eq (x : Word) {m n : Nat} (hm : m ≤ 32) (hn : n ≤ m) (hz : ∀ j, 32 - m ≤ j → j < 32 - m + n → x.getLsbD j = false)
    (ho : n < m → x.getLsbD (32 - m + n) = true) : ctzFrom x m = n := by
  induction m generalizing n with
  | zero => exact (Nat.le_zero.mp hn).symm
  | succ m ih =>
    have hb : 31 - m = 32 - (m + 1) := by omega
    cases n with
    | zero => simp [ctzFrom, show x.getLsbD (31 - m) = true from hb ▸ ho (by omega)]
    | succ n =>
      have h0 : x.getLsbD (31 - m) = false := hz _ (by omega) (by omega)
      have := ih (n := n) (by omega) (by omega) (fun j hj hj' => hz j (by omega) (by omega)) (fun h => by
        rw [show 32 - m + n = 32 - (m + 1) + (n + 1) by omega]; exact ho (by omega))
      simp [ctzFrom, h0, this]

theorem reverse_eq {x v : Word} (h : ∀ j, j < 32 → v.getLsbD (31 - j) = x.getLsbD j) : x.reverse = v := by
  apply BitVec.eq_of_getLsbD_eq
  intro i hi
  have := h (31 - i) (by omega)
  rw [show 31 - (31 - i) = i by omega] at this
  rw [BitVec.getLsbD_reverse, BitVec.getMsbD, decide_eq_true hi, Bool.true_and, this]

/-! ## Signs (R99) -/

theorem neg_eq_ofInt (x : Word) : -x = BitVec.ofInt 32 (-x.toInt) := by
  rw [BitVec.ofInt_neg, BitVec.ofInt_toInt]

theorem iabsVal_abs (x : Word) : iabsVal .abs x = BitVec.ofNat 32 x.toInt.natAbs := by
  rw [iabsVal, ← BitVec.ofInt_natCast]
  by_cases h : x.toInt < 0
  · rw [if_pos (by simpa [BitVec.slt_iff_toInt_lt] using h), neg_eq_ofInt, Int.ofNat_natAbs_of_nonpos (by omega)]
  · rw [if_neg (by simpa [BitVec.slt_iff_toInt_lt] using h), Int.natAbs_of_nonneg (by omega), BitVec.ofInt_toInt]

theorem iabsVal_sgn (x : Word) : iabsVal .sgn x = if 0 < x.toInt then 1 else if x.toInt = 0 then 0 else 0xFFFFFFFF := by
  have h0 : x = 0 ↔ x.toInt = 0 := by rw [← BitVec.toInt_inj]; rfl
  have hs : x.slt 0 = true ↔ x.toInt < 0 := by simp [BitVec.slt_iff_toInt_lt]
  rw [iabsVal]
  rcases Int.lt_trichotomy x.toInt 0 with h | h | h
  · rw [if_neg (by rw [h0]; omega), if_pos (hs.mpr h), if_neg (by omega), if_neg (by omega)]
  · rw [if_pos (h0.mpr h), if_neg (by omega), if_pos h]
  · rw [if_neg (by rw [h0]; omega), if_neg (by rw [hs]; omega), if_pos h]

/-! ## Permutes (R119) -/

/-- Slice `j` of a word that is cut into slices of `k` bits. -/
theorem slice_toNat {w : Nat} (x : BitVec w) (k j : Nat) : (x.extractLsb' (k * j) k).toNat = x.toNat / (2 ^ k) ^ j % 2 ^ k := by
  rw [BitVec.extractLsb'_toNat, Nat.shiftRight_eq_div_pow, Nat.pow_mul]

theorem getLsbD_top {n : Nat} (x : BitVec (n + 1)) : x.getLsbD n = decide (2 ^ n ≤ x.toNat) :=
  testBit_top x.isLt

theorem prmByte_toNat (old : Word) (src : Pair) (j : Nat) : (prmByte old src j).toNat =
    (let sel := old.toNat / 16 ^ j % 16
     let x := (src.toNat / 256 ^ (sel % 8)) % 256
     if sel < 8 then x else if 128 ≤ x then 255 else 0) := by
  have hs : (old.extractLsb' (4 * j) 4).toNat = old.toNat / 16 ^ j % 16 := slice_toNat old 4 j
  have hr : ((old.extractLsb' (4 * j) 4).extractLsb' 0 3).toNat = old.toNat / 16 ^ j % 16 % 8 := by
    rw [BitVec.extractLsb'_toNat, hs, Nat.shiftRight_zero]
  have hx : (src.extractLsb' (8 * (old.toNat / 16 ^ j % 16 % 8)) 8).toNat = src.toNat / 256 ^ (old.toNat / 16 ^ j % 16 % 8) % 256 :=
    slice_toNat src 8 _
  simp only [prmByte, hr, getLsbD_top, hs, hx, decide_eq_true_eq]
  by_cases h : old.toNat / 16 ^ j % 16 < 8
  · rw [if_neg (by omega), if_pos h, hx]
  · rw [if_pos (by omega), if_neg h, apply_ite BitVec.toNat]
    rfl

/-- A word is its four bytes. -/
theorem bytes_append_eq {v : Word} {b : Nat → BitVec 8} (h : ∀ j, j < 4 → v.toNat / 256 ^ j % 256 = (b j).toNat) :
    (b 3 ++ b 2 ++ b 1 ++ b 0 : Word) = v := by
  have hb : ∀ j, j < 4 → b j = v.extractLsb' (8 * j) 8 := fun j hj =>
    BitVec.eq_of_toNat_eq ((h j hj).symm.trans (slice_toNat v 8 j).symm)
  rw [hb 0 (by decide), hb 1 (by decide), hb 2 (by decide), hb 3 (by decide)]
  rw [BitVec.extractLsb'_append_extractLsb'_eq_extractLsb' (by decide), BitVec.extractLsb'_append_extractLsb'_eq_extractLsb' (by decide),
    BitVec.extractLsb'_append_extractLsb'_eq_extractLsb' (by decide)]
  exact BitVec.extractLsb'_eq_self

theorem prmVal_eq {old a b v : Word} (h : ∀ j, j < 4 → v.toNat / 256 ^ j % 256 = (prmByte old (b ++ a) j).toNat) : prmVal old a b = v :=
  bytes_append_eq (b := prmByte old (b ++ a)) h

end Sys2Proof.Machine
end

section
/-!
SUPPORT. The statements about the integer, select and move instructions (chapter 5), each from the rules and values above.
-/
namespace Sys2Proof.Machine

/-- Settles O8: each form is `alu2` and completes under `Issues`; the values are facts about `imulVal`, `imnxVal`, `shlVal`, `shrVal` and
`icmpVal`. -/
theorem integerTwoSources : Obligations.IntegerTwoSources := by
  intro s t d a b m h x y gives
  refine ⟨alu2_completes (exec_iadd ..) h (BitVec.add_def ..), alu2_completes (exec_isub ..) h (ofInt_sub_toInt ..),
    alu2_completes (exec_imul ..) h (imulVal_lo ..), alu2_completes (exec_imul ..) h (imulVal_hi ..),
    alu2_completes (exec_imul ..) h (imulVal_hin ..), alu2_completes (exec_imnx ..) h (imnxVal_eq ..),
    alu2_completes (exec_imnx ..) h (imnxVal_eq ..), alu2_completes (exec_imnx ..) h (imnxVal_eq ..),
    alu2_completes (exec_imnx ..) h (imnxVal_eq ..), alu2_completes (exec_and ..) h rfl, alu2_completes (exec_and ..) h rfl,
    alu2_completes (exec_or ..) h rfl, alu2_completes (exec_or ..) h rfl, alu2_completes (exec_xor ..) h rfl,
    alu2_completes (exec_xor ..) h rfl, alu2_completes (exec_shl ..) h (shlVal_eq ..), alu2_completes (exec_shr ..) h (shrVal_false ..),
    alu2_completes (exec_shr ..) h (shrVal_true ..),
    fun f => alu2_completes (exec_icmp ..) h (congrArg bool32 (icmpVal_eq f x y)), ?_⟩
  and_intros <;> exact coded_of_mkR rfl rfl rfl

/-- Settles O9: the wide results are pairs, and the model's sums and products are the integers' modulo a power of two. -/
theorem wideArithmetic : Obligations.WideArithmetic := by
  intro s t d a b m halves k
  refine ⟨fun h => alu3_completes (exec_imad_w32 ..) h (add_mul_eq_ofNat ..), fun h => ⟨?_, ?_⟩, fun h => ?_⟩
  · exact pair_completes (exec_imad_w64 ..) h (add_imadProduct_signed ..)
  · exact pair_completes (exec_imad_w64n ..) h (add_imadProduct_unsigned ..)
  · have completes : ∀ f, CompletesF s t (exec (.add64 d a b f m) s) _ (halves _) 0 _ := fun f =>
      pair_completes (exec_add64 s d a b m f) h (add64Val_eq f ..)
    refine ⟨completes .add, completes .sub, completes .x4, completes .x8, completes .x16, fun w => rfl, ?_⟩
    and_intros <;> exact coded_of_mkR rfl rfl rfl

/-- Settles O10: the result of class V is outstanding, and its value is the quotient or the remainder of the integers. -/
theorem integerDivision : Obligations.IntegerDivision := by
  intro s t d a b m h x y gives
  refine ⟨fun h0 => ?_, fun h0 => ?_, ?_⟩
  · exact ⟨classV_completes (exec_idiv ..) h (if_pos h0), classV_completes (exec_idiv ..) h (if_pos h0),
      classV_completes (exec_idiv ..) h (if_pos h0), classV_completes (exec_idiv ..) h (if_pos h0)⟩
  · exact ⟨classV_completes (exec_idiv ..) h (idivVal_sq h0), classV_completes (exec_idiv ..) h (idivVal_sr h0),
      classV_completes (exec_idiv ..) h (idivVal_nq h0), classV_completes (exec_idiv ..) h (idivVal_nr h0)⟩
  · and_intros <;> exact coded_of_mkR rfl rfl rfl

/-- Settles O11: `sel` and `mov` give what they read, and `prm` is known by its four bytes, each of which is `prmByte`. -/
theorem selectMovePermute : Obligations.SelectMovePermute := by
  intro s t d a b m k halves
  refine ⟨fun h => ⟨alu3_completes (exec_sel_w32 ..) h rfl, fun v hv => ?_⟩, coded_of_mkR rfl rfl rfl, coded_of_mkR rfl rfl rfl,
    coded_of_mkR rfl rfl rfl, fun h => pair_completes (exec_sel_w64 ..) h rfl, fun h => alu1_completes (exec_mov_w32 ..) h rfl,
    fun h => pair_completes (exec_mov_w64 ..) h rfl, fun h => ?_⟩
  · exact alu3_completes (exec_prm ..) h (prmVal_eq fun j hj => (hv j hj).trans (prmByte_toNat ..).symm)
  · rw [exec_mov_w128]
    exact issue_finishF_completes h d (vs := fun _ t => a.get128 t) (get128_length t a) _ m

/-- The field that `bfx` extracts is a quotient and a remainder; `bfi` is known bit by bit. -/
theorem bitFields : Claim.BitFields := by
  intro s t d a b m x pos wid gives f
  have hp : pos = bfPos (b.get32 s s.cur t) := (bfPos_eq _).symm
  have hw : wid = bfWid (b.get32 s s.cur t) := (bfWid_eq _).symm
  refine ⟨fun h => ⟨?_, ?_⟩, fun h v hv => ?_, coded_of_mkR rfl rfl rfl, coded_of_mkR rfl rfl rfl, coded_of_mkR rfl rfl rfl⟩
  · exact alu2_completes (exec_bfx ..) h (bfxVal_false x _ hp hw)
  · exact alu2_completes (exec_bfx ..) h (bfxVal_true x _ hp hw rfl)
  · refine alu3_completes (exec_bfi ..) h (BitVec.eq_of_getLsbD_eq fun i hi => ?_)
    rw [getLsbD_bfiVal _ _ _ hi, hv i hi, hp, hw]

/-- The counts of `bits` come by induction on the bits looked at; `nop` retires, which is to finish with nothing to write. -/
theorem oneSource : Claim.OneSource := by
  intro s t d a i m
  refine ⟨fun h => ?_, fun h => ?_, fun h => ?_⟩
  · intro x gives
    refine ⟨alu1_completes (exec_bits ..) h (congrArg (BitVec.ofNat 32) (popc_eq x 32)), fun n hn hz ho => ?_,
      fun n hn hz ho => ?_, fun v hv => ?_, alu1_completes (exec_iabs ..) h (iabsVal_abs x), alu1_completes (exec_iabs ..) h (neg_eq_ofInt x),
      alu1_completes (exec_iabs ..) h (iabsVal_sgn x), ?_⟩
    · exact alu1_completes (exec_bits ..) h (congrArg (BitVec.ofNat 32) (clzFrom_eq x hn hz ho))
    · have hc : ctzFrom x 32 = n := ctzFrom_eq x (Nat.le_refl 32) hn (fun j _ hj => hz j (by omega)) (by simpa using ho)
      exact alu1_completes (exec_bits ..) h (congrArg (BitVec.ofNat 32) hc)
    · exact alu1_completes (exec_bits ..) h (reverse_eq hv)
    · and_intros <;> exact coded_of_mkR rfl rfl rfl
  · rw [exec_movi]
    exact issue_finishF_completes h d (vs := fun _ _ => [i.signExtend 32]) rfl _ m
  · rw [exec_nop, issue_of_issues h, retire_eq_finishF]
    exact finishF_completes h.found [] [] 0 0 m List.nodup_nil (Nat.le_refl 0)

/-- Settles O30, by its two claims. -/
theorem integerOneSource : Obligations.IntegerOneSource := ⟨bitFields, oneSource⟩

end Sys2Proof.Machine
end
